-- ==== Sys2Proof/Word.lean ====
section
/-! DEFINITION. The words of the QZ7040: a byte, a 32-bit register word and a 64-bit word. -/

namespace Sys2Proof

/-- One byte. -/
abbrev Byte := BitVec 8

/-- A 32-bit register word (R6). -/
abbrev Word := BitVec 32

/-- A 64-bit word: an address, a tick, an OTP word. -/
abbrev DWord := BitVec 64

end Sys2Proof
end

