-- ==== Sys2Proof/Syntax.lean ====
section
/-! DEFINITION. The commands of the QZ7040: one constructor per row of spec/opcode_table.json, with the operands
the world outside the block supplies (levels, codes, written values, what memory, flash and link partners answer). -/

namespace Sys2Proof

/-- Levels of the optional rails at the strap latch, in mV (Table 3-17). -/
structure RailLevels where
  bankA : Nat
  bankB : Nat
  bankC : Nat
  bankD : Nat
  phb : Nat
  peAvdd : Nat
  peAvddh : Nat
  dram2 : Nat
  dramQ : Nat
  cas : Nat
  deriving DecidableEq, Repr

/-- What happened on shared memory since the last command that reads it: the master's stores to shared memory and
to the DRAM window, in order, and the address ranges (first, length) whose device reads fail (R596). -/
structure Bus where
  stores : List (Nat × Byte)
  winStores : List (Nat × Byte)
  failing : List (Nat × Nat)
  dramFailing : List (Nat × Nat)
  deriving DecidableEq, Repr

/-- A LUN: channel, target, LUN (Table 9-4). -/
structure LunId where
  ch : Fin 16
  target : Fin 8
  lun : Fin 4
  deriving DecidableEq, Repr

/-- A page of a block (Table 9-4). -/
structure FlashPage where
  lun : LunId
  block : BitVec 20
  page : Nat
  deriving DecidableEq, Repr

/-- What the flash answered to a read (R508): codewords recovered at each step, the units or offsets that a rebuild
recovered (R457), and those whose data could not be recovered. For a read of records the numbers are their sequence numbers.
`retry`: the read is not at its end: a page of it does not decode, and the next step of its read-retry runs. -/
structure FlashRead where
  retryOk : Nat
  soft2Ok : Nat
  soft3Ok : Nat
  rebuilt : List Nat
  lost : List Nat
  retry : Option FlashPage
  deriving DecidableEq, Repr

/-- What a page holds: the core's own account of the data a program carries (the on-media format is no interface). -/
inductive Ref where
  /-- Version of a map unit: partition, unit, place in the visibility order. -/
  | unit (part u order : Nat)
  /-- Stream bytes: stream key, first offset, length. -/
  | bytes (stream off len : Nat)
  /-- A seal record: stream key, sequence number. -/
  | record (stream seq : Nat)
  /-- A copy of the last-gasp summary (R393). -/
  | summary
  /-- Filler (R39). -/
  | filler
  deriving DecidableEq, Repr

/-- Role of a Course (R453); the Footing's own Courses lie outside the roles. -/
inductive Role where
  | hot | cold | reloc | footing
  deriving DecidableEq, Repr

/-- What the core posts a Mason routine for (R531): the scheduler's choice of data, Course, member and row (R454), with
the new Course's role, blocks and Mortar member where the program is its first. -/
inductive FlashWork where
  | none
  | program (lun : LunId) (course member row : Nat) (slc : Bool) (refs : List Ref)
      (form : Option (Role × List (LunId × Nat) × Nat))
  | erase (lun : LunId) (block : Nat)
  | suspend (lun : LunId)
  deriving DecidableEq, Repr

/-- What the bus and the data path supply to a Mason during one word (R525, R528, R529). -/
structure WordIn where
  /-- Byte on DQ at the last clock of a byte-in word. -/
  dq : Byte
  dpReady : Bool
  dpErr : Bool
  /-- Sequencer clocks of a burst word. -/
  clocks : Nat
  deriving DecidableEq, Repr

/-- What a LUN answers to a status read (R500). -/
inductive PollAnswer where
  | busy | done | fail | noResponse
  deriving DecidableEq, Repr

/-- One complete trim sweep of a target (R562): centres and window widths. -/
structure Sweep where
  rd : Nat
  rdWin : Nat
  wr : Nat
  wrWin : Nat
  deriving DecidableEq, Repr

/-- One threshold search of a block group (R564): the best vector P1 to P4 and whether it decodes the sample. -/
structure Search where
  p : List Int
  decoded : Bool
  deriving DecidableEq, Repr

/-- A cascade packet (Tables 19-2 and 19-3): header and payload. -/
structure Packet where
  type : Nat
  cls : Nat
  lastSeg : Bool
  dest : Nat
  src : Nat
  txn : Nat
  seg : Nat
  payload : List Byte
  deriving DecidableEq, Repr

/-- A packet as a port receives it: SEQ of its START block, whether the CRC is good, whether it is stomped (R611, R613). -/
structure Rx where
  seq : BitVec 12
  crcOk : Bool
  stomp : Bool
  pkt : Packet
  deriving DecidableEq, Repr

/-- Outcome of one codeword of a RAW_READ (R49, R283, R507). -/
inductive CwResult where
  | good
  | erased
  | failed (raw : List Byte)
  deriving DecidableEq, Repr

/-- What a SELF_TEST found (Table 21-5): the failed tests, the DETAIL of the lowest, whether the ADC reference failed, and the
channels, LUNs and ports that failed tests 7, 8 and 10. -/
structure SelfTest where
  failed : BitVec 11
  detail : DWord
  adc : Bool
  channels : List (Fin 16)
  luns : List LunId
  ports : List (Fin 3)
  deriving DecidableEq, Repr

/-- A partition as an admitted member holds it, for the span partitions (R628): type, block size, capacity in map units. -/
structure MemberPart where
  member : Fin 4096
  part : Fin 32
  isStream : Bool
  lbs4k : Bool
  units : Nat
  deriving DecidableEq, Repr

/-- The resting state of the PCIe link as LINK_POWER_STATE reports it (R115). -/
inductive LinkPm where
  | l0 | l1 | l11 | l12 | l2
  deriving DecidableEq, Repr

/-- What a configuration write changes (R115, R249, R417). -/
inductive ConfigChange where
  | msix (enable funcMask : Bool)
  | msi (enable : Bool) (grantedLog2 : Fin 6) (addr : DWord) (data : BitVec 16)
  | msiMask (mask : Word)
  | dstate (d3hot : Bool)
  | memSpace (enable : Bool)
  /-- A write of any other dword of configuration space: its number and the value written. -/
  | dword (n : BitVec 10) (value : Word)
  deriving DecidableEq, Repr

/-- The commands of the block, one for each row of spec/opcode_table.json. A command of a consumed entry names it
by its queue and count; queue 4,096 is the cascade queue. -/
inductive Instr where
  -- start-up (chapters 3, 4, 13)
  | powerOn
  | vaonLoss
  | resetAssert
  | resetRelease (straps : BitVec 8) (rails : RailLevels) (testEn : Bool)
  | strapCompare (levels : BitVec 8)
  | coreRelease (dramGib : Fin 9)
  | pllLockTimeout
  | firmwareStart (hashOk signOk identityOk : Bool)
  | probe (found : List (LunId × DWord)) (mcOk : Bool)
  | bootWindowEntry
  | recoveryStart
  | footingCheck (descOk : Bool) (written : List (LunId × Nat))
  | recovered (plinthOk : Bool) (scanned : Nat)
  | fullService
  | footingRebuild
  | autoLock
  -- host link, clocks, power (chapters 4, 12)
  | perstAssert
  | linkDown
  | linkUp (lanes : Fin 5) (gen : Fin 5)
  | flr
  | pfailAssert
  | vddCoreLow
  | sysclkLoss
  | thermalCritical
  | pfSafe
  | railLoss (bank : Fin 4)
  | adcSample (raw : BitVec 12)
  | ackRelease
  | thermalSample (s0 s1 s2 s3 : Int)
  | domainGate (d : Fin 22) (power : Bool) (packets : List Nat)
  | domainWake (d : Fin 22) (packets : List Nat)
  -- register accesses (chapter 6)
  | tickCapture
  | registerWrite (offset : BitVec 12) (value : Word) (be : BitVec 4)
  | roReq (irqEn : Bool)
  | haltReq (roReq softReset irqEn : Bool)
  | softReset (roReq irqEn : Bool)
  | irqEnableWrite
  | irqMaskWrite (mask : Word)
  | bootLockSet
  | admqEnable (value : Word)
  | admqDisable (value : Word)
  | qinvSlot (slot : BitVec 12)
  | qinvAll
  -- queues (chapters 7, 8)
  | doorbell (n : Fin 4096) (be : BitVec 4)
  | queueScan (bus : Bus)
  | scanResume (q : Fin 4096)
  | entryCrcReread (q : Fin 4096) (count : Word) (bus : Bus)
  | writeVisible (q : Fin 4097) (count : Word)
  | shadowWrite (q : Fin 4096)
  | coalTimeout (q : Fin 4096)
  -- I/O commands (chapter 9)
  | read (q : Fin 4097) (count : Word) (bus : Bus) (fl : FlashRead)
  | write (q : Fin 4097) (count : Word) (bus : Bus)
  | writeZeroes (q : Fin 4097) (count : Word) (bus : Bus)
  | trim (q : Fin 4097) (count : Word) (bus : Bus)
  | flush (q : Fin 4097) (count : Word)
  | fence (q : Fin 4097) (count : Word)
  | streamOpen (q : Fin 4097) (count : Word)
  | streamAppend (q : Fin 4097) (count : Word) (bus : Bus)
  | streamMark (q : Fin 4097) (count : Word)
  | streamClose (q : Fin 4097) (count : Word)
  | streamRead (q : Fin 4097) (count : Word) (bus : Bus) (fl : FlashRead)
  | rawRead (q : Fin 4097) (count : Word) (bus : Bus) (cws : List CwResult) (retry : Option FlashPage)
  | streamTransfer (q : Fin 4097) (count : Word)
  -- admin commands (chapter 9)
  | identify (count : Word) (bus : Bus)
  | attest (count : Word) (bus : Bus)
  | createQueue (count : Word)
  | disableQueue (count : Word) (bus : Bus)
  | destroyQueue (count : Word)
  | queryQueue (count : Word)
  | createPartition (count : Word) (bus : Bus)
  | deletePartition (count : Word)
  | setHold (count : Word)
  | setTime (count : Word)
  | getLog (count : Word) (bus : Bus)
  | setFeature (count : Word)
  | getFeature (count : Word)
  | loadProfile (count : Word) (bus : Bus)
  | loadMicrocode (count : Word) (bus : Bus)
  | commitFirmware (count : Word) (bus : Bus)
  | startCalibration (count : Word)
  | attachMapStore (count : Word) (bus : Bus)
  | detachMapStore (count : Word)
  | cascadeEnumerate (count : Word) (held : List MemberPart)
  | cascadeRoster (count : Word) (bus : Bus)
  | adoptMedia (count : Word) (bus : Bus)
  | sanitize (count : Word) (residue : Nat)
  | selfTest (count : Word) (r : SelfTest)
  -- streams (chapter 11)
  | ashlarTimeout (part : Fin 32) (stream : BitVec 16)
  | capstoneSigned
  | retentionCheck
  -- media (chapters 14, 15, 21)
  | flashStatusPoll (lun : LunId) (answer : PollAnswer)
  | flashResume (lun : LunId) (fail : Bool)
  | gcReclaim
  | wearLevel
  | refresh (lun : LunId) (block : BitVec 20) (soft3 : Bool)
  | footingFold
  | dieRelocate
  | blockErase
  | plinthWrite
  | hmapScrub (bus : Bus)
  | overdrivePeriod (waited : Bool) (bgBytes gcShare : Nat)
  | healthCommit
  -- calibration (chapter 17)
  | calReqTrim (value : Word)
  | calReqTrack (value : Word)
  | calReqHoldup (value : Word)
  | calTrimRun (results : List (Nat × Sweep × Sweep))
  | calTrackRun (results : List (Nat × Search × Search))
  | calHoldupRun
  | holdupDischargeTimeout
  | holdupRechargeTimeout
  | holdupConditionTimeout
  | calRepeat (kind : Fin 3)
  -- Mason sequencers (chapter 16)
  | mcSwitch (value : Word)
  | mcForce (value : Word)
  | switchTaken (ch : Fin 16) (inputs : List WordIn)
  | mcSwitchTimeout (ch : Fin 16)
  | machineCheck (ch : Fin 16) (addr : BitVec 12) (readbackOk referenceOk : Bool)
  | mcScrub (bad : List (Fin 5 × Bool × BitVec 12))
  | masonRoutinePost (ch : Fin 16) (routine : Fin 32) (opnds : Vector Word 8) (work : FlashWork)
  | masonEvent (ch : Fin 16) (inputs : List WordIn)
  -- Block Mover (chapter 18)
  | movStart (value : Word)
  | movAbort (value : Word)
  | evtInEdge (pin : Fin 4)
  | moverDescFetch (ch : Fin 32) (bus : Bus)
  | moverBurstStart (ch : Fin 32)
  | moverBurstDone (ch : Fin 32) (bus : Bus)
  | evtOutEnd (pin : Fin 4)
  -- Kwaorn Link cascade (chapter 19)
  | portTrain (port : Fin 3)
  | trainRetry (port : Fin 3)
  | train (port : Fin 3) (role version : Byte) (keystone : Bool)
  | ack (port : Fin 3) (seq : BitVec 12)
  | nak (port : Fin 3) (seq : BitVec 12)
  | credit (port : Fin 3) (ent req rsp : BitVec 16)
  | replayTimeout (port : Fin 3)
  | creditTimer (port : Fin 3)
  | leaveDetect (port : Fin 3)
  | entry (port : Fin 3) (rx : Rx)
  | pull (port : Fin 3) (rx : Rx) (bus : Bus)
  | pulldata (port : Fin 3) (rx : Rx)
  | rdata (port : Fin 3) (rx : Rx) (bus : Bus)
  | compl (port : Fin 3) (rx : Rx)
  | enum (port : Fin 3) (rx : Rx)
  | enumAck (port : Fin 3) (rx : Rx)
  | attestReq (port : Fin 3) (rx : Rx)
  | attestRsp (port : Fin 3) (rx : Rx)
  | attestTimeout
  | join (port : Fin 3) (rx : Rx)
  | leave (port : Fin 3) (rx : Rx)
  | keyq (port : Fin 3) (rx : Rx)
  | keyrsp (port : Fin 3) (rx : Rx)
  -- MSP and OTP (chapter 20)
  | mspReadStatus (arg hcrc : BitVec 16)
  | mspReadId (arg hcrc : BitVec 16)
  | readOtp (arg hcrc : BitVec 16)
  | readSnapshot (arg hcrc : BitVec 16)
  | orderSet (arg : BitVec 16) (payload : Word) (hcrc : BitVec 16)
  | orderClear (arg : BitVec 16) (payload : Word) (hcrc : BitVec 16)
  | burn (arg : BitVec 16) (payload : DWord) (hcrc : BitVec 16)
  | mspBadOp (op : Byte) (arg hcrc : BitVec 16)
  | mspCsRise (clocks : Nat) (failing : DWord)
  | orderApply
  | disagreeTimeout
  | thermometerBurn (firmware : Bool)
  -- pins and the PCIe function (chapters 3, 4, 8, 12, 19)
  | pfailDeassert
  | perstRelease
  | presenceChange (present : BitVec 3)
  | blockLockAcquired (port : Fin 3)
  | blockLockLost (port : Fin 3)
  | configWrite (change : ConfigChange)
  | msixTableWrite (offset : BitVec 15) (value : DWord) (wide : Bool)
  | linkPowerState (pm : LinkPm)
  | boundaryScanInstruction (code : Option (BitVec 4)) (cells : BitVec 1545) (levels : BitVec 515) (straps : BitVec 8)
      (rails : RailLevels) (testEn : Bool)
  deriving DecidableEq, Repr

end Sys2Proof
end

