-- ==== Sys2Proof/Decode.lean ====
section
/-! DEFINITION. The command that a word spells by the bits of spec/opcode_table.json. No row of the table gives bits:
the block takes its commands from its pins, its register page and its queues, not from words. -/

namespace Sys2Proof

/-- No word spells a command: no row of the opcode table has fields. -/
def decodeTableWord (_nbits _w : Nat) : Option Instr := none

end Sys2Proof
end

