-- ==== Sys2Proof/Config.lean ====
section
/-! DEFINITION. The random numbers, the keys the spec does not publish, and the values it leaves open. Each is an opaque
constant: no proof can see a value of it (logs 2, 35). -/

namespace Sys2Proof

/-- The Porolind issuing public key in mask ROM (R666). -/
opaque Config.issuerKey : BitVec 520

/-- The Porolind firmware public key in mask ROM (R670). -/
opaque Config.firmwareKey : BitVec 520

/-- The Porolind patch public key (R536). -/
opaque Config.patchKey : BitVec 520

/-- The n-th 256-bit number of the on-chip random bit generator (R316, R328). -/
opaque Config.random : Nat → BitVec 256

/-- The 256-bit key-wrapping key derived from the protected key area (R317, R665): the spec does not say how. -/
opaque Config.deriveKek : List DWord → BitVec 256

/-- The private scalar the protected key area holds (R665). -/
opaque Config.deviceScalar : List DWord → BitVec 256

/-- The parity bytes of a codeword: their number, and the data bytes as stored. The spec gives the code's rate and what it
corrects, and not its matrix (R503, R506). -/
opaque Config.ldpcParity : Nat → List Byte → List Byte

/-- A free value: what the spec leaves undefined at the n-th place it does so. -/
opaque Config.freeWord : Nat → DWord

/-- A free byte string of undefined buffer content (Table 9-11). -/
opaque Config.freeByte : Nat → Byte

/-- The 4,096 bytes of a map leaf in a generation: the spec gives a leaf's size and what it covers, and not its format (R311). -/
opaque Config.leafContent : Nat → Nat → List Byte

/-- Free capacity of the member at an ordinal of a span when the Keystone places a stream (R631): the spec does not say how the Keystone
learns it. -/
opaque Config.memberFree : Nat → Nat → Nat

end Sys2Proof
end

