-- ==== Sys2Proof/Machine/Bits.lean ====
section
/-! DEFINITION. Plain helpers the meanings share: keyed tables, byte memory in one canonical form, byte order,
and the two CRCs the spec defines (R210, RFC 3720). -/

namespace Sys2Proof.Machine

/-- A keyed table: pairs of a key and a value, keys rising. -/
abbrev Tbl (α : Type) := List (Nat × α)

/-- The value stored under key `k`. -/
def tget {α : Type} : Tbl α → Nat → Option α
  | [], _ => none
  | (a, x) :: r, k => if a = k then some x else tget r k

/-- Store `v` under key `k`, keeping the keys rising. -/
def tput {α : Type} : Tbl α → Nat → α → Tbl α
  | [], k, v => [(k, v)]
  | (a, x) :: r, k, v =>
    if k < a then (k, v) :: (a, x) :: r
    else if k = a then (k, v) :: r
    else (a, x) :: tput r k v

/-- Remove key `k`. -/
def tdel {α : Type} (t : Tbl α) (k : Nat) : Tbl α := t.filter (fun p => p.1 ≠ k)

/-- Change the value under key `k`, if there is one. -/
def tmod {α : Type} (t : Tbl α) (k : Nat) (f : α → α) : Tbl α :=
  t.map (fun p => if p.1 = k then (p.1, f p.2) else p)

/-- Change every value. -/
def tmap {α : Type} (t : Tbl α) (f : Nat → α → α) : Tbl α := t.map (fun p => (p.1, f p.1 p.2))

/-- Keys strictly rising. -/
def tsorted {α : Type} : Tbl α → Bool
  | [] => true
  | [_] => true
  | (a, _) :: (b, y) :: r => decide (a < b) && tsorted ((b, y) :: r)

/-! Byte memory. An address not listed reads 0x00 (DESIGN CHOICE, log 1). -/

/-- A byte memory: addresses strictly rising, no listed byte 0x00. -/
abbrev Mem := List Host.Cell

/-- What an address nothing has written reads as (DESIGN CHOICE, log 1). -/
def memDefault : Byte := 0

/-- One byte of memory. -/
def memRead (m : Mem) (a : Nat) : Byte := (tget m a).getD memDefault

/-- Write one byte, keeping the canonical form. -/
def memWrite (m : Mem) (a : Nat) (b : Byte) : Mem :=
  if b = memDefault then tdel m a else tput m a b

/-- The canonical form: addresses strictly rising, no listed byte equal to the default. -/
def memWf (m : Mem) : Bool := tsorted m && m.all (fun c => c.2 != memDefault)

/-- `n` bytes from address `a` on. -/
def memReadN (m : Mem) (a : Nat) : Nat → List Byte
  | 0 => []
  | n + 1 => memRead m a :: memReadN m (a + 1) n

/-- Write bytes from address `a` on. -/
def memWriteL (m : Mem) (a : Nat) : List Byte → Mem
  | [] => m
  | b :: bs => memWriteL (memWrite m a b) (a + 1) bs

/-! Byte order. Multi-byte fields are little-endian (R5). -/

/-- The `n` bytes of `v`, least significant first (R5). -/
def leBytes : Nat → Nat → List Byte
  | 0, _ => []
  | n + 1, v => BitVec.ofNat 8 v :: leBytes n (v / 256)

/-- The number the bytes spell, least significant first (R5). -/
def leVal : List Byte → Nat
  | [] => 0
  | b :: bs => b.toNat + 256 * leVal bs

/-- `n` bytes of `v`, most significant first (the fields R5 excepts). -/
def beBytes (n v : Nat) : List Byte := (leBytes n v).reverse

/-- The number the bytes spell, most significant first. -/
def beVal (bs : List Byte) : Nat := leVal bs.reverse

/-- Bytes `off … off+n-1` of a layout; bytes beyond its end read 0. -/
def bytesAt (bs : List Byte) (off n : Nat) : List Byte :=
  let x := (bs.drop off).take n
  x ++ List.replicate (n - x.length) 0

/-- The little-endian field of `n` bytes at `off`. -/
def fieldAt (bs : List Byte) (off n : Nat) : Nat := leVal (bytesAt bs off n)

/-- Replace the bytes from `off` on. -/
def bytesPut (bs : List Byte) (off : Nat) (v : List Byte) : List Byte :=
  bs.take off ++ v ++ bs.drop (off + v.length)

/-- Bits `[hi:lo]` of a number. -/
def bitsOf (v hi lo : Nat) : Nat := v / 2 ^ lo % 2 ^ (hi + 1 - lo)

/-- Bit `i` of a number. -/
def bitOf (v i : Nat) : Bool := v / 2 ^ i % 2 == 1

/-- 1 for true. -/
def b2n (b : Bool) : Nat := if b then 1 else 0

/-- A two's complement byte. -/
def signed8 (v : Nat) : Int := if v % 256 < 128 then (v % 256 : Nat) else ((v % 256 : Nat) : Int) - 256

/-- A two's complement 16-bit field. -/
def signed16 (v : Nat) : Int := if v % 65536 < 32768 then (v % 65536 : Nat) else ((v % 65536 : Nat) : Int) - 65536

/-- Set or clear bit `i` of a bit vector. -/
def putBit {w : Nat} (v : BitVec w) (i : Nat) (b : Bool) : BitVec w :=
  if b then v ||| BitVec.ofNat w (2 ^ i) else v &&& ~~~(BitVec.ofNat w (2 ^ i))

/-- The positions `0 … n-1` whose bit is set. -/
def bitList (n v : Nat) : List Nat := (List.range n).filter (fun i => bitOf v i)

/-- `min v m`: a counter that saturates at `m`. -/
def satTo (m v : Nat) : Nat := if v ≤ m then v else m

/-! CRC-16/CCITT (R210) and CRC-32C (RFC 3720, R667). -/

/-- One bit step of CRC-16/CCITT. -/
def crc16Bit (c : BitVec 16) : BitVec 16 :=
  if c.msb then (c <<< 1) ^^^ 0x1021#16 else c <<< 1

/-- One byte of CRC-16/CCITT (R210). -/
def crc16Byte (c : BitVec 16) (b : Byte) : BitVec 16 :=
  Nat.repeat crc16Bit 8 (c ^^^ (b.zeroExtend 16 <<< 8))

/-- ENTRY_CRC, COMP_CRC, HCRC and RCRC (R210): polynomial 0x1021, initial value 0xFFFF, no reflection. -/
def crc16 (bs : List Byte) : BitVec 16 := bs.foldl crc16Byte 0xFFFF#16

/-- One bit step of the reflected CRC-32C. -/
def crc32cBit (c : BitVec 32) : BitVec 32 :=
  if c.getLsbD 0 then (c >>> 1) ^^^ 0x82F63B78#32 else c >>> 1

/-- One byte of CRC-32C. -/
def crc32cByte (c : BitVec 32) (b : Byte) : BitVec 32 :=
  Nat.repeat crc32cBit 8 (c ^^^ b.zeroExtend 32)

/-- CRC-32C as RFC 3720 gives it (R667, R668). -/
def crc32c (bs : List Byte) : BitVec 32 := ~~~(bs.foldl crc32cByte 0xFFFFFFFF#32)

end Sys2Proof.Machine
end

