-- ==== Sys2Proof/Machine/Crypto.lean ====
section
/-! DEFINITION. The algorithms the spec names by their standards: SHA-256 (R355), HMAC-SHA-256 (R328), AES-256 with
XTS (R316) and key wrap (R317), ECDSA over P-256 with the nonces of RFC 6979 (R359), and the randomizer of the flash
channels (R504, R505). Tables and constants are those of the standards (log 35). -/

namespace Sys2Proof.Machine

/-! ## SHA-256 (FIPS 180-4) -/

/-- The eight working variables of SHA-256. -/
structure Sha where
  a : Word
  b : Word
  c : Word
  d : Word
  e : Word
  f : Word
  g : Word
  h : Word
  deriving DecidableEq, Repr

/-- The initial hash value. -/
def shaInit : Sha :=
  ⟨0x6a09e667, 0xbb67ae85, 0x3c6ef372, 0xa54ff53a, 0x510e527f, 0x9b05688c, 0x1f83d9ab, 0x5be0cd19⟩

/-- The 64 round constants. -/
def shaK : List Word :=
  [0x428a2f98, 0x71374491, 0xb5c0fbcf, 0xe9b5dba5, 0x3956c25b, 0x59f111f1, 0x923f82a4, 0xab1c5ed5] ++
  [0xd807aa98, 0x12835b01, 0x243185be, 0x550c7dc3, 0x72be5d74, 0x80deb1fe, 0x9bdc06a7, 0xc19bf174] ++
  [0xe49b69c1, 0xefbe4786, 0x0fc19dc6, 0x240ca1cc, 0x2de92c6f, 0x4a7484aa, 0x5cb0a9dc, 0x76f988da] ++
  [0x983e5152, 0xa831c66d, 0xb00327c8, 0xbf597fc7, 0xc6e00bf3, 0xd5a79147, 0x06ca6351, 0x14292967] ++
  [0x27b70a85, 0x2e1b2138, 0x4d2c6dfc, 0x53380d13, 0x650a7354, 0x766a0abb, 0x81c2c92e, 0x92722c85] ++
  [0xa2bfe8a1, 0xa81a664b, 0xc24b8b70, 0xc76c51a3, 0xd192e819, 0xd6990624, 0xf40e3585, 0x106aa070] ++
  [0x19a4c116, 0x1e376c08, 0x2748774c, 0x34b0bcb5, 0x391c0cb3, 0x4ed8aa4a, 0x5b9cca4f, 0x682e6ff3] ++
  [0x748f82ee, 0x78a5636f, 0x84c87814, 0x8cc70208, 0x90befffa, 0xa4506ceb, 0xbef9a3f7, 0xc67178f2]

/-- The next word of the message schedule, from the sixteen before it, oldest first. -/
def shaNext (w : List Word) : Word :=
  let x (i : Nat) : Word := (w[i]?).getD 0
  let s0 := (x 1).rotateRight 7 ^^^ (x 1).rotateRight 18 ^^^ (x 1) >>> 3
  let s1 := (x 14).rotateRight 17 ^^^ (x 14).rotateRight 19 ^^^ (x 14) >>> 10
  x 0 + s0 + x 9 + s1

/-- One round with its constant and schedule word. -/
def shaRound (v : Sha) (k w : Word) : Sha :=
  let s1 := v.e.rotateRight 6 ^^^ v.e.rotateRight 11 ^^^ v.e.rotateRight 25
  let t1 := v.h + s1 + ((v.e &&& v.f) ^^^ (~~~v.e &&& v.g)) + k + w
  let s0 := v.a.rotateRight 2 ^^^ v.a.rotateRight 13 ^^^ v.a.rotateRight 22
  let t2 := s0 + ((v.a &&& v.b) ^^^ (v.a &&& v.c) ^^^ (v.b &&& v.c))
  ⟨t1 + t2, v.a, v.b, v.c, v.d + t1, v.e, v.f, v.g⟩

/-- The rounds over the constants left, with the schedule's next sixteen words. -/
def shaRounds (v : Sha) (w : List Word) : List Word → Sha
  | [] => v
  | k :: ks => shaRounds (shaRound v k (w.headD 0)) (w.drop 1 ++ [shaNext w]) ks

/-- One block of 64 bytes. -/
def shaBlock (v : Sha) (b : List Byte) : Sha :=
  let w := (List.range 16).map (fun i => BitVec.ofNat 32 (beVal (bytesAt b (4 * i) 4)))
  let r := shaRounds v w shaK
  ⟨v.a + r.a, v.b + r.b, v.c + r.c, v.d + r.d, v.e + r.e, v.f + r.f, v.g + r.g, v.h + r.h⟩

/-- The message's padding: 0x80, zeros, and its length in bits in eight bytes. -/
def shaPad (n : Nat) : List Byte := 0x80 :: (List.replicate ((119 - n % 64) % 64) 0 ++ beBytes 8 (8 * n))

/-- SHA-256 of a byte string (R355, R358). -/
@[irreducible] def sha256 (m : List Byte) : BitVec 256 :=
  let p := m ++ shaPad m.length
  let v := (List.range (p.length / 64)).foldl (fun v i => shaBlock v (bytesAt p (64 * i) 64)) shaInit
  v.a ++ v.b ++ v.c ++ v.d ++ v.e ++ v.f ++ v.g ++ v.h

/-- A 256-bit value as 32 bytes, first byte first in the standards' order. -/
def be32 (v : BitVec 256) : List Byte := beBytes 32 v.toNat

/-- HMAC-SHA-256 (FIPS 198-1) under a 32-byte key (R328). -/
@[irreducible] def hmacSha256 (key : BitVec 256) (m : List Byte) : BitVec 256 :=
  let pad (x : Byte) : List Byte := (bytesAt (be32 key) 0 64).map (· ^^^ x)
  sha256 (pad 0x5C ++ be32 (sha256 (pad 0x36 ++ m)))

/-! ## AES-256 (FIPS 197) -/

/-- Twice an element of the field of 256 elements. -/
def aesTwice (b : Byte) : Byte := if b.msb then (b <<< 1) ^^^ 0x1B else b <<< 1

/-- Product in that field: the multiples of `a` that the bits of `b` select. -/
def aesMul (a b : Byte) : Byte :=
  ((List.range 8).foldl (fun p i => (if b.getLsbD i then p.1 ^^^ p.2 else p.1, aesTwice p.2)) ((0 : Byte), a)).1

/-- The multiplicative inverse, 0 of 0: the 254th power, as the square of the 127th. -/
def aesInv (b : Byte) : Byte :=
  let x := (List.range 6).foldl (fun p _ => aesMul (aesMul p p) b) b
  aesMul x x

/-- SubBytes of one byte. -/
def aesSub (b : Byte) : Byte :=
  let x := aesInv b
  x ^^^ x.rotateLeft 1 ^^^ x.rotateLeft 2 ^^^ x.rotateLeft 3 ^^^ x.rotateLeft 4 ^^^ 0x63

/-- InvSubBytes of one byte. -/
def aesUnsub (b : Byte) : Byte := aesInv (b.rotateLeft 1 ^^^ b.rotateLeft 3 ^^^ b.rotateLeft 6 ^^^ 0x05)

/-- Byte-wise exclusive or. -/
def xorBytes (x y : List Byte) : List Byte := List.zipWith (· ^^^ ·) x y

/-- The next key word from the eight before it, oldest first, at index `i` of the schedule. -/
def aesKeyNext (w : List (List Byte)) (i : Nat) : List Byte :=
  let t := (w[7]?).getD []
  let rcon : Byte := (List.range (i / 8 - 1)).foldl (fun r _ => aesTwice r) 1
  let t' := if i % 8 = 0 then xorBytes ((t.drop 1 ++ t.take 1).map aesSub) [rcon, 0, 0, 0]
            else if i % 8 = 4 then t.map aesSub else t
  xorBytes ((w[0]?).getD []) t'

/-- The fifteen round keys of a 32-byte key. -/
def aesKeys (key : List Byte) : List (List Byte) :=
  let w0 := (List.range 8).map (fun i => bytesAt key (4 * i) 4)
  let all := ((List.range 52).foldl (fun (p : List (List Byte) × List (List Byte)) i =>
    let n := aesKeyNext p.2 (i + 8)
    (p.1 ++ [n], p.2.drop 1 ++ [n])) (w0, w0)).1
  (List.range 15).map (fun r => ((all.drop (4 * r)).take 4).flatten)

/-- ShiftRows on the sixteen bytes of a block, column by column; InvShiftRows with `back`. -/
def aesShift (back : Bool) (b : List Byte) : List Byte :=
  (List.range 16).map (fun i => (b[(i + (if back then 12 * (i % 4) else 4 * (i % 4))) % 16]?).getD 0)

/-- MixColumns by the first row of its matrix. -/
def aesMix (m : List Byte) (b : List Byte) : List Byte :=
  (List.range 16).map (fun i => (List.range 4).foldl (fun x k =>
    x ^^^ aesMul ((m[(k + 4 - i % 4) % 4]?).getD 0) ((b[4 * (i / 4) + k]?).getD 0)) 0)

/-- The cipher of one block. -/
def aesEncrypt (key b : List Byte) : List Byte :=
  let ks := aesKeys key
  let k (r : Nat) := (ks[r]?).getD []
  let mid := (List.range 13).foldl (fun x r =>
    xorBytes (aesMix [2, 3, 1, 1] (aesShift false (x.map aesSub))) (k (r + 1))) (xorBytes b (k 0))
  xorBytes (aesShift false (mid.map aesSub)) (k 14)

/-- The inverse cipher of one block. -/
def aesDecrypt (key b : List Byte) : List Byte :=
  let ks := aesKeys key
  let k (r : Nat) := (ks[r]?).getD []
  let mid := (List.range 13).foldl (fun x r =>
    aesMix [14, 11, 13, 9] (xorBytes ((aesShift true x).map aesUnsub) (k (13 - r)))) (xorBytes b (k 14))
  xorBytes ((aesShift true mid).map aesUnsub) (k 0)

/-! ## XTS (IEEE 1619) and key wrap (RFC 3394) -/

/-- The tweak of the next block: twice the last, in the field of 2^128 elements, as a little-endian number. -/
def xtsTwice (t : BitVec 128) : BitVec 128 := if t.msb then (t <<< 1) ^^^ 0x87 else t <<< 1

/-- A data unit of whole blocks through AES-256-XTS: Key1, Key2 and the unit's tweak (R316); `back` decrypts. -/
@[irreducible] def xts (back : Bool) (key : List Byte) (unit : Nat) (d : List Byte) : List Byte :=
  let k1 := key.take 32
  let t0 : BitVec 128 := BitVec.ofNat 128 (leVal (aesEncrypt (key.drop 32) (leBytes 16 unit)))
  ((List.range (d.length / 16)).foldl (fun (p : List Byte × BitVec 128) i =>
    let t := leBytes 16 p.2.toNat
    let x := xorBytes (bytesAt d (16 * i) 16) t
    (p.1 ++ xorBytes (if back then aesDecrypt k1 x else aesEncrypt k1 x) t, xtsTwice p.2)) ([], t0)).1

/-- The integrity value of RFC 3394. -/
def wrapIv : List Byte := List.replicate 8 0xA6

/-- AES key wrap of whole 64-bit blocks (R317): six passes over the blocks. -/
@[irreducible] def keyWrap (kek plain : List Byte) : List Byte :=
  let n := plain.length / 8
  let r := (List.range (6 * n)).foldl (fun (p : List Byte × List Byte) k =>
    let i := k % n
    let b := aesEncrypt kek (p.1 ++ bytesAt p.2 (8 * i) 8)
    (xorBytes (b.take 8) (beBytes 8 (k + 1)), bytesPut p.2 (8 * i) (b.drop 8))) (wrapIv, plain)
  r.1 ++ r.2

/-- AES key unwrap; none where the integrity value does not come back (R321). -/
@[irreducible] def keyUnwrap (kek wrapped : List Byte) : Option (List Byte) :=
  let n := wrapped.length / 8 - 1
  let r := (List.range (6 * n)).foldl (fun (p : List Byte × List Byte) j =>
    let k := 6 * n - 1 - j
    let i := k % n
    let b := aesDecrypt kek (xorBytes p.1 (beBytes 8 (k + 1)) ++ bytesAt p.2 (8 * i) 8)
    (b.take 8, bytesPut p.2 (8 * i) (b.drop 8))) (wrapped.take 8, wrapped.drop 8)
  if r.1 = wrapIv then some r.2 else none

/-! ## ECDSA over P-256 (FIPS 186-4) -/

/-- The prime of the field. -/
def p256 : Nat := 0xffffffff00000001000000000000000000000000ffffffffffffffffffffffff

/-- The group order. -/
def n256 : Nat := 0xffffffff00000000ffffffffffffffffbce6faada7179e84f3b9cac2fc632551

/-- The coefficient b of the curve; a is −3. -/
def b256 : Nat := 0x5ac635d8aa3a93e7b3ebbd55769886bc651d06b0cc53b0f63bce3c3e27d2604b

/-- A point of the curve; none is the point at infinity. -/
abbrev Point := Option (Nat × Nat)

/-- The base point. -/
def g256 : Point :=
  some (0x6b17d1f2e12c4247f8bce6e563a440f277037d812deb33a0f4a13945d898c296,
        0x4fe342e2fe1a7f9b8ee7eb4a7c0f9e162bce33576b315ececbb6406837bf51f5)

/-- A power modulo `m`, by the 256 bits of the exponent from the highest. -/
def powMod (m x e : Nat) : Nat :=
  (List.range 256).foldl (fun r i => let q := r * r % m; if bitOf e (255 - i) then q * x % m else q) 1

/-- The inverse modulo a prime. -/
def invMod (m x : Nat) : Nat := powMod m (x % m) (m - 2)

/-- The point on a line of slope `l` through two points of abscissae `x1`, `x2`, the first at height `y1`. -/
def thirdPoint (l x1 x2 y1 : Nat) : Point :=
  let x := (l * l + (p256 - x1) + (p256 - x2)) % p256
  some (x, (l * (x1 + p256 - x) + (p256 - y1)) % p256)

/-- The sum of two points. -/
def addPoint : Point → Point → Point
  | none, q => q
  | p, none => p
  | some (x1, y1), some (x2, y2) =>
    if x1 ≠ x2 then thirdPoint ((y2 + p256 - y1) * invMod p256 (x2 + p256 - x1) % p256) x1 x2 y1
    else if (y1 + y2) % p256 = 0 then none
    else thirdPoint ((3 * x1 * x1 + p256 - 3) * invMod p256 (2 * y1) % p256) x1 x2 y1

/-- A multiple of a point, by the 256 bits of the factor from the highest. -/
def mulPoint (k : Nat) (p : Point) : Point :=
  (List.range 256).foldl (fun r i => let q := addPoint r r; if bitOf k (255 - i) then addPoint q p else q) none

/-- A point satisfies the equation of the curve. -/
def onCurve (x y : Nat) : Bool :=
  decide (x < p256) && decide (y < p256) && (y * y % p256 == (x * x * x + (p256 - 3) * x + b256) % p256)

/-- The public key of a scalar: 0x04, X and Y (R359). -/
def publicKey (d : Nat) : List Byte :=
  match mulPoint d g256 with
  | some (x, y) => 0x04 :: (beBytes 32 x ++ beBytes 32 y)
  | none => 0x04 :: List.replicate 64 0

/-- The key and the value of the generator of RFC 6979 after one update with `d`. -/
def drbgUpdate (k v : BitVec 256) (d : List Byte) : BitVec 256 × BitVec 256 :=
  let k' := hmacSha256 k (be32 v ++ d)
  (k', hmacSha256 k' (be32 v))

/-- r and s for a nonce, s made low (R359); none where the nonce is out of range or r or s is 0. -/
def signWith (d h k : Nat) : Option (Nat × Nat) :=
  match mulPoint k g256 with
  | none => none
  | some (x, _) =>
    let r := x % n256
    let s := invMod n256 k * (h + r * d) % n256
    if k = 0 || decide (n256 ≤ k) || r = 0 || s = 0 then none else some (r, if n256 / 2 < s then n256 - s else s)

/-- Candidates of the generator in turn, until one signs (RFC 6979, 3.2 h). -/
def signLoop (d h : Nat) : Nat → BitVec 256 → BitVec 256 → Nat × Nat
  | 0, _, _ => (0, 0)
  | n + 1, k, v =>
    let v1 := hmacSha256 k (be32 v)
    match signWith d h v1.toNat with
    | some r => r
    | none => let u := drbgUpdate k v1 [0x00]; signLoop d h n u.1 u.2

/-- The signature r ‖ s of a message digest under a private scalar, with the nonce of RFC 6979 and low s (R359). A candidate
fails with a chance below 2^-31; the model tries 64 (log 35). -/
@[irreducible] def ecdsaSign (d digest : BitVec 256) : BitVec 512 :=
  let h := digest.toNat % n256
  let seed := be32 d ++ beBytes 32 h
  let u := drbgUpdate 0 (BitVec.ofNat 256 (beVal (List.replicate 32 0x01))) (0x00 :: seed)
  let w := drbgUpdate u.1 u.2 (0x01 :: seed)
  let r := signLoop d.toNat h 64 w.1 w.2
  BitVec.ofNat 256 r.1 ++ BitVec.ofNat 256 r.2

/-- Whether a signature over a message digest verifies under a 65-byte public key (R359, R368): any valid s is accepted. -/
@[irreducible] def ecdsaVerify (pub : List Byte) (digest : BitVec 256) (sig : BitVec 512) : Bool :=
  let r := sig.toNat / 2 ^ 256
  let s := sig.toNat % 2 ^ 256
  let x := beVal (bytesAt pub 1 32)
  let y := beVal (bytesAt pub 33 32)
  let w := invMod n256 s
  let q := addPoint (mulPoint (digest.toNat * w % n256) g256) (mulPoint (r * w % n256) (some (x, y)))
  pub.length == 65 && pub.headD 0 == 0x04 && onCurve x y && decide (0 < r) && decide (r < n256) && decide (0 < s) && decide (s < n256) &&
  (match q with
   | some (qx, _) => qx % n256 == r
   | none => false)

/-! ## The randomizer of the flash channels -/

/-- One output bit of the LFSR, and its next state (R504). -/
def lfsrBit (s : BitVec 32) : Bool × BitVec 32 :=
  (s.getLsbD 0, if s.getLsbD 0 then (s >>> 1) ^^^ 0x80200003#32 else s >>> 1)

/-- One keystream byte, its first bit in bit 0, and the next state (R504). -/
def lfsrByte (s : BitVec 32) : Byte × BitVec 32 :=
  (List.range 8).foldl (fun (p : Byte × BitVec 32) i => (putBit p.1 i (lfsrBit p.2).1, (lfsrBit p.2).2)) (0, s)

/-- The bytes of a codeword XORed with the keystream from a state on, byte 0 first (R504). -/
def randomizeFrom (s : BitVec 32) : List Byte → List Byte
  | [] => []
  | b :: bs => (b ^^^ (lfsrByte s).1) :: randomizeFrom (lfsrByte s).2 bs

/-- The seed of a codeword: CRC-32C over RAND_SEED, block, page and codeword index, and 1 for 0 (R505). -/
def randSeed (seed block page cw : Nat) : BitVec 32 :=
  let c := crc32c (leBytes 4 seed ++ leBytes 4 block ++ leBytes 4 page ++ leBytes 4 cw)
  if c = 0 then 1 else c

/-- The data bytes of a codeword through the randomizer, in either direction (R502, R504). -/
@[irreducible] def randomize (seed block page cw : Nat) (d : List Byte) : List Byte :=
  randomizeFrom (randSeed seed block page cw) d

end Sys2Proof.Machine
end

