-- ==== Sys2Proof/Machine/StateCore.lean ====
section
/-! DEFINITION. The parts of the state the always-on logic, the reset and power logic, the global registers,
the PCIe function, the health log and the error log hold (chapters 3 to 6, 13, 20, 21). -/

namespace Sys2Proof.Machine

/-- The device states of Table 1-4, as GBL_STATUS.STATE encodes them (Table 6-6). -/
inductive DevState where
  | reset | aonReady | bootWindow | footing | operational | degraded | readOnly | halted | failed
  deriving DecidableEq, Repr

/-- Levels of the balls the spec gives a reset state or a function (chapter 3), and the conditions behind them. -/
structure Pins where
  /-- VAON is valid (R414, R731). -/
  vaon : Bool
  /-- VDD_CORE is valid (R99, R654). -/
  vddCore : Bool
  /-- The level of RESET_N as the device takes it: low while a deferred rise waits (R95). -/
  resetN : Bool
  /-- RESET_N has risen at the ball while EXTEST, CLAMP or HIGHZ was current (R95). -/
  deferredRise : Bool
  /-- PFAIL_N; low is asserted (R81). -/
  pfailN : Bool
  /-- PE_PERST_N; low is asserted. -/
  perstN : Bool
  /-- CAS_x_PRSNT_N held low, bit 0 U, bit 1 D0, bit 2 D1 (Table 3-13). -/
  present : BitVec 3
  /-- FLx_WP_N, bank A at bit 0 (R78). -/
  wpN : BitVec 4
  /-- PWR_SAFE (Table 3-14). -/
  pwrSafe : Bool
  /-- PE_WAKE_N is asserted, that is low (R115). -/
  wake : Bool
  /-- PE_CLKREQ_N is asserted, that is low: its reset state (Table 3-10). -/
  clkreq : Bool
  /-- EVT_OUT0 to EVT_OUT3 (R592). -/
  evtOut : BitVec 4
  /-- The JTAG instruction register (R82). -/
  jtag : BitVec 4
  /-- What the last instruction scan shifted out of the instruction register (R82). -/
  irOut : BitVec 4
  /-- The cells of the boundary register as last updated, in the order of R82: cell 0 is nearest TDO. -/
  cells : BitVec 1545
  /-- The cells as last captured (R82, R83). -/
  captured : BitVec 1545
  /-- Banks whose rail fell below the absent threshold after its classification, until the next reset (R96). -/
  railLost : BitVec 4
  deriving DecidableEq, Repr

/-- The classification of the optional rails at the strap latch (R77, Table 3-17). -/
structure RailClass where
  bankPresent : BitVec 4
  bank18 : BitVec 4
  vselMismatch : BitVec 4
  phbPresent : Bool
  phb33 : Bool
  peAvdd : Bool
  peAvddh : Bool
  dram2 : Bool
  dramQ : Bool
  cas : Bool
  deriving DecidableEq, Repr

/-- An MSP frame whose header is complete and whose MSP_CS_N is still low (R650). -/
structure MspFrame where
  /-- The burn that the turnaround of an accepted BURN carries: word and payload (R672). -/
  burn : Option (Nat × DWord)
  /-- FSTAT and the data bytes the response shifts out (R651). -/
  fstat : Nat
  data : List Byte
  deriving DecidableEq, Repr

/-- The always-on logic: straps, rails, OTP, Settings selection and the MSP mirror (chapters 3 and 20). -/
structure Aon where
  /-- Latched straps in the order of Table 3-16, SYSCLK_SEL at bit 0. -/
  straps : BitVec 8
  rails : RailClass
  /-- Straps and rails have been latched since VAON became valid (R75, R77). -/
  latched : Bool
  /-- TEST_EN was high at a strap latch (R84). -/
  testEnSeen : Bool
  /-- The OTP array, 256 words (R664); persistent. -/
  otp : Vector DWord 256
  /-- The shadow that every read is served from (R664). -/
  shadow : Vector DWord 256
  /-- Slot of the Settings Record in force (R667). -/
  setInForce : Option (Fin 4)
  /-- The 64 bytes of the record in force, as selected. -/
  setRec : List Byte
  reqCh : BitVec 16
  reqFlags : BitVec 8
  effCh : BitVec 16
  effFlags : BitVec 8
  reqGen : BitVec 32
  ackGen : BitVec 32
  effGen : BitVec 32
  refused : BitVec 32
  /-- The PROT_POLICY the core has published since RESET_N rose; none before t5 (R657). -/
  policy : Option (BitVec 11)
  disagree : Bool
  disTick : DWord
  /-- The tick at which the disagreement now held began (R663). -/
  disSince : Option DWord
  /-- The MSP frame in progress, or the last one answered (R650). -/
  frame : Option MspFrame
  /-- A thermometer raise is due: bit 0 microcode, bit 1 firmware (R669, R682). -/
  thermDue : BitVec 2
  /-- A read-only request written together with HALT_REQ, which applies after the reset that leaves HALTED (R187, log 11). -/
  roCarry : Bool
  deriving DecidableEq, Repr

/-- GBL_HALT_CAUSE (Table 6-7). -/
structure HaltCause where
  cause : BitVec 8
  detail : BitVec 12
  deriving DecidableEq, Repr

/-- The global registers and the conditions behind GBL_STATUS (Tables 6-3 to 6-11, 13-3). -/
structure Gbl where
  state : DevState
  /-- CORE is out of reset (t2, R101). -/
  coreOn : Bool
  /-- t5 has passed: the register file answers (R417). -/
  up : Bool
  /-- The straps have been compared since RESET_N rose (R75). -/
  strapsCompared : Bool
  failed : Bool
  /-- GBL_STATUS.HALT_COND. -/
  halted : Bool
  roReq : Bool
  roEol : Bool
  recovered : Bool
  footingOpen : Bool
  overdrive : Bool
  halt : HaltCause
  irqEn : Bool
  irqStatus : BitVec 13
  irqMask : BitVec 13
  /-- GBL_TICK (R141): 1 MHz, 0 at the RESET_N rise. -/
  tick : DWord
  /-- The register a GBL_TICK_LO read captures into (R170). -/
  capture : DWord
  /-- SYSCLK is lost: the tick no longer advances (R100). -/
  clockLost : Bool
  tj : BitVec 12
  tjPeak : BitVec 8
  thermStep : Fin 6
  /-- The last four 1 ms readings of the hottest sensor, newest first (R112). -/
  tjSamples : List Int
  lock : Bool
  auto : Bool
  /-- Firmware version reported in GBL_VERSION.FW. -/
  fwVersion : BitVec 16
  /-- Attached LPDDR4X in GiB, 0 where none is populated and trained. -/
  dramGib : Fin 9
  /-- Full service has begun (R434). -/
  fullService : Bool
  /-- SEAL_STATUS.KEY_OK and FAULT (Table 6-25). -/
  keyOk : Bool
  sealFault : Bool
  scratch : Word
  deriving DecidableEq, Repr

/-- The protection registers (Tables 6-12 to 6-14) and PHB_WIN (Table 6-27). -/
structure Prot where
  qpartSel : BitVec 12
  /-- PROT_QPART_MASK of each queue number whose mask is not 0xFFFF_FFFF. -/
  qpart : Tbl Word
  policy : BitVec 11
  retainMin : BitVec 16
  lastOffset : BitVec 12
  count : BitVec 16
  phbWin : BitVec 13
  deriving DecidableEq, Repr

/-- The selectors and the admin-queue registers (Tables 6-15 to 6-17). -/
structure AdmRegs where
  baseLo : Word
  baseHi : Word
  shadowLo : Word
  shadowHi : Word
  cfgErr : Bool
  en : Bool
  prefetch : BitVec 8
  crcReq : Bool
  cacheMode : Bool
  depthLog2 : BitVec 4
  qsel : BitVec 12
  deriving DecidableEq, Repr

/-- PWR_CTRL (Table 6-20). -/
structure PwrCtrl where
  pgIdle : BitVec 8
  cgIdle : BitVec 8
  statPage : Bool
  casPg : Bool
  dramCg : Bool
  sealPg : Bool
  sealCg : Bool
  chPg : Bool
  chCg : Bool
  deriving DecidableEq, Repr

/-- The state of one power domain as PWR_STATUS encodes it (Table 6-21). -/
inductive DomMode where
  | on | clockGated | powerGated | offUntilReset
  deriving DecidableEq, Repr

/-- One power domain and its fence (R107, R108, R110). -/
structure Domain where
  mode : DomMode
  fenceClosed : Bool
  /-- Packets parked at the closed fence, oldest first, at most 32. -/
  parked : List Nat
  /-- Packets whose senders wait for a credit, oldest first. -/
  stalled : List Nat
  /-- Packets delivered after a wake, oldest first. -/
  delivered : List Nat
  /-- Packets returned to their senders with an error. -/
  returned : List Nat
  /-- PWR_CTRL permits clock gating, and power gating, in the idle period that runs (R194). -/
  mayClock : Bool
  mayPower : Bool
  deriving DecidableEq, Repr

/-- One MSI-X table entry (R166). -/
structure MsixEntry where
  addr : DWord
  data : Word
  masked : Bool
  deriving DecidableEq, Repr

/-- One interrupt message the device has sent: its vector, and the address and data it carried. -/
structure IrqMsg where
  vector : Nat
  addr : Nat
  data : Nat
  deriving DecidableEq, Repr

/-- The PCIe link power states of R115. -/
inductive LinkState where
  | down | l0 | l1 | l11 | l12 | l2
  deriving DecidableEq, Repr

/-- The PCIe function, its link and the Orphan condition (R115 to R119, R166, R248, R249). -/
structure Pcie where
  link : LinkState
  training : Bool
  d3hot : Bool
  /-- Memory Space Enable (R417). -/
  mse : Bool
  /-- Configuration requests answer with retry status (R106, R417). -/
  crs : Bool
  /-- Writable configuration dwords that have no field of their own, by dword number, where they differ from 0 (R166). -/
  config : Tbl Word
  msixEn : Bool
  msixFuncMask : Bool
  /-- MSI-X table entries that differ from the reset entry (address 0, data 0, masked). -/
  msix : Tbl MsixEntry
  /-- Vectors pending in the Pending Bit Array, rising. -/
  pba : List Nat
  msiEn : Bool
  /-- Messages granted, 1 to 32 (R249). -/
  msiCount : Nat
  msiAddr : DWord
  msiData : BitVec 16
  msiMask : BitVec 32
  msiPending : BitVec 32
  orphan : Bool
  orphanTick : DWord
  abandoned : Nat
  /-- Queue and TAG of the newest entry each queue had consumed at Orphan entry (R118). -/
  orphanTags : List (Nat × DWord)
  /-- I/O fetch is held until the commands accepted before the reset have finished (R106, R118). -/
  holdIo : Bool
  /-- Visible writes before this place were visible at Orphan entry or at the reset (R116, R118). -/
  holdMark : Nat
  /-- Negotiated lane count and data-rate generation (R475). -/
  lanes : Fin 5
  gen : Fin 5
  /-- The interrupt messages sent, oldest first. -/
  sent : List IrqMsg
  deriving DecidableEq, Repr

/-- One error-log entry (Table 21-2). -/
structure LogEntry where
  seq : Nat
  tick : DWord
  boot : DWord
  type : Nat
  cls : Nat
  param : List Byte
  deriving DecidableEq, Repr

/-- The health counters of Table 21-5a. -/
structure Health where
  hostBytes : Nat
  mediaBytes : Nat
  retryOk : Nat
  soft2Ok : Nat
  soft3Ok : Nat
  rebuilt : Nat
  uncorrectable : Nat
  programFails : Nat
  eraseFails : Nat
  timeouts : Nat
  mcParity : Nat
  mcScrub : Nat
  crcMismatch : Nat
  busErrors : Nat
  lostAckEvents : Nat
  holdupShorts : Nat
  powerFails : Nat
  orphans : Nat
  tjMax : Int
  /-- Minutes in each Tj bin. -/
  tempMin : List Nat
  /-- Sum and number of the TJ samples of the minute running. -/
  minuteSum : Int
  minuteCount : Nat
  overdriveMs : Nat
  coreOnS : Nat
  deriving DecidableEq, Repr

/-- The error log and the health log (chapter 21). -/
structure Log where
  /-- Committed entries, oldest first, at most 4,096 (R687). -/
  entries : List LogEntry
  nextSeq : Nat
  dropped : Nat
  /-- Events detected from t2 to t6, held until t6 (R686). -/
  held : List LogEntry
  health : Health
  /-- The health counters as last committed (R690, R705). -/
  saved : Health
  /-- The HEALTH page as last committed (R690). -/
  page : List Byte
  /-- Generation numbers of the log pages, by page number, and by page × 32 + partition from 96 on (R290). -/
  gens : Tbl Nat
  /-- Content of each page at the last GET_LOG of it, removed when the page's generation advances: a page that differs has changed
  since (R290). -/
  seen : Tbl (List Byte)
  /-- The ADC reference test failed: H is held at 0 until RESET_N (Table 21-5). -/
  adcRefBad : Bool
  deriving DecidableEq, Repr

/-- The domains of Table 4-5 by index: 0 AON, 1 CORE, 2 HOST, 3 DRAM, 4 SEAL, 5 CAS, 6 + n CHn. -/
abbrev Domains := Vector Domain 22

end Sys2Proof.Machine
end

