-- ==== Sys2Proof/Machine/StateIo.lean ====
section
/-! DEFINITION. The parts of the state behind queues, jobs, partitions, the write stage, streams and the energy
monitor (chapters 7 to 12). -/

namespace Sys2Proof.Machine

/-- The parameters of a queue (Table 8-2); for the admin queue, those ADMQ_CFG holds (Table 6-16). -/
structure QParams where
  base : Nat
  shadow : Nat
  depthLog2 : Nat
  cacheMode : Bool
  prefetch : Nat
  crcReq : Bool
  faultHalt : Bool
  weight : Nat
  burst : Nat
  irqEn : Bool
  vector : Nat
  coalCount : Nat
  coalTime : Nat
  /-- LENGTH and ATTR words as given at CREATE_QUEUE (QUERY_QUEUE returns them). -/
  lengthWord : Word
  attrWord : Word
  deriving DecidableEq, Repr

/-- Where a queue's scan stands (R203, R240, R245). -/
inductive ScanState where
  /-- No scan runs: a new one needs the pending bit. -/
  | ended
  /-- Ended by its arbitration turn, or resumed after a pause: it goes on at the queue's next visit. -/
  | turn
  /-- Paused at a slot that holds an entry in flight. -/
  | paused
  /-- Paused at the slot after a FENCE with this count. -/
  | fenced (count : BitVec 32)
  deriving DecidableEq, Repr

/-- A copy in the entry cache (R209): slot, bytes 0 to 55, and the order in which it was fetched. -/
structure CacheCopy where
  slot : Nat
  bytes : List Byte
  age : Nat
  deriving DecidableEq, Repr

/-- A slot as the running scan fetched it and has not examined it yet (R203, R208, R209): its 64 bytes, and whether bytes 0 to 55
come from a copy that an earlier scan cached. -/
structure ScanCopy where
  slot : Nat
  bytes : List Byte
  older : Bool
  deriving DecidableEq, Repr

/-- One queue (chapters 7 and 8). -/
structure Queue where
  p : QParams
  enabled : Bool
  pend : Bool
  head : BitVec 32
  done : BitVec 32
  /-- Counts from DONE on whose completion records have been written. -/
  ahead : List (BitVec 32)
  scan : ScanState
  cache : List CacheCopy
  /-- Copies from this fetch order on are those the running scan fetched itself; slots among them that a QINV named (R190). -/
  scanAge : Nat
  stale : List Nat
  /-- What the running scan has fetched and not examined, and the address of the read that failed behind it (R202, R203, R207). -/
  copies : List ScanCopy
  fetchFail : Option Nat
  busFault : Bool
  credit : Nat
  /-- The queue has been given credit in the round in progress. -/
  inRound : Bool
  /-- Completion records written but not yet signalled, and when the oldest was written (R247). -/
  unsignalled : Nat
  oldest : DWord
  /-- PHB: a signal is not yet acknowledged (R250). -/
  phbSignal : Bool
  /-- HEAD or DONE changed since the shadow was last written (R199). -/
  shadowDue : Bool
  /-- TAG of the newest entry consumed (R118). -/
  newestTag : Option DWord
  deriving DecidableEq, Repr

/-- A piece of a command's data pointer: a contiguous run of memory, or bytes to drop (R214). -/
structure Seg where
  dram : Bool
  discard : Bool
  addr : Nat
  len : Nat
  deriving DecidableEq, Repr

/-- What a completion record reports (Table 7-4). -/
structure Compl where
  status : Nat
  onMedia : Bool := false
  result : Nat := 0
  ashlar : Nat := 0
  cr0 : Nat := 0
  cr1 : Nat := 0
  /-- A further error-log entry was written for the command (R294). -/
  logged : Bool := false
  deriving DecidableEq, Repr

/-- Where a consumed entry stands. -/
inductive Phase where
  /-- Its ENTRY_CRC mismatched; the slot is read once more (R211). -/
  | crcWait
  /-- Read again after a CRC mismatch, it waits for further stage room (R211). -/
  | roomWait
  /-- Judged; its own command executes it. -/
  | ready
  /-- All of its data is in the stage; it waits for its place in the visibility order. -/
  | fetched
  /-- Visible at this place; its completion is withheld until R34 lets it go. -/
  | visible (order : Nat)
  /-- It waits until the record with this sequence number of its stream is committed. -/
  | record (seq : Nat)
  /-- It names another member and waits for an earlier conflicting entry of its queue before it is forwarded (R243, R297). -/
  | sending
  /-- Forwarded to a member; its completion comes back as COMPL (R622). -/
  | forwarded
  /-- Requested calibration kinds are still running (R568). -/
  | calibrating
  /-- A SELF_TEST, enumeration or transfer in progress. -/
  | running
  /-- A span command whose sub-commands the members execute (R631). -/
  | span
  deriving DecidableEq, Repr

/-- An entry consumed and not completed. Queue 4,096 stands for the cascade queue (R623). -/
structure Job where
  q : Nat
  count : BitVec 32
  bytes : List Byte
  /-- Its place in the device-wide order of consumption (R243, R245). -/
  order : Nat
  phase : Phase
  /-- Stage bytes reserved for it (R332). -/
  need : Nat
  segs : List Seg
  data : List Byte
  /-- The boot window was open at its consumption (R423). -/
  window : Bool
  /-- ACK_POLICY of its partition was 1 at its consumption (Table 9-10). -/
  policy : Bool
  /-- RESULT and ASHLAR_SEQ its completion will carry, once known. -/
  result : Nat
  ashlar : Nat
  /-- Number of visible writes at its consumption: the scope of a FLUSH (Table 9-3). -/
  mark : Nat
  /-- Origin member, transaction, origin queue and count of a forwarded entry (R623). -/
  origin : Option (Nat × Nat × Nat × Nat)
  /-- Fetching its SGL met a bus error (R596, R749). -/
  sglErr : Bool
  /-- Accepted before a host-facing reset or Orphan: it finishes without a completion record (R106, R232). -/
  detached : Bool
  deriving DecidableEq, Repr

/-- The Queue Engine: queues by number, queue 0 the admin queue, jobs in consumption order (chapter 8). -/
structure Queues where
  qs : Tbl Queue
  jobs : List Job
  /-- Order number the next consumed entry takes. -/
  nextOrder : Nat
  lastVisited : Nat
  /-- Fetch order of entry-cache copies. -/
  nextAge : Nat
  deriving DecidableEq, Repr

/-- Features of a partition (Table 9-10). -/
structure PartFeat where
  spanBytes : Nat
  spanMs : Nat
  capEvery : Nat
  ackPolicy : Nat
  deriving DecidableEq, Repr

/-- A partition (R310). -/
structure Part where
  isStream : Bool
  lbs4k : Bool
  xts : Bool
  tornFill : Byte
  retainDays : Nat
  capUnits : Nat
  feat : PartFeat
  holds : List DWord
  /-- Units WRITE or WRITE_ZEROES has touched and no TRIM has covered since, rising (R314). -/
  used : List Nat
  /-- Newest committed version of each unit: its place in the visibility order and its bytes (R40). -/
  units : Tbl (Nat × Mem)
  /-- Fleet-wrapped and device-wrapped key (R317); none without XTS or once destroyed (R319). -/
  keyFleet : Option (List Byte)
  keyDev : Option (List Byte)
  /-- Highest stream number ever assigned, and the numbers below it whose streams were lost before their opening Ashlar was committed,
which are not assigned (R351). -/
  maxStream : Nat
  lostNums : List Nat := []
  /-- A write was acknowledged on receipt since the last Plinth (R41). -/
  receiptSincePlinth : Bool
  deriving DecidableEq, Repr

/-- One version in the stage. -/
inductive Piece where
  /-- A version of map unit `u`; `mapped` false leaves it unmapped (R335, R337). -/
  | unit (u : Nat) (mapped : Bool) (bytes : Mem)
  /-- Stream bytes from `off` to `off + len`. -/
  | bytes (stream off len : Nat)
  /-- A seal record a mark waits for. -/
  | record (stream seq : Nat)
  deriving DecidableEq, Repr

/-- A visible write, at its place in the visibility order (R333). -/
structure VWrite where
  order : Nat
  part : Nat
  q : Nat
  count : BitVec 32
  need : Nat
  /-- Acknowledged on media by FLAGS.ACK_MEDIA or ACK_POLICY: never withheld (R386). -/
  onMedia : Bool
  acked : Bool
  firstLba : Nat
  blocks : Nat
  /-- Its pieces, each with whether it is committed. -/
  pieces : List (Piece × Bool)
  deriving DecidableEq, Repr

/-- The write stage (R332 to R336). -/
structure Stage where
  /-- Visible and not wholly committed, in visibility order. -/
  writes : List VWrite
  nextOrder : Nat
  deriving DecidableEq, Repr

/-- The UTC estimate of R293: value, tick of its setting, stated uncertainty. -/
structure Utc where
  value : Nat
  tick : Nat
  uncert : Nat
  deriving DecidableEq, Repr

/-- The running Ashlar (R353). -/
structure Running where
  seq : Nat
  first : Nat
  len : Nat
  since : DWord
  est : Option Utc
  hostTime : DWord
  footing : Bool
  spanBytes : Nat
  spanMs : Nat
  deriving DecidableEq, Repr

/-- A record that is complete but for the digests a pending signature decides (R360). -/
inductive DueRec where
  | ashlar (flags seq first len mark boot tick utc hostTime : Nat)
  | capstone (flags seq hostTime : Nat)
  | fracture (flags seq firstLost lost boot tick utc lostBoot skipped ackedEnd : Nat)
  deriving DecidableEq, Repr

/-- A record written into the chain. -/
structure Rec where
  kind : Nat
  seq : Nat
  bytes : List Byte
  committed : Bool
  deriving DecidableEq, Repr

/-- The condition of a stream (Table 11-1). -/
inductive StreamCond where
  | opened | closed | transferred | released
  deriving DecidableEq, Repr

/-- Source of a transferred stream (R284, R366). -/
structure TransferSrc where
  serial : List Byte
  member : Nat
  part : Nat
  stream : Nat
  lastSeq : Nat
  deriving DecidableEq, Repr

/-- A stream (chapter 11), keyed by partition × 65,536 + number. -/
structure Strm where
  cond : StreamCond
  handle : Option Nat
  endOff : Nat
  commEnd : Nat
  ackEnd : Nat
  retain : Nat
  holds : List DWord
  /-- The bytes by offset; an offset not listed holds 0x00. -/
  data : Mem
  /-- Declared gaps: first lost offset and count (R45). -/
  gaps : List (Nat × Nat)
  recs : List Rec
  due : List DueRec
  running : Option Running
  /-- Ashlars since the previous Capstone (R357). -/
  cadence : Nat
  /-- CAPSTONE_EVERY in force until the next Capstone (R380). -/
  capEvery : Nat
  /-- The CAPSTONE_EVERY that each Capstone's successors are counted by, by its number; 0 for the stream's first records (R380). -/
  capHist : List (Nat × Nat) := []
  /-- Highest sequence number assigned (R356). -/
  maxSeq : Nat
  /-- C of R364. -/
  closeUtc : Nat
  /-- Created in this boot (Table 13-4). -/
  thisBoot : Bool
  /-- Data in the Footing not yet absorbed (R434). -/
  inFooting : Bool
  /-- Open when power was lost: recovery has still to replay it (R43). -/
  replay : Bool
  /-- Boot counter of the boot that lost its bytes, and its write-stage capacity, while `replay` holds (R44). -/
  lostBoot : Nat
  lostCap : Nat := 0
  /-- Records that a replay cut short by a power failure had committed (R47, R68, R375). -/
  earlier : List Rec := []
  /-- First offset and HOST_TIME of each append, newest first (Table 11-2). -/
  times : List (Nat × Nat)
  /-- Sequence of the adopter's first record (R358), and whether media first owned by another (R367). -/
  adoptFrom : Option Nat
  src : Option TransferSrc
  deriving DecidableEq, Repr

/-- Streams and the signer (chapter 11). -/
structure Streams where
  tbl : Tbl Strm
  /-- Streams whose first due Capstone waits for the signer, in the order they fell due (R360). -/
  sign : List Nat
  utc : Option Utc
  /-- Transfers out of a stream that are running (R30, R377): stream key, destination member, transaction, and the last record each carries. -/
  outgoing : List (Nat × Nat × Nat × Nat)
  /-- Tick of the last retention evaluation (R364). -/
  lastCheck : DWord
  deriving DecidableEq, Repr

/-- The last-gasp summary (R393), kept in the system area. -/
structure Summary where
  /-- Boot counter of the boot that lost power. -/
  boot : Nat
  start : Nat
  vhMv : Nat
  h : Nat
  u : Nat
  /-- Stream key, highest assigned offset, highest acknowledged offset, highest sequence number. -/
  streams : List (Nat × Nat × Nat × Nat)
  /-- Partition, first LBA, blocks acknowledged and not committed. -/
  extents : List (Nat × Nat × Nat)
  /-- Bytes of U found not committed. -/
  short : Nat
  /-- An earlier loss, not yet reported, left no summary: of block partitions nothing is known (R42). -/
  blind : Bool := false
  deriving DecidableEq, Repr

/-- The energy monitor and the power-fail sequence (chapter 12). -/
structure Energy where
  /-- The last four ADC codes, newest first. -/
  samples : List Nat
  /-- PWR_HOLD.CAP in 0.1 mF (persistent, from the last accepted calibration). -/
  cap : Nat
  vsense : BitVec 12
  /-- H in bytes. -/
  h : Nat
  fill : BitVec 7
  horizon : BitVec 24
  onMedia : Bool
  catchUp : Bool
  /-- Consecutive samples below VHOLD_TRIP_MV (R390). -/
  trips : Nat
  /-- Bytes of filler open wordline pairing groups still need (R382). -/
  bFill : Nat
  /-- No write is acknowledged on receipt before a hold-up calibration is accepted (R397). -/
  needCal : Bool
  pfSeq : Bool
  parked : Bool
  /-- START of the POWER_FAIL entry (Table 21-3). -/
  pfStart : Nat
  /-- Programs the sequence has still to issue: summary copies, and re-programs used (R391, R395). -/
  summaryLeft : Nat
  /-- The summary copies committed. -/
  summaryDone : Nat
  /-- Channels that took a copy of the summary (R391). -/
  summaryChs : List Nat := []
  /-- Data whose program failed once in the sequence and is programmed once more, with the LUN that failed, and data that failed
  twice (R395, R752). -/
  pfTried : List (Ref × Nat)
  pfLost : List Ref
  /-- The summary the running sequence programs. -/
  gasp : Option Summary
  /-- The summary the system area holds of the boot that ended. -/
  summary : Option Summary
  /-- A power-fail sequence ran in the boot that ended (R397), and the CAP in force then. -/
  pfRan : Bool
  pfCap : Nat
  deriving DecidableEq, Repr

end Sys2Proof.Machine
end

