-- ==== Sys2Proof/Machine/StateMedia.lean ====
section
/-! DEFINITION. The parts of the state behind the system area, the media, the flash channels, the Masons, calibration,
the Host Map Store, the Block Mover and the cascade (chapters 10, 14 to 19). -/

namespace Sys2Proof.Machine

/-! ## Microcode (chapter 16) -/

/-- A microcode image by its parts (Table 16-5). -/
structure Ucode where
  version : Nat
  level : Nat
  minFw : Nat
  words : List (BitVec 128)
  /-- The 32 routine entries. -/
  entry : List Nat
  /-- SAFE_TABLE: word address and SPID. -/
  safe : List (Nat × Nat)
  deriving DecidableEq, Repr

/-- A firmware slot: version, ROLLBACK_LEVEL, and whether its signature verifies (R419, R670). -/
structure FwSlot where
  version : Nat
  level : Nat
  sigOk : Bool
  deriving DecidableEq, Repr

/-- One Mason and its channel's bank pointer (R524, R526, R528). -/
structure Mason where
  opnd : Vector Word 8
  tmr : Word
  loopA : Byte
  loopB : Byte
  stat : Byte
  /-- Address of the word it executes next. -/
  addr : BitVec 12
  posted : Option (Fin 32)
  routine : Option (Fin 32)
  abortReq : Bool
  pfailReq : Bool
  patchReq : Bool
  /-- Levels at the bus: the target whose CE_N is low, CLE, ALE, DQ. -/
  ce : Option (Fin 8)
  cle : Bool
  ale : Bool
  dq : Byte
  /-- Active bank. -/
  bank : Bool
  /-- Tick of step 1 of a pending switch (Table 16-7). -/
  pendSince : Option DWord
  /-- Tick of the last machine check (R533). -/
  lastCheck : Option DWord
  /-- The last event reported to the core, with STAT (R530). -/
  report : Option (Nat × Byte)
  deriving DecidableEq, Repr

/-- The control stores (R524, R543): both banks and the MC registers. -/
structure Micro where
  bank0 : Option Ucode
  bank1 : Option Ucode
  chSel : Fin 16
  oneCh : Bool
  /-- MC_CHECK. -/
  checkPending : BitVec 16
  checkChannel : Fin 16
  checkAddr : BitVec 12
  /-- Reference image being reloaded: bank, if any (R534). -/
  reloading : Option Bool
  /-- Channels with a switch pending when the power-fail sequence began, with the word address of each (R548). -/
  withdrawn : Tbl Nat
  masons : Vector Mason 16
  deriving DecidableEq, Repr

/-! ## Flash (chapters 14 and 15) -/

/-- The array operation in flight on a LUN (R499). -/
inductive LunOp where
  | idle
  | program (course member row : Nat) (slc : Bool) (refs : List Ref)
  | erase (block : Nat)
  deriving DecidableEq, Repr

/-- A read-retry that runs on a LUN (R508, R519): the read it serves, the page, the tracked offsets it began with, the step it has come
to, and the reads that wait for it. -/
structure Retry where
  job : Nat
  block : Nat
  page : Nat
  base : List Int
  step : Nat
  waiters : List Nat
  deriving DecidableEq, Repr

/-- A LUN, keyed by channel × 32 + target × 4 + LUN. -/
structure Lun where
  id : DWord
  /-- Declared failed (R458). -/
  failed : Bool
  op : LunOp
  /-- Tick of the operation's issue or last resume. -/
  since : DWord
  suspended : Bool
  suspends : Nat
  /-- Time run before the last suspension, µs. -/
  ran : Nat
  /-- Host reads waiting on the LUN (R477). -/
  waiting : Nat
  /-- Blocks of the consecutive fault statuses (R458). -/
  faults : List Nat
  /-- The one set of threshold offsets of the LUN, P1 to P4 (R519); 0 after the RESET of R496. -/
  thr : List Int := [0, 0, 0, 0]
  retry : Option Retry := none
  /-- What a finished retry found for the reads that waited: read, block, page, and the references that could not be recovered (R519). -/
  taken : List (Nat × Nat × Nat × List Ref) := []
  deriving DecidableEq, Repr

/-- What a block serves. Blocks that are not listed are erased Quarry blocks never erased before. -/
inductive BlkUse where
  | quarry | course | freed | rubble
  /-- An erased block of the Footing (R426, R428, R434). -/
  | footing
  deriving DecidableEq, Repr

/-- A listed block, keyed by LUN key × 2^20 + block. -/
structure Blk where
  use : BlkUse
  erases : Nat
  reads : Nat
  deriving DecidableEq, Repr

/-- A Course (R454). -/
structure Course where
  role : Role
  /-- Block keys, in member order. -/
  blocks : List Nat
  /-- Member that takes the Mortar pages. -/
  mortar : Nat
  /-- Pages of a wordline pairing group of each member (1 in SLC mode), and rows. -/
  groups : List Nat
  rows : Nat
  /-- Programmed pages: member, row, content. -/
  pages : List (Nat × Nat × List Ref)
  isOpen : Bool
  closedAt : DWord
  deriving DecidableEq, Repr

/-- The Overdrive computation (R475, R476, R480). -/
structure Over where
  sustain : Nat
  headroom : Nat
  /-- Host write bytes admitted per 10 ms period, newest first: all, and to block partitions; at most 50. -/
  periods : List (Nat × Nat)
  /-- The period running. -/
  nowAll : Nat
  nowBlock : Nat
  pressed : Nat
  unpressed : Nat
  /-- Valid permille of the last 64 victim Courses, newest first. -/
  victims : List Nat
  waMilli : Nat
  gcShareNow : Nat
  totalMs : Nat
  episodes : Nat
  /-- History: START_TICK, DURATION_MS, MIN_SUSTAIN, newest first. -/
  history : List (Nat × Nat × Nat)
  deriving DecidableEq, Repr

/-- The media as the device holds it. -/
structure Media where
  /-- The system area was last owned by another device (R320). -/
  foreign : Bool
  probed : Bool
  /-- Bound profile per channel. -/
  bound : Tbl (List Byte)
  luns : Tbl Lun
  offline : BitVec 16
  /-- Channels with a responding LUN, as CAP0 reports. -/
  chPresent : BitVec 16
  blocks : Tbl Blk
  courses : Tbl Course
  nextCourse : Nat
  /-- The codewords stored in the pages of listed blocks, data as randomized and parity, by Table 9-4 address (R502 to R505). -/
  cells : Tbl (List Byte) := []
  /-- Generation of each map leaf on flash (Table 10-3). -/
  leafGen : Tbl Nat := []
  /-- Wordline pairing groups whose programming power loss interrupted, until their block is erased: block, first page, pages (R49). -/
  tornGroups : List (Nat × Nat × Nat) := []
  /-- Dies every block of which is on the Rubble list (R458, R459). -/
  rubbleLuns : List Nat
  /-- Failed dies whose relocation has not been committed (R458). -/
  relocating : List Nat
  /-- Footing: decision made (R429), room left in bytes, size reported in MiB, blocks the check dropped from this boot's Footing (R428). -/
  footDecided : Bool
  footFree : Nat
  footMib : Nat
  footDropped : List Nat
  pace : Over
  /-- INTERRUPTED page entries (Table 9-9b), and those of the boot that ended, which the next replay finds. -/
  interrupted : List (List Byte)
  torn : List (List Byte)
  /-- Fractures of the last replay: partition and record. -/
  fractures : List (Nat × List Byte)
  /-- Lost data the error log has already reported (R460). -/
  lostSeen : List Ref
  deriving DecidableEq, Repr

/-- The system area (persistent). -/
structure SysArea where
  present : Bool
  /-- Serial number of the last owner. -/
  owner : List Byte
  /-- Stored boot counter, and the counter of this boot. -/
  bootStored : DWord
  boot : DWord
  /-- t6 of this boot has passed. -/
  t6 : Bool
  /-- Device features (Table 9-10). -/
  gcShare : Nat
  footingMib : Nat
  calDelta : Nat
  /-- FOOTING_MIB in force since RESET_N. -/
  footInForce : Nat
  /-- Figures fixed with the system area (R472): G, Y, Y_sys, P_s, usable units, F_max in MiB. -/
  good : Nat
  yBlocks : Nat
  ySys : Nat
  spare : Nat
  usableUnits : Nat
  fMax : Nat
  /-- End of life was reached (R473). -/
  eol : Bool
  /-- Profile store (R510). -/
  profiles : List (List Byte)
  /-- The profile library built into the running firmware (R421). -/
  library : List (List Byte)
  fwA : Option FwSlot
  fwB : Option FwSlot
  /-- Level the firmware thermometer is due to reach: that of the newest image full service has begun on (R669). -/
  fwLevel : Nat
  /-- The running slot is B. -/
  runB : Bool
  stored : Option Ucode
  candidate : Option Ucode
  /-- An interrupted replay has written records (REPLAY_REPEAT). -/
  replayRepeat : Bool
  /-- Boot counter of the last boot that ended with recovery over. -/
  lostBoot : Nat
  deriving DecidableEq, Repr

/-! ## Host Map Store (chapter 10) -/

/-- An attached region (Table 10-4): STATE 1 in use, 2 retired. -/
structure HmRegion where
  addr : Nat
  slots : Nat
  retired : Bool
  fails : Nat
  deriving DecidableEq, Repr

/-- The Host Map Store. -/
structure Hmap where
  attached : Bool
  regions : List HmRegion
  macFails : Nat
  busErrors : Nat
  /-- Events of the attachment (Table 10-5), oldest first. -/
  events : List (List Byte)
  /-- Regions being scrubbed. -/
  scrubbing : List Nat
  /-- Leaves in on-chip SRAM and in DRAM, newest in use first, each with whether its content is not on flash yet (R323). -/
  sram : List (Nat × Bool)
  dram : List (Nat × Bool)
  /-- What the Directory holds of the slots: slot key to the leaf written there and its generation (R323, R328). -/
  slots : Tbl (Nat × Nat)
  /-- Where the next clean leaf goes. -/
  nextSlot : Nat
  /-- The MAC key of this boot (R328). -/
  key : BitVec 256
  deriving DecidableEq, Repr

/-! ## Calibration (chapter 17) -/

/-- Trim of a channel-target, keyed by channel × 8 + target. -/
structure Trim where
  rd : Nat
  wr : Nat
  rdWin : Nat
  wrWin : Nat
  /-- A result is stored, and its Tj in 0.25 °C and PROFILE_ID. -/
  has : Bool
  tref : Int
  profile : Nat
  /-- Accepted in this boot. -/
  accepted : Bool
  consec : Nat
  /-- Tick before which the temperature trigger does not request it again. -/
  holdOff : DWord
  deriving DecidableEq, Repr

/-- Tracked offsets of a block group, keyed by LUN key × 4096 + group. -/
structure Track where
  p : List Int
  has : Bool
  tref : Int
  /-- Retry entry last recorded for the group (R508). -/
  retry : Nat
  consec : Nat
  holdOff : DWord
  deriving DecidableEq, Repr

/-- Where a hold-up run stands (R565). -/
inductive Hold where
  | idle
  | waiting (since : DWord)
  /-- Discharging: number of the measurement, start of the load, k0 with its tick, V_h at the first start (State.vhNum), and the
  first capacitance in 0.01 mF (none if it failed). -/
  | discharging (second : Bool) (since : DWord) (k0 : Option (Nat × DWord)) (v0 : Nat) (first : Option Nat)
  | recharging (since : DWord) (v0 : Nat) (first : Option Nat)
  deriving DecidableEq, Repr

/-- A kind record (Table 17-7), its fields that are not computed. -/
structure CalRec where
  accTj : Option Int
  accBoot : Nat
  accTick : Nat
  accValue : Nat
  rejBoot : Nat
  rejTick : Nat
  rejUnit : Nat
  rejA : Nat
  rejB : Nat
  deriving DecidableEq, Repr

/-- Calibration. -/
structure Cal where
  autoEn : Bool
  degraded : BitVec 3
  disagree : BitVec 3
  /-- Units requested and not yet run, by kind 0 and 1. -/
  req0 : List Nat
  req1 : List Nat
  /-- Units of a disagreeing run to repeat, and when it disagreed. -/
  rep0 : List Nat
  rep0At : DWord
  rep1 : List Nat
  rep1At : DWord
  trims : Tbl Trim
  tracks : Tbl Track
  hold : Hold
  /-- A disagreeing hold-up run is to be repeated (R561). -/
  holdRep : Bool
  /-- Measured capacitance of the last accepted run in 0.01 mF, its T_ref, consecutive disagreements, trigger hold-off. -/
  holdMeas : Option Nat
  holdTref : Int
  holdConsec : Nat
  holdOff : DWord
  recs : Vector CalRec 3
  deriving DecidableEq, Repr

/-! ## Block Mover (chapter 18) -/

/-- STATE of a mover channel (Table 6-19). -/
inductive MovState where
  | idle | running | aborting
  deriving DecidableEq, Repr

/-- A transfer or descriptor in progress. -/
structure MovRun where
  src : Nat
  dst : Nat
  count : Nat
  funnel : Bool
  srcDram : Bool
  dstDram : Bool
  fill : Option Byte
  /-- List mode: NEXT, LAST, HALT_ON_BAD, event and DCTRL bits [23:0] as fetched. -/
  next : Nat
  last : Bool
  haltOnBad : Bool
  evtKind : Nat
  evtArg : Nat
  dctrl : Nat
  /-- Destination bytes whose bursts have finished: with COUNT, what the device's own count of the bytes remaining is (R11, R596). -/
  moved : Nat := 0
  deriving DecidableEq, Repr

/-- A burst started and not finished: destination start and length, number of accounted destination bytes. -/
structure Burst where
  dst : Nat
  len : Nat
  deriving DecidableEq, Repr

/-- One mover channel. -/
structure MovCh where
  src : DWord
  dst : DWord
  count : Word
  evtInSel : Fin 4
  evtInEn : Bool
  evtArg : BitVec 12
  evtKind : BitVec 2
  dstDram : Bool
  srcDram : Bool
  align : Bool
  mode : Bool
  state : MovState
  aborted : Bool
  badSeen : Bool
  next : DWord
  burst : BitVec 4
  share : Byte
  run : Option MovRun
  /-- Destination bytes whose bursts have been started. -/
  begun : Nat
  bursts : List Burst
  deriving DecidableEq, Repr

/-- The Block Mover. -/
structure Mover where
  sel : Fin 32
  chs : Vector MovCh 32
  deriving DecidableEq, Repr

/-! ## Kwaorn Link cascade (chapter 19) -/

/-- A port (R608 to R613). Port 0 U, 1 D0, 2 D1. -/
structure Port where
  trained : Bool
  blockLock : Bool
  training : Bool
  /-- Consecutive valid TRAIN blocks received, and the partner's role as received. -/
  rxTrain : Nat
  roleLogged : Bool
  /-- Tick at which presence or block lock was lost, or presence gained. -/
  lostAt : Option DWord
  presentAt : Option DWord
  txSeq : BitVec 12
  rxSeq : BitVec 12
  /-- Unacknowledged packets with their SEQ, oldest first. -/
  replay : List (BitVec 12 × Packet)
  replays : Nat
  /-- Credit: 64-byte units used of each class, and the partner's cumulative freed totals. -/
  used : Vector (BitVec 16) 3
  freed : Vector (BitVec 16) 3
  /-- Cumulative freed totals of this receiver, and those its last CREDIT block carried. -/
  rxFreed : Vector (BitVec 16) 3
  credSent : Vector (BitVec 16) 3
  /-- The last LINK block sent: whether an ACK, else a NAK, and its SEQ. -/
  linkSent : Option (Bool × BitVec 12)
  /-- Packets waiting for credit or for the link, oldest first. -/
  waiting : List Packet
  deriving DecidableEq, Repr

/-- A Roster entry (Table 19-5). -/
structure RosterE where
  state : Nat
  depth : Nat
  position : Nat
  serial : List Byte
  keyId : List Byte
  lastBoot : Nat
  seenBoot : Nat
  seenTick : Nat
  heldSerial : List Byte
  heldKeyId : List Byte
  /-- The accepted certificate, and that of the identity held out. -/
  cert : List Byte
  heldCert : List Byte
  /-- Boot counter of the identity held out, and the Keystone's boot counter and tick at its attestation. -/
  heldSeen : Nat × Nat × Nat
  /-- The device stands there now and has been admitted. -/
  present : Bool
  deriving DecidableEq, Repr

/-- An entry this member forwarded, or relayed as Keystone: the member it came from, its queue and count there, target and transaction. -/
structure Fwd where
  origin : Nat
  q : Nat
  count : BitVec 32
  target : Nat
  txn : Nat
  deriving DecidableEq, Repr

/-- An attestation in progress: the ID of the port position, the challenge and the transaction (R619). -/
structure Attest where
  id : Nat
  depth : Nat
  position : Nat
  challenge : List Byte
  txn : Nat
  since : DWord
  deriving DecidableEq, Repr

/-- A CASCADE_ENUMERATE in progress (R616): the count of its entry, the positions still to visit (depth, position), the next free ID, the
members admitted, the devices visited and the Roster as it will be committed. -/
structure Enumeration where
  count : Word
  toVisit : List (Nat × Nat)
  nextId : Nat
  admitted : Nat
  stands : Tbl (Nat × Nat)
  fresh : Tbl RosterE
  deriving DecidableEq, Repr

/-- A STREAM_TRANSFER in progress at its destination (R627). -/
structure Transfer where
  q : Nat
  count : BitVec 32
  txn : Nat
  source : Nat
  srcPart : Nat
  srcStream : Nat
  /-- The source certificate once KEYRSP brought it. -/
  cert : Option (List Byte)
  /-- Key of the destination stream, 0 before it exists. -/
  dest : Nat
  /-- The Ashlar whose bytes are being pulled, and those received. -/
  rec_ : Option (List Byte)
  buf : List Byte
  /-- Bytes verified in this transfer, and the first record of it (0: none yet). -/
  got : Nat
  firstSeq : Nat
  deriving DecidableEq, Repr

/-- A span partition as the Keystone records it (R628, R631, R632). -/
structure Span where
  /-- Serial numbers and KEY_IDs of the members, in the order of the span record. -/
  members : List (List Byte × List Byte)
  isStream : Bool
  lbs4k : Bool
  /-- Capacities of the members in map units. -/
  caps : List Nat
  /-- Stripe rows recorded as dirty. -/
  dirty : List Nat
  /-- Rows logged against an absent member: its ordinal and the row. -/
  logged : List (Nat × Nat)
  /-- Ordinals whose absence has been logged and whose units are not yet served again. -/
  missing : List Nat
  /-- Span stream number to ordinal and member stream number. -/
  streams : Tbl (Nat × Nat)
  maxStream : Nat
  /-- Dirty rows whose parity is to be recomputed, after a start-up or a rejoin. -/
  recheck : List Nat
  deriving DecidableEq, Repr

/-- A sub-command of a span command (R631). -/
structure SpanSub where
  txn : Nat
  ordinal : Nat
  member : Nat
  /-- Where its data begins in the command's data; for the reads before a write, the stripe row. -/
  pos : Nat
  op : Nat
  /-- First byte in the member's partition, and byte count. -/
  first : Nat
  len : Nat
  wdata : List Byte
  rdata : List Byte
  /-- What its COMPL reported, once it has come. -/
  answer : Option Compl
  deriving DecidableEq, Repr

/-- Where a span command stands: its data is still to come, old data and parity are being read, or its effect is under way. -/
inductive SpanStage where
  | data | before | effect
  deriving DecidableEq, Repr

/-- A span command in progress on the Keystone (R631, R632). -/
structure SpanOp where
  id : Nat
  /-- Order of the entry it serves; none for the resynchronization of a row, with the ordinal rewritten. -/
  job : Option Nat
  goal : Nat
  part : Nat
  stage : SpanStage
  /-- Stripe rows it holds; for a FLUSH, the dirty rows it will clear. -/
  rows : List Nat
  data : List Byte
  subs : List SpanSub
  deriving DecidableEq, Repr

/-- The cascade. -/
structure Cas where
  strict : Bool
  joinEn : Bool
  portEn : BitVec 3
  ports : Vector Port 3
  enumerated : Bool
  memberId : Nat
  depth : Nat
  /-- CAS_EVENT bits [7:0] and MEMBER. -/
  event : BitVec 8
  eventMember : BitVec 12
  /-- Route entries: member to port 0 U, 1 D0, 2 D1, 3 self. -/
  routes : Tbl Nat
  roster : Tbl RosterE
  fwds : List Fwd
  nextTxn : Nat
  /-- ENTRY packets held for the cascade queue, with the port each arrived on (R623). -/
  entries : List (Fin 3 × Packet)
  /-- Keystone: the devices that stand at port positions, by ID: depth and position; the positions that wait to join. -/
  stands : Tbl (Nat × Nat)
  joins : List (Nat × Nat)
  attests : List Attest
  enumerating : Option Enumeration
  transfers : List Transfer
  spans : Tbl Span
  spanOps : List SpanOp
  /-- Keystone handles of span streams: stream key in the span, and the member's handle (R631). -/
  spanHandles : Tbl (Nat × Nat)
  deriving DecidableEq, Repr

end Sys2Proof.Machine
end

