-- ==== Sys2Proof/Machine/Resets.lean ====
section
/-! DEFINITION. The reset value of each part of the state: the Reset columns of chapter 6, the reset states of the balls
(chapter 3), the OTP and the Settings Record as shipped (Tables 20-8 to 20-11), blank media. Where the spec states no
value the one chosen here is named in log 5. -/

namespace Sys2Proof.Machine

/-- Balls before VAON is valid: RESET_N low, WP_N low, PWR_SAFE high (Tables 3-6 to 3-14). PFAIL_N and PE_PERST_N are
inputs; high, that is deasserted, is the model's choice (log 5). -/
def resetPins : Pins :=
  { vaon := false, vddCore := false, resetN := false, deferredRise := false, pfailN := true, perstN := true, present := 0
    wpN := 0, pwrSafe := true, wake := false, clkreq := true, evtOut := 0, jtag := 0xF, irOut := 0
    cells := 0, captured := 0, railLost := 0 }

/-- A Settings Record with the factory values (Table 20-10), CHECK included. -/
def factorySettings : List Byte :=
  let b : List Byte := [0x01, 7] ++ leBytes 2 2000 ++ leBytes 2 0x04A1 ++ leBytes 2 0 ++ leBytes 4 0 ++ leBytes 2 3000
    ++ leBytes 2 0 ++ leBytes 2 2000 ++ [80, 10, 0, 0xFF] ++ leBytes 2 30000 ++ leBytes 4 10000 ++ leBytes 4 0
    ++ leBytes 4 0 ++ leBytes 4 0 ++ leBytes 2 64 ++ leBytes 18 0
  b ++ leBytes 4 (crc32c b).toNat

/-- The factory calibration record with unity gain (Table 20-11). -/
def factoryRecord : List Byte :=
  let b : List Byte := leBytes 2 1 ++ leBytes 2 32768 ++ leBytes 184 0
  b ++ leBytes 4 (crc32c b).toNat

/-- The constant fields of the Cornerstone certificate (Table 20-9); the fields of one device are 0x20 and 0 (log 5). -/
def blankCert : List Byte :=
  leBytes 4 0x54435A51 ++ leBytes 2 1 ++ leBytes 2 256 ++ leBytes 4 0x70400E51 ++ [0xB1, 0, 0, 0] ++
  List.replicate 16 0x20 ++ List.replicate 224 0

/-- Little-endian 64-bit words of a byte string. -/
def wordsOf : Nat → List Byte → List DWord
  | 0, _ => []
  | n + 1, bs => BitVec.ofNat 64 (leVal (bs.take 8)) :: wordsOf n (bs.drop 8)

/-- The OTP as shipped: certificate, factory record and Settings slot 0 (Table 20-8). -/
def shippedOtp : Vector DWord 256 :=
  let w : List DWord := wordsOf 32 blankCert ++ List.replicate 8 0 ++ wordsOf 24 factoryRecord ++
    wordsOf 8 factorySettings ++ List.replicate 184 0
  Vector.ofFn (fun i => (w[i.val]?).getD 0)

/-- The rail classification before any strap latch. -/
def resetRails : RailClass :=
  { bankPresent := 0, bank18 := 0, vselMismatch := 0, phbPresent := false, phb33 := false, peAvdd := false
    peAvddh := false, dram2 := false, dramQ := false, cas := false }

/-- The always-on logic with an OTP array: mirror, generations and REFUSED 0 (R661), the shadow not yet loaded (R664). -/
def resetAon (otp : Vector DWord 256) : Aon :=
  { straps := 0, rails := resetRails, latched := false, testEnSeen := false, otp := otp, shadow := Vector.replicate 256 0
    setInForce := none, setRec := factorySettings, reqCh := 0, reqFlags := 0, effCh := 0, effFlags := 0, reqGen := 0
    ackGen := 0, effGen := 0, refused := 0, policy := none, disagree := false, disTick := 0, disSince := none
    frame := none, thermDue := 0, roCarry := false }

/-- The global registers (Tables 6-3 to 6-11). -/
def resetGbl : Gbl :=
  { state := .reset, coreOn := false, up := false, strapsCompared := false, failed := false, halted := false
    roReq := false, roEol := false, recovered := false, footingOpen := false, overdrive := false, halt := ⟨0, 0⟩
    irqEn := false, irqStatus := 0, irqMask := 0x1FFF, tick := 0, capture := 0, clockLost := false, tj := 0
    tjPeak := 0x80, thermStep := 0, tjSamples := [], lock := false, auto := false, fwVersion := 0, dramGib := 0
    fullService := false, keyOk := false, sealFault := false, scratch := 0 }

/-- The protection registers with the fields a Settings Record gives (Tables 6-12 to 6-14, 6-27). -/
def resetProt (setRec : List Byte) : Prot :=
  { qpartSel := 0, qpart := [], policy := BitVec.ofNat 11 (fieldAt setRec 4 2)
    retainMin := BitVec.ofNat 16 (fieldAt setRec 6 2), lastOffset := 0, count := 0, phbWin := 0 }

/-- The admin-queue registers and QSEL (Tables 6-15 to 6-17). -/
def resetAdm : AdmRegs :=
  { baseLo := 0, baseHi := 0, shadowLo := 0, shadowHi := 0, cfgErr := false, en := false, prefetch := 8
    crcReq := false, cacheMode := false, depthLog2 := 4, qsel := 0 }

/-- PWR_CTRL (Table 6-20). -/
def resetPwr : PwrCtrl :=
  { pgIdle := 10, cgIdle := 10, statPage := false, casPg := true, dramCg := true, sealPg := true, sealCg := true
    chPg := true, chCg := true }

/-- A domain in a mode with nothing parked, under PWR_CTRL as reset leaves it. -/
def idleDomain (m : DomMode) : Domain :=
  { mode := m, fenceClosed := false, parked := [], stalled := [], delivered := [], returned := [], mayClock := true
    mayPower := true }

/-- AON runs; CORE and everything behind it is gated while RESET_N is low (Table 4-5, R101). -/
def resetDomains : Domains := Vector.ofFn (fun i => idleDomain (if i.val = 0 then .on else .powerGated))

/-- The PCIe function: no link, configuration requests answered with retry status (R417). -/
def resetPcie : Pcie :=
  { link := .down, training := false, d3hot := false, mse := false, crs := true, config := [], msixEn := false
    msixFuncMask := false, msix := [], pba := [], msiEn := false, msiCount := 1, msiAddr := 0, msiData := 0
    msiMask := 0, msiPending := 0, orphan := false, orphanTick := 0, abandoned := 0, orphanTags := []
    holdIo := false, holdMark := 0, lanes := 0, gen := 0, sent := [] }

/-- Health counters of a device that has never run (Table 21-5a). -/
def resetHealth : Health :=
  { hostBytes := 0, mediaBytes := 0, retryOk := 0, soft2Ok := 0, soft3Ok := 0, rebuilt := 0, uncorrectable := 0
    programFails := 0, eraseFails := 0, timeouts := 0, mcParity := 0, mcScrub := 0, crcMismatch := 0, busErrors := 0
    lostAckEvents := 0, holdupShorts := 0, powerFails := 0, orphans := 0, tjMax := -512
    tempMin := List.replicate 12 0, minuteSum := 0, minuteCount := 0, overdriveMs := 0, coreOnS := 0 }

/-- An empty error log (R687) and health log. -/
def resetLog : Log :=
  { entries := [], nextSeq := 1, dropped := 0, held := [], health := resetHealth, saved := resetHealth, page := [], gens := [], seen := []
    adcRefBad := false }

/-- The admin queue as reset leaves it: disabled, at count 0. -/
def resetAdmq : Queue :=
  { p := { base := 0, shadow := 0, depthLog2 := 4, cacheMode := false, prefetch := 8, crcReq := false
           faultHalt := false, weight := 1, burst := 1, irqEn := true, vector := 0, coalCount := 1, coalTime := 0
           lengthWord := 0, attrWord := 0 }
    enabled := false, pend := false, head := 0, done := 0, ahead := [], scan := .ended, cache := [], scanAge := 0, stale := []
    copies := [], fetchFail := none, busFault := false
    credit := 0, inRound := false, unsignalled := 0, oldest := 0, phbSignal := false
    shadowDue := false, newestTag := none }

/-- The cascade queue (R623), under number 4,096: WEIGHT 16, BURST 8. -/
def resetCasq : Queue := { resetAdmq with p := { resetAdmq.p with weight := 16, burst := 8, irqEn := false } }

/-- Queue 0 alone exists; the cascade queue stands beside the rings. -/
def resetQueues : Queues := { qs := [(0, resetAdmq), (4096, resetCasq)], jobs := [], nextOrder := 1, lastVisited := 0, nextAge := 0 }

/-- The write stage, empty. -/
def resetStage : Stage := { writes := [], nextOrder := 1 }

/-- No stream. -/
def resetStreams : Streams := { tbl := [], sign := [], utc := none, outgoing := [], lastCheck := 0 }

/-- The energy monitor (Tables 6-21, 6-22): ON_MEDIA 1, no calibration accepted. -/
def resetEnergy : Energy :=
  { samples := [], cap := 0, vsense := 0, h := 0, fill := 0, horizon := 0, onMedia := true, catchUp := false
    trips := 0, bFill := 0, needCal := false, pfSeq := false, parked := false, pfStart := 0, summaryLeft := 0
    summaryDone := 0, pfTried := [], pfLost := [], gasp := none, summary := none, pfRan := false
    pfCap := 0 }

/-- The stored image of log 5: word 0 is IDLE (SAFE, DISPATCH, SPID 1, NEXT 0, R531), word 1 ends a routine with DONE. -/
def idleUcode : Ucode :=
  { version := 1, level := 0, minFw := 0
    words := [0x80000000000800000000000004000000#128, 0x800000000#128]
    entry := [0] ++ List.replicate 20 1 ++ List.replicate 11 0, safe := [(0, 1)] }

/-- A die profile that matches every identification (log 5): the values of the worked examples of chapters 12 and 13. -/
def libraryProfile : List Byte :=
  let b : List Byte := leBytes 4 0x4C505A51 ++ leBytes 2 1 ++ leBytes 2 512 ++ leBytes 4 1 ++ leBytes 4 1 ++
    leBytes 8 0 ++ leBytes 8 0 ++ [0, 2, 0, 5] ++ leBytes 2 1600 ++ [3, 4] ++ leBytes 4 16384 ++ leBytes 4 2208 ++
    leBytes 2 1152 ++ [1, 3] ++ leBytes 4 1024 ++ [11, 2, 10, 0] ++ leBytes 2 9000 ++ leBytes 2 60 ++
    leBytes 2 1600 ++ leBytes 2 10000 ++ leBytes 2 30 ++ leBytes 2 300 ++ leBytes 2 20 ++ [8, 0x13] ++
    leBytes 4 180000 ++ leBytes 4 600000 ++ leBytes 4 80000 ++ leBytes 4 3000 ++ leBytes 4 100000 ++ leBytes 16 0 ++
    [85, 0] ++ leBytes 394 0
  b ++ leBytes 4 (crc32c b).toNat

/-- The system area of blank media, with the shipped firmware, microcode and features (Table 9-10). -/
def blankSys : SysArea :=
  { present := false, owner := List.replicate 16 0, bootStored := 0, boot := 0, t6 := false, gcShare := 32
    footingMib := 1024, calDelta := 8, footInForce := 1024, good := 0, yBlocks := 0, ySys := 0, spare := 0, usableUnits := 0
    fMax := 0, eol := false, profiles := [], library := [libraryProfile], fwA := some ⟨0x0301, 0, true⟩, fwB := none
    fwLevel := 0, runB := false, stored := some idleUcode, candidate := none, replayRepeat := false
    lostBoot := 0 }

/-- The Overdrive computation before its first period. -/
def resetOver : Over :=
  { sustain := 0, headroom := 0, periods := [], nowAll := 0, nowBlock := 0, pressed := 0, unpressed := 0, victims := []
    waMilli := 0, gcShareNow := 0, totalMs := 0, episodes := 0, history := [] }

/-- Media before the probe: nothing known, nothing written. -/
def blankMedia : Media :=
  { foreign := false, probed := false, bound := [], luns := [], offline := 0, chPresent := 0, blocks := []
    courses := [], nextCourse := 1, rubbleLuns := [], relocating := [], footDecided := false, footFree := 0, footMib := 0
    footDropped := [], pace := resetOver, interrupted := [], torn := [], fractures := [], lostSeen := [] }

/-- No Host Map Store. -/
def resetHmap : Hmap :=
  { attached := false, regions := [], macFails := 0, busErrors := 0, events := []
    scrubbing := [], sram := [], dram := [], slots := [], nextSlot := 0, key := 0 }

/-- A kind record before any run (Table 17-7). -/
def resetCalRec : CalRec :=
  { accTj := none, accBoot := 0, accTick := 0, accValue := 0, rejBoot := 0, rejTick := 0, rejUnit := 0
    rejA := 0, rejB := 0 }

/-- Calibration (Table 6-23): AUTO_EN 1, nothing requested, no value. -/
def resetCal : Cal :=
  { autoEn := true, degraded := 0, disagree := 0, req0 := [], req1 := [], rep0 := [], rep0At := 0, rep1 := []
    rep1At := 0, trims := [], tracks := [], hold := .idle, holdRep := false, holdMeas := none, holdTref := 0, holdConsec := 0
    holdOff := 0, recs := Vector.replicate 3 resetCalRec }

/-- A Mason after its reset: operand registers, counters and STAT 0, the bus idle (R524). -/
def resetMason : Mason :=
  { opnd := Vector.replicate 8 0, tmr := 0, loopA := 0, loopB := 0, stat := 0, addr := 0, posted := none
    routine := none, abortReq := false, pfailReq := false, patchReq := false, ce := none, cle := false, ale := false
    dq := 0, bank := false, pendSince := none, lastCheck := none, report := none }

/-- The control stores, empty (Table 6-24). -/
def resetMicro : Micro :=
  { bank0 := none, bank1 := none, chSel := 0, oneCh := false, checkPending := 0, checkChannel := 0, checkAddr := 0
    reloading := none, withdrawn := [], masons := Vector.replicate 16 resetMason }

/-- A mover channel (Tables 6-18 and 6-19): BURST 6, SHARE 0xFF. -/
def resetMovCh : MovCh :=
  { src := 0, dst := 0, count := 0, evtInSel := 0, evtInEn := false, evtArg := 0, evtKind := 0, dstDram := false
    srcDram := false, align := false, mode := false, state := .idle, aborted := false, badSeen := false, next := 0
    burst := 6, share := 0xFF, run := none, begun := 0, bursts := [] }

/-- The Block Mover. -/
def resetMover : Mover := { sel := 0, chs := Vector.replicate 32 resetMovCh }

/-- A cascade port without link (R608). -/
def resetPort : Port :=
  { trained := false, blockLock := false, training := false, rxTrain := 0, roleLogged := false, lostAt := none
    presentAt := none, txSeq := 0, rxSeq := 0, replay := [], replays := 0, used := Vector.replicate 3 0
    freed := Vector.replicate 3 0, rxFreed := Vector.replicate 3 0, credSent := Vector.replicate 3 0
    linkSent := none, waiting := [] }

/-- The cascade (Table 6-26): ROSTER_STRICT and JOIN_EN 1, every port enabled. -/
def resetCas : Cas :=
  { strict := true, joinEn := true, portEn := 7, ports := Vector.replicate 3 resetPort, enumerated := false
    memberId := 0, depth := 0, event := 0, eventMember := 0, routes := [], roster := [], fwds := [], nextTxn := 1
    entries := [], stands := [], joins := [], attests := [], enumerating := none, transfers := [], spans := []
    spanOps := [], spanHandles := [] }

end Sys2Proof.Machine
end

