-- ==== Sys2Proof/Machine/State.lean ====
section
/-! DEFINITION. The state of the block, its faults and refusals, and the state right after reset. -/

namespace Sys2Proof.Machine

/-- Ways a command could end the run. The spec turns every access to an absent address into a bus error the device
reports, so no command of this model faults. -/
inductive Fault where
  /-- An access to an address that no aperture holds. Raised by no command: R163 and R596 give such accesses a result. Safe. -/
  | absentAddress
  deriving DecidableEq, Repr

/-- Ways a command could be turned away by the model. -/
inductive Refusal where
  /-- The command named has no meaning in the model. Raised only by the arms of exec that say so; safe. -/
  | notModelled (mnemonic : String)
  deriving DecidableEq, Repr

/-- The QZ7040: every register, queue, buffer, counter, mode and ball of the spec, what its media hold, the shared
memory it works on, and the commands that wait. -/
structure State where
  /-- Balls (chapter 3). -/
  pins : Pins
  /-- Always-on logic: straps, OTP, MSP mirror (chapter 20). -/
  aon : Aon
  /-- Global registers (Tables 6-3 to 6-11). -/
  gbl : Gbl
  /-- Protection registers (Tables 6-12 to 6-14, 6-27). -/
  prot : Prot
  /-- Admin-queue registers and QSEL (Tables 6-15 to 6-17). -/
  adm : AdmRegs
  /-- PWR_CTRL (Table 6-20). -/
  pwr : PwrCtrl
  /-- Power domains (Table 4-5). -/
  doms : Domains
  /-- PCIe function and Orphan (chapter 4, R166). -/
  pcie : Pcie
  /-- Error log and health log (chapter 21). -/
  log : Log
  /-- Queues and entries in flight (chapters 7, 8). -/
  queues : Queues
  /-- Host memory, which is shared memory in PCIe mode (R14). -/
  host : Mem
  /-- Attached LPDDR4X (R165). -/
  dram : Mem
  /-- Partitions by number (R310). -/
  parts : Tbl Part
  /-- Write stage (R332). -/
  stage : Stage
  /-- Streams, their records and the signer (chapter 11). -/
  streams : Streams
  /-- Energy monitor and power-fail sequence (chapter 12). -/
  energy : Energy
  /-- System area (chapters 13, 14). -/
  sys : SysArea
  /-- Flash media (chapters 14, 15). -/
  media : Media
  /-- Host Map Store (chapter 10). -/
  hmap : Hmap
  /-- Calibration (chapter 17). -/
  cal : Cal
  /-- Control stores and Masons (chapter 16). -/
  micro : Micro
  /-- Block Mover (chapter 18). -/
  mover : Mover
  /-- Kwaorn Link cascade (chapter 19). -/
  cas : Cas
  /-- Free values drawn so far: the model's own field (log 2). -/
  free : Nat
  /-- Commands that wait, first in, first out. -/
  pending : List Instr
  deriving DecidableEq, Repr

/-- The device before VAON is valid: every register at its Reset column, the OTP as shipped, blank media, memory with
nothing listed (logs 1, 2, 5). -/
def State.reset : State :=
  { pins := resetPins, aon := resetAon shippedOtp, gbl := resetGbl, prot := resetProt factorySettings, adm := resetAdm
    pwr := resetPwr, doms := resetDomains, pcie := resetPcie, log := resetLog, queues := resetQueues, host := []
    dram := [], parts := [], stage := resetStage, streams := resetStreams, energy := resetEnergy, sys := blankSys
    media := blankMedia, hmap := resetHmap, cal := resetCal, micro := resetMicro, mover := resetMover, cas := resetCas
    free := 0, pending := [] }

end Sys2Proof.Machine
end

