-- ==== Sys2Proof/Machine/Flags.lean ====
section
/-! DEFINITION. Status codes (Table 9-11), the bits of the interrupt status register (Table 6-9), halt causes
(Table 6-8), error-log types (Table 21-3) and the condition bits of GBL_STATUS (Table 6-6). -/

namespace Sys2Proof.Machine

/-! Status codes (Table 9-11). -/
def scOk : Nat := 0x00
def scMalformed : Nat := 0x01
def scAccessDenied : Nat := 0x02
def scOutOfRange : Nat := 0x03
def scUncorrectable : Nat := 0x04
def scTorn : Nat := 0x05
def scAborted : Nat := 0x06
def scMemberGone : Nat := 0x07
def scHeld : Nat := 0x08
def scNoSpace : Nat := 0x09
def scReadOnly : Nat := 0x0A
def scBusError : Nat := 0x0B
def scNotReady : Nat := 0x0C
def scChannelFault : Nat := 0x0D
def scStreamClosed : Nat := 0x0E
def scQueueDisabled : Nat := 0x0F
def scCrcMismatch : Nat := 0x10
def scFootingOnly : Nat := 0x11

/-- The codes marked "Logged: yes" in Table 9-11 (R294). -/
def scLogged (c : Nat) : Bool :=
  c == scMalformed || c == scAccessDenied || c == scUncorrectable || c == scAborted || c == scMemberGone ||
  c == scBusError || c == scChannelFault || c == scCrcMismatch

/-! GBL_IRQ_STATUS bits (Table 6-9). -/
def irqAdmq : BitVec 13 := 0x0001
def irqState : BitVec 13 := 0x0002
def irqOverdrive : BitVec 13 := 0x0004
def irqPfail : BitVec 13 := 0x0008
def irqThermal : BitVec 13 := 0x0010
def irqMcheck : BitVec 13 := 0x0020
def irqCal : BitVec 13 := 0x0040
def irqMover : BitVec 13 := 0x0080
def irqCascade : BitVec 13 := 0x0100
def irqHmap : BitVec 13 := 0x0200
def irqProt : BitVec 13 := 0x0400
def irqLog : BitVec 13 := 0x0800
def irqAckMode : BitVec 13 := 0x1000

/-! Halt and failure causes (Table 6-8). -/
def causeFaultHalt : BitVec 8 := 0x01
def causeHostHalt : BitVec 8 := 0x02
def causeMspHalt : BitVec 8 := 0x03
def causeMachineCheck : BitVec 8 := 0x04
def causeThermal : BitVec 8 := 0x05
def causeClockLoss : BitVec 8 := 0x10
def causePllLock : BitVec 8 := 0x11
def causeStrapUnstable : BitVec 8 := 0x12
def causeRailMissing : BitVec 8 := 0x13
def causeTooFewLuns : BitVec 8 := 0x14
def causeSelfTest : BitVec 8 := 0x15
def causeHwFault : BitVec 8 := 0x16

/-! Error-log types (Table 21-3) with their class: 0 I, 1 W, 2 E. -/
def logLostAck : Nat := 0x0001
def logPowerFail : Nat := 0x0002
def logHoldupShort : Nat := 0x0003
def logOrphan : Nat := 0x0004
def logOrphanTag : Nat := 0x0005
def logFracture : Nat := 0x0006
def logLostExtent : Nat := 0x0007
def logCmdError : Nat := 0x0010
def logHaltCause : Nat := 0x0011
def logAutoLock : Nat := 0x0012
def logMspOrder : Nat := 0x0013
def logQueueFault : Nat := 0x0014
def logMcParity : Nat := 0x0020
def logMcScrub : Nat := 0x0021
def logMcSwitchEnd : Nat := 0x0022
def logProfile : Nat := 0x0030
def logPlinthLost : Nat := 0x0031
def logFactoryCrc : Nat := 0x0032
def logCalDegraded : Nat := 0x0033
def logDieFailed : Nat := 0x0034
def logChannelOffline : Nat := 0x0035
def logSanitizeResidue : Nat := 0x0036
def logImageRefused : Nat := 0x0037
def logCascade : Nat := 0x0040
def logSelfTest : Nat := 0x0050

/-- The class of an entry type (Table 21-3). -/
def logClass (t : Nat) : Nat :=
  if t ≤ 0x0007 then 2
  else if t == logAutoLock || t == logMspOrder || t == logMcScrub || t == logCascade then 0
  else 1

/-! Straps in the order of Table 3-16. -/
def Aon.sysclkSel (a : Aon) : Bool := a.straps.getLsbD 0
def Aon.phb (a : Aon) : Bool := a.straps.getLsbD 1
def Aon.keystone (a : Aon) : Bool := a.straps.getLsbD 2
def Aon.phbVsel (a : Aon) : Bool := a.straps.getLsbD 3

/-- The device serves its queues from the DRAM window (R14). -/
def State.phb (s : State) : Bool := s.aon.phb

/-- Channel of a LUN key. -/
def keyCh (k : Nat) : Nat := k / 32

/-- The LUNs that respond and are in service: not failed, channel not offline. -/
def State.liveLuns (s : State) : List Nat :=
  (s.media.luns.filter (fun p => !p.2.failed && !s.media.offline.getLsbD (keyCh p.1))).map (·.1)

/-- Fewer than four LUNs remain online after the probe: a read-only condition (R459). -/
def State.fewLuns (s : State) : Bool := s.media.probed && decide (s.liveLuns.length < 4)

/-- A read-only condition holds (Table 1-4, R459). -/
def State.readOnlyCond (s : State) : Bool := s.gbl.roReq || s.gbl.roEol || s.fewLuns

/-- GBL_STATUS.DEG_CHANNEL: a channel is offline. -/
def State.degChannel (s : State) : Bool := s.media.offline != 0

/-- GBL_STATUS.DEG_DIE: a die is served by rebuild. -/
def State.degDie (s : State) : Bool := !s.media.relocating.isEmpty

/-- GBL_STATUS.DEG_CAL. -/
def State.degCal (s : State) : Bool := s.cal.degraded != 0

/-- GBL_STATUS.DEG_HMAP. -/
def State.degHmap (s : State) : Bool := !s.hmap.scrubbing.isEmpty

/-- A condition of DEGRADED holds (Table 1-4). -/
def State.degraded (s : State) : Bool := s.degChannel || s.degDie || s.degCal || s.degHmap

/-- The state that R18 and R435 select. -/
def State.stateNow (s : State) : DevState :=
  if s.gbl.failed then .failed
  else if !s.pins.vaon then .reset
  else if !s.pins.resetN then (if s.gbl.state = .aonReady then .aonReady else .reset)
  else if s.gbl.halted then .halted
  else if !s.gbl.up then .aonReady
  else if !s.gbl.lock then .bootWindow
  else if !s.gbl.recovered then .footing
  else if s.readOnlyCond then .readOnly
  else if s.degraded then .degraded
  else .operational

/-- The device is HALTED or FAILED: only the writes of R180 apply. -/
def State.stopped (s : State) : Bool := s.gbl.halted || s.gbl.failed

/-- The encoding of GBL_STATUS.STATE (Table 6-6). -/
def DevState.code : DevState → Nat
  | .reset => 0 | .aonReady => 1 | .bootWindow => 2 | .footing => 3 | .operational => 4
  | .degraded => 5 | .readOnly => 6 | .halted => 7 | .failed => 8

end Sys2Proof.Machine
end

