-- ==== Sys2Proof/Machine/Ops.lean ====
section
/-! DEFINITION. The operations the meanings share: shared memory, interrupts, the error log, state changes, queue
bookkeeping and completion records. -/

namespace Sys2Proof.Machine

/-! ## Settings Record in force (Table 20-10) -/

/-- A Settings slot is valid: FORMAT 0x01 and CHECK the CRC-32C of bytes 0 to 59 (R667). -/
def settingsValid (b : List Byte) : Bool :=
  fieldAt b 0 1 == 1 && fieldAt b 60 4 == (crc32c (bytesAt b 0 60)).toNat

/-- The bytes of consecutive OTP words, each little-endian. -/
def otpBytes (o : Vector DWord 256) (first n : Nat) : List Byte :=
  (List.range n).flatMap (fun i => leBytes 8 ((o[first + i]?).getD 0).toNat)

/-- The valid Settings slot with the highest number (R667). -/
def newestSlot (o : Vector DWord 256) : Option (Fin 4) :=
  if settingsValid (otpBytes o 0x58 8) then some 3
  else if settingsValid (otpBytes o 0x50 8) then some 2
  else if settingsValid (otpBytes o 0x48 8) then some 1
  else if settingsValid (otpBytes o 0x40 8) then some 0
  else none

/-- The record in force for a selection: the slot's bytes, or the factory values with no valid slot (R667). -/
def settingsOf (o : Vector DWord 256) : Option (Fin 4) → List Byte
  | some k => otpBytes o (0x40 + 8 * k.val) 8
  | none => factorySettings

/-- BOOT_WINDOW_MAX in ms (R415). -/
def State.windowMs (s : State) : Nat :=
  let v := fieldAt s.aon.setRec 2 2
  if 500 ≤ v && v ≤ 30000 then v else 2000

/-- PROT_POLICY_INIT (Table 20-10); bits [15:11] are ignored (R667). -/
def State.policyInit (s : State) : BitVec 11 := BitVec.ofNat 11 (fieldAt s.aon.setRec 4 2)

/-- RETAIN_MIN_DAYS (Table 20-10). -/
def State.retainInit (s : State) : BitVec 16 := BitVec.ofNat 16 (fieldAt s.aon.setRec 6 2)

/-- The Cornerstone certificate (R666). -/
def State.cert (s : State) : List Byte := otpBytes s.aon.shadow 0 32

/-- Serial number: certificate bytes 16 to 31. -/
def State.serial (s : State) : List Byte := bytesAt s.cert 16 16

/-- The 65-byte public key: certificate bytes 32 to 96. -/
def State.pubkey (s : State) : List Byte := bytesAt s.cert 32 65

/-- The protected key area (R665). -/
def State.keyArea (s : State) : List DWord := (List.range 8).map (fun i => (s.aon.shadow[0x20 + i]?).getD 0)

/-- A 256-bit digest as 32 bytes in SHA-256 output order (R354). -/
def digestBytes (d : BitVec 256) : List Byte := beBytes 32 d.toNat

/-- The key-wrapping key of this device (R317, R665). -/
def State.kek (s : State) : List Byte := be32 (Config.deriveKek s.keyArea)

/-- The XTS key of a partition: its device-wrapped copy, unwrapped (R317). -/
def State.xtsKey (s : State) (p : Nat) : Option (List Byte) :=
  match tget s.parts p with
  | some q => if q.xts then q.keyDev.bind (keyUnwrap s.kek) else none
  | none => none

/-- KEY_ID of this device (R359). -/
def State.keyId (s : State) : List Byte := digestBytes (sha256 s.pubkey)

/-! ## Power domains and their fences (R107 to R110, R147, R194) -/

/-- PWR_CTRL permits domain `d` to be clock gated, or power gated (Table 6-20). HOST has no enable; what may never happen is refused
where the domain's own condition is judged (Table 4-5). -/
def PwrCtrl.permits (p : PwrCtrl) (d : Nat) (power : Bool) : Bool :=
  if d < 3 then true
  else if d == 3 then !power && p.dramCg
  else if d == 4 then (if power then p.sealPg else p.sealCg)
  else if d == 5 then power && p.casPg
  else if power then p.chPg else p.chCg

/-- A domain at work: the idle period that follows is judged by PWR_CTRL as it stands (R194). -/
def Domain.touch (x : Domain) (p : PwrCtrl) (d : Nat) : Domain :=
  { x with mayClock := p.permits d false, mayPower := p.permits d true }

/-- A packet that reaches a closed fence: it parks in the pending queue of 32, or its sender stalls for want of a credit (R107, R108). -/
def Domain.park (x : Domain) (packet : Nat) : Domain :=
  if x.parked.length < 32 then { x with parked := x.parked ++ [packet] } else { x with stalled := x.stalled ++ [packet] }

/-- A domain that is ON again: the fence is open, and parked packets are delivered in order of arrival, those of the stalled senders
after them (R107, R108). -/
def Domain.woken (x : Domain) (p : PwrCtrl) (d : Nat) : Domain :=
  ({ x with mode := .on, fenceClosed := false, parked := [], stalled := [], delivered := x.delivered ++ x.parked ++ x.stalled }).touch p d

/-- An access to a domain wakes it if it is gated; a domain off until reset does not wake (R107, R110, R147). -/
def wakeDomain (s : State) (d : Nat) : State :=
  match s.doms[d]? with
  | none => s
  | some x => if x.mode == .offUntilReset then s else { s with doms := s.doms.setIfInBounds d (x.woken s.pwr d) }

/-! ## Shared memory (R14, R165, R749) -/

/-- Start of the DRAM window in attached DRAM (R165). -/
def State.winBase (s : State) : Nat := s.prot.phbWin.toNat * 0x100000

/-- Length of the DRAM window: 48 MiB in PHB mode, 64 MiB in PCIe mode (Table 6-1). -/
def State.winSize (s : State) : Nat := if s.phb then 0x3000000 else 0x4000000

/-- Populated DRAM in bytes. -/
def State.dramBytes (s : State) : Nat := s.gbl.dramGib.val * 0x40000000

/-- Range `[a, a+n)` meets one of the ranges. -/
def hitsRange (rs : List (Nat × Nat)) (a n : Nat) : Bool :=
  rs.any (fun r => decide (a < r.1 + r.2) && decide (r.1 < a + n))

/-- Master stores of bytes through the DRAM window; beyond populated DRAM they are ignored (R165). -/
def winStore (s : State) (d : Mem) (w : List (Nat × Byte)) : Mem :=
  w.foldl (fun d x =>
    if x.1 < s.winSize && s.winBase + x.1 < s.dramBytes then memWrite d (s.winBase + x.1) x.2 else d) d

/-- What the master stored since the last command that reads shared memory (log 3). The command's own accesses, to rings, lists and data in
DRAM or to the map and the stage there, wake the DRAM domain (R147). -/
def absorbBus (s0 : State) (b : Bus) : State :=
  let s := wakeDomain s0 3
  if s.phb then { s with dram := winStore s (winStore s s.dram b.stores) b.winStores }
  else { s with host := b.stores.foldl (fun m x => memWrite m x.1 x.2) s.host
                dram := winStore s s.dram b.winStores }

/-- A device read of `n` bytes at an attached-DRAM address; none is a bus error (R596, R749). -/
def dramReadN (s : State) (b : Bus) (a n : Nat) : Option (List Byte) :=
  if s.winBase ≤ a && a + n ≤ s.winBase + s.winSize && a + n ≤ s.dramBytes && !hitsRange b.dramFailing a n
  then some (memReadN s.dram a n) else none

/-- A device read of `n` bytes of shared memory; none is a bus error (R165, R596). -/
def shReadN (s : State) (b : Bus) (a n : Nat) : Option (List Byte) :=
  if s.phb then
    (if a + n ≤ s.winSize && s.winBase + a + n ≤ s.dramBytes && !hitsRange b.failing a n
     then some (memReadN s.dram (s.winBase + a) n) else none)
  else (if hitsRange b.failing a n then none else some (memReadN s.host a n))

/-- Whether the device issues writes to shared memory at all: not in Orphan (R116), not in the power-fail sequence (R392). -/
def State.mayWriteShared (s : State) : Bool :=
  !s.energy.pfSeq && (s.phb || !s.pcie.orphan)

/-- Count one bus error in the health log. -/
def countBus (s : State) : State :=
  { s with log := { s.log with health := { s.log.health with
      busErrors := satTo 0xFFFFFFFFFFFFFFFF (s.log.health.busErrors + 1) } } }

/-- A device write to shared memory. In PCIe mode it is posted; in PHB mode one that reaches beyond populated DRAM is a bus error
and stores nothing (R165, R596). -/
def shWrite (s : State) (a : Nat) (bs : List Byte) : State :=
  if !s.mayWriteShared then s
  else if s.phb then
    (if a + bs.length ≤ s.winSize && s.winBase + a + bs.length ≤ s.dramBytes
     then { wakeDomain s 3 with dram := memWriteL s.dram (s.winBase + a) bs } else countBus s)
  else { s with host := memWriteL s.host a bs }

/-- A device write to an attached-DRAM address; false where it is a bus error (R749). -/
def dramWriteL (s : State) (a : Nat) (bs : List Byte) : State × Bool :=
  if s.winBase ≤ a && a + bs.length ≤ s.winBase + s.winSize && a + bs.length ≤ s.dramBytes
  then ({ wakeDomain s 3 with dram := memWriteL s.dram a bs }, true) else (s, false)

/-- The bytes a command sends to the device; none is a bus error (R216). -/
def gather (s : State) (b : Bus) : List Seg → Option (List Byte)
  | [] => some []
  | g :: gs =>
    match (if g.dram then dramReadN s b g.addr g.len else shReadN s b g.addr g.len), gather s b gs with
    | some x, some y => some (x ++ y)
    | _, _ => none

/-- Deliver read data into a command's buffers; false where an access fails (R216, R749). -/
def scatter (s : State) : List Seg → List Byte → State × Bool
  | [], _ => (s, true)
  | g :: gs, bs =>
    let x := bs.take g.len
    if x.isEmpty then (s, true)
    else if g.discard then scatter s gs (bs.drop g.len)
    else if g.dram then
      let r := dramWriteL s g.addr x
      if r.2 then scatter r.1 gs (bs.drop g.len) else (r.1, false)
    else if s.phb && !(decide (g.addr + x.length ≤ s.winSize) && decide (s.winBase + g.addr + x.length ≤ s.dramBytes))
      then (s, false)
    else scatter (shWrite s g.addr x) gs (bs.drop g.len)

/-- How many of the first `n` bytes of read data go into buffers: those that DISCARD elements drop do not (Tables 7-6, 9-3). -/
def bufferBytes : List Seg → Nat → Nat
  | [], _ => 0
  | g :: gs, n => (if g.discard then 0 else min g.len n) + bufferBytes gs (n - g.len)

/-- The bytes of a free buffer. -/
def freeBytes (k : Nat) : Nat → List Byte
  | 0 => []
  | n + 1 => Config.freeByte k :: freeBytes (k + 1) n

/-- The bytes of a buffer that exist at all: first and last-but-one of a run in attached DRAM, or in shared memory (R165, R749). -/
def State.reach (s : State) (g : Seg) : Nat × Nat :=
  let top := min (s.winBase + s.winSize) s.dramBytes
  if g.dram then (max g.addr s.winBase, min (g.addr + g.len) top)
  else if s.phb then (g.addr, min (g.addr + g.len) (top - s.winBase))
  else (g.addr, g.addr + g.len)

/-- One buffer whose content is undefined takes free values. -/
def spoilSeg (s : State) (g : Seg) : State :=
  let r := s.reach g
  if g.discard || r.2 ≤ r.1 then s
  else
    let bs := freeBytes s.free (r.2 - r.1)
    let s1 := if g.dram then (dramWriteL s r.1 bs).1 else shWrite s r.1 bs
    { s1 with free := s1.free + (r.2 - r.1) }

/-- Read buffers whose content the spec leaves undefined take free values, every one of the command (Table 9-11, R749). -/
def spoil (s : State) (segs : List Seg) : State := segs.foldl spoilSeg s

/-! ## Interrupts (R169, R247 to R251) -/

/-- The MSI-X entry of a vector; an entry never written is masked with address and data 0. -/
def msixEntry (p : Pcie) (v : Nat) : MsixEntry := (tget p.msix v).getD ⟨0, 0, true⟩

/-- Insert a vector into the Pending Bit Array, rising. -/
def pbaAdd (l : List Nat) (v : Nat) : List Nat :=
  match l with
  | [] => [v]
  | a :: r => if v < a then v :: a :: r else if v = a then a :: r else a :: pbaAdd r v

/-- Send one message on vector `v` as the PCIe function is set up (R248, R249). -/
def Pcie.send (p : Pcie) (v : Nat) : Pcie :=
  if p.msixEn then
    (if p.msixFuncMask || (msixEntry p v).masked then { p with pba := pbaAdd p.pba v }
     else { p with sent := p.sent ++ [⟨v, (msixEntry p v).addr.toNat, (msixEntry p v).data.toNat⟩] })
  else if p.msiEn then
    let m := v % p.msiCount
    (if p.msiMask.getLsbD m then { p with msiPending := putBit p.msiPending m true }
     else { p with sent := p.sent ++ [⟨v, p.msiAddr.toNat, p.msiData.toNat + m⟩] })
  else p

/-- A signal on a vector: a message in PCIe mode with the link up, none in the power-fail sequence (R116, R392); PHB pins
follow from State.phbIrq. -/
def sendVector (s : State) (v : Nat) : State :=
  if s.phb || s.pcie.orphan || s.energy.pfSeq then s else { s with pcie := s.pcie.send v }

/-- Set bits of GBL_IRQ_STATUS; a bit that becomes set while unmasked with IRQ_EN 1 sends one vector 0 message (R169). -/
def setIrq (s : State) (bits : BitVec 13) : State :=
  let new := bits &&& ~~~s.gbl.irqStatus
  let s' := { s with gbl := { s.gbl with irqStatus := s.gbl.irqStatus ||| bits } }
  if new &&& ~~~s.gbl.irqMask ≠ 0 && s.gbl.irqEn then sendVector s' 0 else s'

/-- PHB_IRQ_N0 to N3 held low (R169, R250), pin 0 at bit 0. -/
def State.phbIrq (s : State) : BitVec 4 :=
  let base : BitVec 4 :=
    if s.phb && s.gbl.irqEn && (s.gbl.irqStatus &&& ~~~s.gbl.irqMask) ≠ 0 then 1 else 0
  s.queues.qs.foldl (fun p kq => if s.phb && kq.2.phbSignal then putBit p kq.2.p.vector true else p) base

/-! ## The error log (R686 to R688) -/

/-- The boot counter that records and IDENTIFY carry: 0 on foreign media (R418). -/
def State.bootNow (s : State) : DWord := if s.media.foreign then 0 else s.sys.boot

/-- A log page has changed: its generation advances (R290). -/
def bumpGen (l : Log) (page : Nat) : Log :=
  { l with gens := tput l.gens page ((tget l.gens page).getD 0 + 1), seen := tdel l.seen page }

/-- The state with a page's change counted (R290). -/
def noteGen (s : State) (page : Nat) : State := { s with log := bumpGen s.log page }

/-- Append a committed entry, dropping the oldest beyond 4,096 (R687). -/
def Log.add (l : Log) (e : LogEntry) : Log :=
  let es := l.entries ++ [{ e with seq := l.nextSeq }]
  let l' := { l with entries := if es.length > 4096 then es.drop 1 else es
                     nextSeq := l.nextSeq + 1
                     dropped := if es.length > 4096 then l.dropped + 1 else l.dropped }
  bumpGen l' 1

/-- PARAM bytes: fields at their offsets, 36 bytes in all. -/
def param (fs : List (Nat × Nat × Nat)) : List Byte :=
  fs.foldl (fun b f => bytesPut b f.1 (leBytes f.2.1 f.2.2)) (List.replicate 36 0)

/-- Write an error-log entry: never in the power-fail sequence or before t2; held from t2 to t6 (R686). On foreign media it is written too
(R294, R321; log 13). -/
def logEvent (s : State) (type : Nat) (fs : List (Nat × Nat × Nat)) : State :=
  let e : LogEntry := ⟨0, s.gbl.tick, s.bootNow, type, logClass type, param fs⟩
  if s.energy.pfSeq || !s.gbl.coreOn then s
  else if !s.sys.t6 then { s with log := { s.log with held := s.log.held ++ [e] } }
  else setIrq { s with log := s.log.add e } irqLog

/-! ## State changes (R18, R19, R168) -/

/-- The Overdrive episode running ends (R480). -/
def endEpisode (o : Over) (tick : Nat) : Over :=
  match o.history with
  | (t, d, m) :: r => { o with pressed := 0, history := (t, if d == 0xFFFFFFFF then (tick - t) / 1000 else d, m) :: r }
  | [] => { o with pressed := 0 }

/-- Report the state that R18 and R435 select; set the STATE interrupt at a change, and clear OVERDRIVE on entry to
any state but OPERATIONAL and DEGRADED (R19). The parked device keeps its state (R396). -/
def refresh (s : State) : State :=
  let n := s.stateNow
  if n = s.gbl.state || s.energy.parked then s
  else
    let s1 := setIrq { s with gbl := { s.gbl with state := n } } irqState
    if s1.gbl.overdrive && !(n == .operational || n == .degraded)
    then setIrq { noteGen s1 6 with gbl := { s1.gbl with overdrive := false }
                                    media := { s1.media with pace := endEpisode s1.media.pace s1.gbl.tick.toNat } } irqOverdrive else s1

/-- Record a halt or failure cause: only the first reaches GBL_HALT_CAUSE (R168); every one is logged. -/
def recordCause (s : State) (cause : BitVec 8) (detail : Nat) : State :=
  let first := s.gbl.halt.cause == 0
  let s1 := if first then { s with gbl := { s.gbl with halt := ⟨cause, BitVec.ofNat 12 detail⟩ } } else s
  logEvent s1 logHaltCause [(0, 1, cause.toNat), (1, 1, b2n first), (4, 4, detail)]

/-- Count a write ignored under the RWL rule (Table 0-2, Table 6-14). -/
def violation (s : State) (offset : Nat) : State :=
  setIrq { s with prot := { s.prot with
    count := if s.prot.count = 0xFFFF then 0xFFFF else s.prot.count + 1
    lastOffset := BitVec.ofNat 12 offset } } irqProt

/-! ## Sending on the cascade (R611 to R617) -/

/-- 64-byte units of credit a packet takes (R612). -/
def pktUnits (p : Packet) : Nat := (16 + p.payload.length + 63) / 64

/-- Receive buffer of a class in 64-byte units (R612). -/
def clsUnits (c : Nat) : Nat := if c == 0 then 256 else 512

/-- Bytes sent and not acknowledged (R613). -/
def Port.unacked (t : Port) : Nat := (t.replay.map (fun x => 16 + x.2.payload.length)).sum

/-- The port may start this packet now: link up, credit in its class, at most 64 KiB unacknowledged (R612, R613). -/
def Port.maySend (t : Port) (p : Packet) : Bool :=
  let c := p.cls
  t.trained && decide (((t.used[c]?).getD 0 - (t.freed[c]?).getD 0).toNat + pktUnits p ≤ clsUnits c) &&
  decide (t.unacked + 16 + p.payload.length ≤ 65536)

/-- Start a packet: it takes the next SEQ and its credit, and is kept until it is acknowledged. -/
def Port.start (t : Port) (p : Packet) : Port :=
  { t with replay := t.replay ++ [(t.txSeq, p)]
           txSeq := t.txSeq + 1
           used := t.used.setIfInBounds p.cls ((t.used[p.cls]?).getD 0 + BitVec.ofNat 16 (pktUnits p)) }

/-- Start the waiting packets that may go; within a class none passes an earlier one (R612). -/
def Port.drain (t : Port) (held : List Packet) (blocked : List Nat) : List Packet → Port
  | [] => { t with waiting := held }
  | p :: ps =>
    if !blocked.contains p.cls && t.maySend p then (t.start p).drain held blocked ps
    else t.drain (held ++ [p]) (p.cls :: blocked) ps

/-- Queue a packet on a port. -/
def Port.send (t : Port) (p : Packet) : Port := t.drain [] [] (t.waiting ++ [p])

/-- Send a packet on port `n`; a port whose link is down sends nothing (R634). -/
def sendPort (s : State) (n : Nat) (p : Packet) : State :=
  match s.cas.ports[n]? with
  | some t => if !t.trained then s else { s with cas := { s.cas with ports := s.cas.ports.setIfInBounds n (t.send p) } }
  | none => s

/-- The device is the Keystone of its cascade (R13, R615). -/
def State.keystone (s : State) : Bool := s.aon.keystone

/-- Route of a member ID: 0 U, 1 D0, 2 D1, 3 self; an unwritten entry reads U on a member and none on the Keystone (R617). -/
def State.route (s : State) (m : Nat) : Option Nat :=
  if s.cas.enumerated && m == s.cas.memberId then some 3
  else
    match tget s.cas.routes m with
    | some r => some r
    | none => if s.keystone then none else some 0

/-- Send a packet towards its destination; one that cannot be routed is not sent. -/
def sendPkt (s : State) (p : Packet) : State :=
  match s.route p.dest with
  | some 3 => s
  | some n => sendPort s n p
  | none => s

/-- Member ID a packet of this device carries as SRC (Table 19-2). -/
def State.srcId (s : State) : Nat := if s.cas.enumerated then s.cas.memberId else 0xFFF

/-! ## Queues and completion records (chapters 7 and 8) -/

/-- Slots in the ring. -/
def Queue.depth (q : Queue) : Nat := 2 ^ q.p.depthLog2

/-- The entries in flight of a queue. -/
def State.jobsOf (s : State) (q : Nat) : List Job := s.queues.jobs.filter (fun j => j.q == q && !j.detached)

/-- A job by queue and count. -/
def State.job? (s : State) (q : Nat) (c : Word) : Option Job :=
  s.queues.jobs.find? (fun j => j.q == q && j.count == c)

/-- Replace a job. -/
def setJob (s : State) (j : Job) : State :=
  { s with queues := { s.queues with
      jobs := s.queues.jobs.map (fun x => if x.order = j.order then j else x) } }

/-- A running or paused scan ends: nothing fetched for it is kept (R208, R236). -/
def Queue.endScan (k : Queue) : Queue :=
  { k with scan := .ended, copies := [], fetchFail := none, stale := [], cache := k.cache.filter (fun c => !k.stale.contains c.slot) }

/-- Change one queue. -/
def modQueue (s : State) (q : Nat) (f : Queue → Queue) : State :=
  { s with queues := { s.queues with qs := tmod s.queues.qs q f } }

/-- Write a queue shadow's device half as one 32-byte write (R197, R199). -/
def writeShadow (s : State) (q : Nat) : State :=
  match tget s.queues.qs q with
  | none => s
  | some k =>
    let s1 := shWrite s (k.p.shadow + 32) (leBytes 4 k.head.toNat ++ leBytes 4 k.done.toNat ++ leBytes 24 0)
    modQueue s1 q (fun k => { k with shadowDue := false })

/-- Signal a queue: the shadow first, then the message or the pin (R199, R247, R250). -/
def signalQueue (s : State) (q : Nat) : State :=
  let s1 := writeShadow s q
  let s2 := modQueue s1 q (fun k => { k with unsignalled := 0, phbSignal := s1.phb })
  match tget s.queues.qs q with
  | none => s2
  | some k => sendVector s2 k.p.vector

/-- Move DONE over every count whose record has been written (Table 7-1). -/
def advanceDone (done : BitVec 32) (ahead : List (BitVec 32)) : Nat → BitVec 32 × List (BitVec 32)
  | 0 => (done, ahead)
  | n + 1 => if ahead.contains done then advanceDone (done + 1) (ahead.filter (· ≠ done)) n else (done, ahead)

/-- Count a written completion record in its queue (R199, R247). -/
def markDone (s : State) (q : Nat) (c : Word) (status : Nat) : State :=
  let s1 := modQueue s q (fun k =>
    let r := advanceDone k.done (k.ahead ++ [c]) (k.ahead.length + 1)
    { k with done := r.1, ahead := r.2, shadowDue := true,
             oldest := if k.unsignalled = 0 then s.gbl.tick else k.oldest
             unsignalled := if k.p.irqEn && q != 0 then k.unsignalled + 1 else k.unsignalled })
  if q = 0 then setIrq (writeShadow s1 0) irqAdmq
  else
    match tget s1.queues.qs q with
    | some k =>
      if k.p.irqEn && (status != scOk || decide (k.p.coalCount ≤ k.unsignalled) || s.stopped)
      then signalQueue s1 q else s1
    | none => s1

/-- The device is HALTED, FAILED or parked: only the writes of R180 apply (R180, R396). -/
def State.limited (s : State) : Bool := s.stopped || s.energy.parked

/-- A ring of queue `q`, by doorbell or mover pulse: it sets the pending bit of an enabled queue; nothing while HALTED,
FAILED or parked (R146, R164, R180, R237, R396). -/
def ringQueue (s : State) (q : Nat) : State :=
  if s.limited then s else modQueue s q (fun k => if k.enabled then { k with pend := true } else k)

/-- The 64 bytes of a completion record (Table 7-4). -/
def recordBytes (j : Job) (tick : DWord) (c : Compl) (logged : Bool) : List Byte :=
  let head := leBytes 2 (c.status + 0x100 * b2n (c.onMedia && c.status == scOk) + 0x200 * b2n logged) ++ leBytes 6 0 ++
    leBytes 8 c.result ++ leBytes 8 c.ashlar ++ leBytes 8 tick.toNat ++ leBytes 8 c.cr0 ++ leBytes 8 c.cr1 ++
    bytesAt j.bytes 48 8 ++ leBytes 4 j.count.toNat
  head ++ leBytes 2 (crc16 head).toNat ++ [0x00, 0x40]

/-- Write the CMD_ERROR entry of a command (R294, Table 21-3). -/
def logCmd (s : State) (j : Job) (c : Compl) (detail : Nat) : State :=
  logEvent s logCmdError [(0, 2, (j.origin.map (·.2.2.1)).getD j.q), (2, 1, fieldAt j.bytes 0 1), (3, 1, c.status),
    (4, 4, (j.origin.map (·.2.2.2)).getD j.count.toNat),
    (8, 8, fieldAt j.bytes 48 8), (16, 8, detail), (24, 2, (j.origin.map (·.1)).getD 0xFFFF)]

/-- End a consumed entry: its completion record with byte 63 last, its place in DONE and its signal (R212, R213). A forwarded entry is
answered with COMPL (R625), unless its link was lost (R634); in Orphan, in the power-fail sequence and after a host-facing reset no
record is written (R232, R392). -/
def postRecord (s : State) (j : Job) (c : Compl) (logged : Bool) : State :=
  let s1 := { s with queues := { s.queues with
    jobs := s.queues.jobs.filter (fun x => x.order != j.order) } }
  match j.origin with
  | some o => if j.detached then s1 else sendPkt s1 ⟨5, 2, true, o.1, s.srcId, o.2.1, 0, (recordBytes j s.gbl.tick c logged).take 48⟩
  | none =>
    match tget s1.queues.qs j.q with
    | none => s1
    | some k =>
      if !s1.mayWriteShared || j.detached then s1
      else
        let rec_ := recordBytes j s.gbl.tick c logged
        let a := k.p.base + 64 * (j.count.toNat % k.depth)
        let s2 := shWrite s1 a (rec_.take 63)
        let s3 := shWrite s2 (a + 63) (rec_.drop 63)
        markDone s3 j.q j.count c.status

/-- An event becomes an error-log entry at once: not in the power-fail sequence or before t6 (R686, log 13). -/
def State.logsNow (s : State) : Bool := s.gbl.coreOn && !s.energy.pfSeq && s.sys.t6

/-- Complete a consumed entry: its error-log entry, then its record, whose LOGGED says that the entry was written (R212, R294). -/
def complete (s : State) (j : Job) (c : Compl) (detail : Nat := c.cr0) : State :=
  postRecord (if scLogged c.status then logCmd s j c detail else s) j c ((scLogged c.status || c.logged) && s.logsNow)

end Sys2Proof.Machine
end

