-- ==== Sys2Proof/Machine/Operands.lean ====
section
/-! DEFINITION. The operand forms of a queue entry: its fields (Table 7-2), opcodes (Table 9-2), flags (Table 9-1),
data pointers and SGL (R214, R215), and the malformed conditions of Table 8-3. -/

namespace Sys2Proof.Machine

/-! ## Fields of an entry (Table 7-2) -/
def eOp (e : List Byte) : Nat := fieldAt e 0 1
def eFlags (e : List Byte) : Nat := fieldAt e 1 1
def ePs (e : List Byte) : Nat := fieldAt e 2 2
def eMember (e : List Byte) : Nat := fieldAt e 4 2 % 4096
def eLba (e : List Byte) : Nat := fieldAt e 8 8
def eLen (e : List Byte) : Nat := fieldAt e 16 4
def eAttr (e : List Byte) : Nat := fieldAt e 20 4
def eD0 (e : List Byte) : Nat := fieldAt e 24 8
def eD1 (e : List Byte) : Nat := fieldAt e 32 8
/-- HOST_TIME; admin commands use these bytes 40 to 47 for other fields. -/
def eTime (e : List Byte) : Nat := fieldAt e 40 8
def eTag (e : List Byte) : Nat := fieldAt e 48 8
def eCrc (e : List Byte) : Nat := fieldAt e 60 2
def eOwn (e : List Byte) : Nat := fieldAt e 63 1
/-- Partition number: PART_STREAM bits [4:0] (R273). -/
def ePart (e : List Byte) : Nat := ePs e % 32
/-- Stream handle: PART_STREAM bits [9:0] (R273). -/
def eHandle (e : List Byte) : Nat := ePs e % 1024
/-- Stream number in ATTR bits [15:0]. -/
def eStream (e : List Byte) : Nat := eAttr e % 65536
/-! FLAGS (Table 9-1). -/
def fSgl (e : List Byte) : Bool := bitOf (eFlags e) 0
def fFwd (e : List Byte) : Bool := bitOf (eFlags e) 1
def fMedia (e : List Byte) : Bool := bitOf (eFlags e) 2
def fOpt (e : List Byte) : Bool := bitOf (eFlags e) 3

/-! ## Opcodes (Table 9-2) -/
def opRead : Nat := 0x01
def opWrite : Nat := 0x02
def opWriteZeroes : Nat := 0x03
def opTrim : Nat := 0x04
def opFlush : Nat := 0x05
def opFence : Nat := 0x06
def opStreamOpen : Nat := 0x10
def opStreamAppend : Nat := 0x11
def opStreamMark : Nat := 0x12
def opStreamClose : Nat := 0x13
def opStreamRead : Nat := 0x14
def opRawRead : Nat := 0x18
def opStreamTransfer : Nat := 0x19
def opIdentify : Nat := 0x80
def opAttest : Nat := 0x81
def opCreateQueue : Nat := 0x82
def opDisableQueue : Nat := 0x83
def opDestroyQueue : Nat := 0x84
def opQueryQueue : Nat := 0x85
def opCreatePartition : Nat := 0x88
def opDeletePartition : Nat := 0x89
def opSetHold : Nat := 0x8A
def opSetTime : Nat := 0x8B
def opGetLog : Nat := 0x8C
def opSetFeature : Nat := 0x8D
def opGetFeature : Nat := 0x8E
def opLoadProfile : Nat := 0x90
def opLoadMicrocode : Nat := 0x91
def opCommitFirmware : Nat := 0x92
def opStartCalibration : Nat := 0x93
def opAttachMapStore : Nat := 0x94
def opDetachMapStore : Nat := 0x95
def opCascadeEnumerate : Nat := 0x98
def opCascadeRoster : Nat := 0x99
def opAdoptMedia : Nat := 0x9A
def opSanitize : Nat := 0x9B
def opSelfTest : Nat := 0x9C

/-- The assigned I/O opcodes. -/
def ioOps : List Nat := [0x01, 0x02, 0x03, 0x04, 0x05, 0x06, 0x10, 0x11, 0x12, 0x13, 0x14, 0x18, 0x19]

/-- The assigned admin opcodes. -/
def adminOps : List Nat := [0x80, 0x81, 0x82, 0x83, 0x84, 0x85, 0x88, 0x89, 0x8A, 0x8B, 0x8C, 0x8D, 0x8E, 0x90, 0x91,
  0x92, 0x93, 0x94, 0x95, 0x98, 0x99, 0x9A, 0x9B, 0x9C]

/-- Opcodes on which FLAGS.ACK_MEDIA is defined (Table 9-1). -/
def ackMediaOps : List Nat := [opWrite, opWriteZeroes, opTrim, opStreamAppend, opStreamMark]

/-- Opcodes on which FLAGS.OPT is defined (Table 9-1). -/
def optOps : List Nat := [opStreamRead, opRawRead, opStreamMark]

/-- Direction of a command's data: to the device, from it, both, or none (Tables 9-3 and 9-5). -/
inductive Dir where
  | none | toDevice | toHost | both
  deriving DecidableEq, Repr

/-- MAX_XFER (R275). -/
def maxXfer : Nat := 2097152

/-- The span partition of this number, where the device keeps none of its own (R628). -/
def State.span? (s : State) (p : Nat) : Option Span := if (tget s.parts p).isSome then .none else tget s.cas.spans p

/-- Direction and transfer length of an entry's data (Tables 9-3 and 9-5). -/
def dataOf (s : State) (e : List Byte) : Dir × Nat :=
  let op := eOp e
  let lbs := match tget s.parts (ePart e) with
    | some p => if p.lbs4k then 4096 else 512
    | Option.none => if (s.span? (ePart e)).any (·.lbs4k) then 4096 else 512
  if op == opRead then (.toHost, eLen e * lbs)
  else if op == opWrite then (.toDevice, eLen e * lbs)
  else if op == opStreamAppend then (.toDevice, eLen e)
  else if op == opStreamRead then (.toHost, eLen e)
  else if op == opRawRead then (.toHost, eLen e * (if fOpt e then 4128 else 4096))
  else if op == opIdentify then (.toHost, eLen e)
  else if op == opAttest then (.both, 128)
  else if op == opCreatePartition then (if bitOf (eAttr e) 2 && !bitOf (eAttr e) 0 then (.both, 72) else (.none, 0))
  else if op == opGetLog then (.toHost, eLen e)
  else if op == opLoadProfile || op == opLoadMicrocode || op == opCommitFirmware then (.toDevice, eLen e)
  else if op == opAttachMapStore then (.toDevice, eLen e * 16)
  else if op == opCascadeRoster then (if eAttr e % 4 == 0 then (.toHost, eLen e) else (.none, 0))
  else if op == opAdoptMedia then (.toDevice, 32)
  else (.none, 0)

/-- An entry's data pointers are those of a command with data. -/
def hasData (s : State) (e : List Byte) : Bool := (dataOf s e).1 != .none

/-! ## SGL (R214, R215) -/

/-- One SGL element: ADDR, LEN, EFLAGS (Table 7-5). -/
structure SglElem where
  addr : Nat
  len : Nat
  flags : Nat
  deriving DecidableEq, Repr

/-- The elements a run of bytes holds. -/
def sglElems : Nat → List Byte → List SglElem
  | 0, _ => []
  | n + 1, bs => ⟨fieldAt bs 0 8, fieldAt bs 8 4, fieldAt bs 12 4⟩ :: sglElems n (bs.drop 16)

/-- What fetching an SGL found. -/
inductive SglResult where
  | ok (segs : List Seg)
  | malformed
  | busError
  deriving DecidableEq, Repr

/-- Judge one segment's elements; `more` is the segment to go on at, if any (R215). -/
def sglSegment (dramOk toDev : Bool) : List SglElem → Option (List Seg × Option (Nat × Nat × Bool) × Bool)
  | [] => some ([], none, false)
  | e :: es =>
    let ty := e.flags % 4
    let last := bitOf e.flags 3
    let dram := bitOf e.flags 2
    if e.flags / 16 != 0 || ty == 3 || (dram && !dramOk) then none
    else if ty == 1 then
      if !es.isEmpty || last || e.len % 16 != 0 || e.len < 16 || 4096 < e.len || e.addr % 16 != 0 then none
      else some ([], some (e.addr, e.len, dram), false)
    else if (ty == 0 && e.len == 0) || (ty == 2 && toDev) then none
    else if last then (if es.isEmpty then some ([⟨dram, ty == 2, e.addr, e.len⟩], none, true) else none)
    else
      match sglSegment dramOk toDev es with
      | some (r, m, l) => some (⟨dram, ty == 2, e.addr, e.len⟩ :: r, m, l)
      | none => none

/-- Fetch the whole list, at most 1,024 elements (R215). The first segment holds the elements up to the first that
ends it: a LAST or a SEGMENT element, at most 256 of them. -/
def sglFetch (s : State) (b : Bus) (toDev : Bool) : Nat → Nat → Bool → Nat → Nat → List Seg → SglResult
  | 0, _, _, _, _, _ => .malformed
  | fuel + 1, addr, dram, bytes, seen, acc =>
    if addr % 16 != 0 then .malformed
    else
      match (if dram then dramReadN s b addr bytes else shReadN s b addr bytes) with
      | none => .busError
      | some bs =>
        let n := bytes / 16
        if 1024 < seen + n then .malformed
        else
          match sglSegment (decide (0 < s.gbl.dramGib.val)) toDev (sglElems n bs) with
          | none => .malformed
          | some (r, more, last) =>
            if last then .ok (acc ++ r)
            else
              match more with
              | some (a, l, d) => sglFetch s b toDev fuel a d l (seen + n) (acc ++ r)
              | none => .malformed

/-- Elements of the first segment: the device reads on until an element ends it (log 4). -/
def firstSegLen (s : State) (b : Bus) (addr : Nat) : Nat → Nat → Nat
  | 0, n => n
  | fuel + 1, n =>
    match shReadN s b (addr + 16 * n) 16 with
    | none => n + 1
    | some bs =>
      let f := fieldAt bs 12 4
      if bitOf f 3 || f % 4 == 1 then n + 1 else firstSegLen s b addr fuel (n + 1)

/-- The data pieces of an entry with data (R214, R215). The first segment is read whole before an element of it is judged, so a later
element that cannot be read ends the entry with SC_BUS_ERROR though an earlier one breaks R215 (DESIGN CHOICE, log 4). -/
def pointers (s : State) (b : Bus) (e : List Byte) (toDev : Bool) (len : Nat) : SglResult :=
  if !fSgl e then .ok [⟨false, false, eD0 e, len⟩]
  else
    match sglFetch s b toDev 1025 (eD1 e) false (16 * firstSegLen s b (eD1 e) 1024 0) 0 [] with
    | .ok segs => if (segs.map (·.len)).sum == len then .ok segs else .malformed
    | r => r

/-! ## Malformed entries (Table 8-3) -/

/-- First nonzero byte among those given, by offset. -/
def firstNonzero (e : List Byte) (offs : List Nat) : Option Nat := offs.find? (fun i => fieldAt e i 1 != 0)

/-- Fields that a command leaves unused and that must be 0: offset and size (Tables 9-3 and 9-5). -/
def zeroFields (op : Nat) : List (Nat × Nat) :=
  let ps := (2, 2); let lba := (8, 8); let len := (16, 4); let attr := (20, 4); let time := (40, 8)
  if op == opRead || op == opWrite || op == opWriteZeroes || op == opTrim then [attr, time]
  else if op == opFlush then [lba, len, time]
  else if op == opFence then [ps, lba, len, attr, time]
  else if op == opStreamOpen then [lba]
  else if op == opStreamAppend then [attr]
  else if op == opStreamMark then [lba, len]
  else if op == opStreamClose then [lba, len, attr]
  else if op == opStreamRead then [time]
  else if op == opRawRead then [attr, time]
  else if op == opStreamTransfer then [len, time]
  else if op == opIdentify then [lba, time]
  else if op == opAttest then [ps, lba, attr, time]
  else if op == opCreateQueue then []
  else if op == opDisableQueue then [lba, len, time]
  else if op == opDestroyQueue || op == opQueryQueue then [lba, len, attr, time]
  else if op == opCreatePartition then [time]
  else if op == opDeletePartition then [lba, len, attr, time]
  else if op == opSetHold then [len, time]
  else if op == opSetTime then [ps, lba, len]
  else if op == opGetLog then [time]
  else if op == opSetFeature then [len, time]
  else if op == opGetFeature then [lba, len, time]
  else if op == opLoadProfile then [ps, lba, time]
  else if op == opLoadMicrocode || op == opCommitFirmware then [ps, lba, attr, time]
  else if op == opStartCalibration then [ps, lba, len, time]
  else if op == opAttachMapStore then [ps, lba, attr, time]
  else if op == opDetachMapStore || op == opCascadeEnumerate then [ps, lba, len, attr, time]
  else if op == opCascadeRoster then [ps, time]
  else if op == opAdoptMedia then [ps, lba, attr, time]
  else if op == opSanitize then [lba, len, time]
  else if op == opSelfTest then [ps, lba, len, time]
  else []

/-- ATTR bits a command leaves reserved or does not list (Tables 9-3, 9-5, 9-6, 9-7). -/
def attrBad (e : List Byte) : Bool :=
  let op := eOp e
  let a := eAttr e
  if op == opFlush then a / 2 != 0
  else if op == opStreamOpen || op == opStreamRead then a / 65536 != 0 || (op == opStreamRead && a % 65536 == 0)
  else if op == opStreamTransfer then a / 2 ^ 21 != 0 || a % 65536 == 0
  else if op == opIdentify then a / 4 != 0 || a % 4 == 3
  else if op == opCreateQueue then a / 2 ^ 26 != 0
  else if op == opDisableQueue then a / 2 != 0
  else if op == opCreatePartition then bitsOf a 7 3 != 0 || (bitOf a 0 && bitsOf a 2 1 != 0)
  else if op == opSetHold then a / 2 ^ 17 != 0
  else if op == opGetLog then a / 256 != 0 || a % 256 == 0 || 0x0A < a % 256
  else if op == opSetFeature || op == opGetFeature then a / 65536 != 0 || a == 0 || 7 < a
  else if op == opLoadProfile then a / 2 != 0
  else if op == opStartCalibration then a / 8 != 0
  else if op == opCascadeRoster then 2 < a
  else if op == opSanitize then a / 4 != 0
  else if op == opSelfTest then 1 < a
  else false

/-- PART_STREAM reads as a handle, a queue number, or a partition number with reserved bits (R273). -/
def psBad (e : List Byte) : Bool :=
  let op := eOp e
  let ps := ePs e
  if op == opStreamAppend || op == opStreamMark || op == opStreamClose then ps / 1024 != 0
  else if op == opCreateQueue || op == opDisableQueue || op == opDestroyQueue || op == opQueryQueue then false
  else if op == opFlush then ps / 32 != 0 || (bitOf (eAttr e) 0 && ps != 0)
  else if op == opIdentify then ps / 32 != 0 || (eAttr e % 4 != 1 && ps != 0)
  else if op == opSanitize then ps / 32 != 0 || (bitOf (eAttr e) 0 && ps != 0)
  else if op == opGetLog then ps / 32 != 0 || (eAttr e != 3 && eAttr e != 4 && ps != 0)
  else if op == opSetFeature || op == opGetFeature then ps / 32 != 0 || (5 ≤ eAttr e % 65536 && eAttr e % 65536 ≤ 7 && ps != 0)
  else ps / 32 != 0

/-- LBA or LENGTH holds an encoding its command does not list (R273, R293, R317, Tables 9-3 to 9-6). -/
def fieldBad (e : List Byte) : Option Nat :=
  let op := eOp e
  if op == opRawRead && eLba e / 2 ^ 49 != 0 then some 8
  else if op == opStreamTransfer && eLba e / 4096 != 0 then some 8
  else if op == opCascadeRoster && eLba e / 4096 != 0 then some 8
  else if op == opCascadeRoster && eAttr e != 0 && eLen e != 0 then some 16
  else if op == opSetHold && eLba e == 0 then some 8
  else if op == opSetTime && eTime e == 0 then some 40
  else if op == opAttest && eLen e != 128 then some 16
  else if op == opAdoptMedia && eLen e != 32 then some 16
  else if op == opCreateQueue && bitOf (eLen e) 31 then some 16
  else if op == opCreatePartition && eLen e != (if bitOf (eAttr e) 2 then 72 else 0) then some 16
  else none

/-- The conditions of Table 8-3 that the 64 bytes themselves decide; the entry byte offset at fault. -/
def malformedAt (s : State) (admin : Bool) (e : List Byte) : Option Nat :=
  let op := eOp e
  let fl := eFlags e
  if eOwn e != 0x80 then some 63
  else
    match firstNonzero e [6, 7, 56, 57, 58, 59, 62] with
    | some i => some i
    | none =>
      if fieldAt e 5 1 / 16 != 0 then some 5
      else if !(if admin then adminOps.contains op else ioOps.contains op) then some 0
      else if fl / 16 != 0 || (fMedia e && !ackMediaOps.contains op) || (fOpt e && !optOps.contains op)
          || (fFwd e && admin) || (fSgl e && !hasData s e) then some 1
      else if !fFwd e && eMember e != 0 then some 4
      else
        match (zeroFields op).find? (fun f => fieldAt e f.1 f.2 != 0) with
        | some f => some f.1
        | none =>
          if psBad e then some 2
          else if attrBad e then some 20
          else
            match fieldBad e with
            | some i => some i
            | none =>
              if hasData s e then
                (if fSgl e then (if eD0 e != 0 then some 24 else none) else (if eD1 e != 0 then some 32 else none))
              else if eD0 e != 0 then some 24
              else if eD1 e != 0 then some 32
              else none

end Sys2Proof.Machine
end

