-- ==== Sys2Proof/Machine/Seal.lean ====
section
/-! DEFINITION. The chain of a stream: record layouts (Tables 11-2, 11-4, 11-6, 11-7), the running Ashlar (R353), the
Capstones that fall due (R357) and the order in which pending signatures complete them (R360). -/

namespace Sys2Proof.Machine

/-- Key of stream `n` of partition `p`. -/
def sKey (p n : Nat) : Nat := p * 65536 + n
def sPart (k : Nat) : Nat := k / 65536
def sNum (k : Nat) : Nat := k % 65536

/-- UTC_EST of a record that carries estimate `e` at a tick (R362). -/
def utcAt (e : Option Utc) (tick : Nat) : Nat :=
  match e with
  | none => 0
  | some u => u.value + (tick - u.tick)

/-- UTC_UNCERT (R362): stated uncertainty plus the SYSCLK tolerance, saturating; 0xFFFF_FFFF with no estimate. -/
def uncertAt (e : Option Utc) (tick : Nat) : Nat :=
  match e with
  | none => 0xFFFFFFFF
  | some u => satTo 0xFFFFFFFE (u.uncert + ((tick - u.tick) * 50 + 999999) / 1000000)

/-! RFLAGS bits (Tables 11-3 and 11-5). -/
def afReplayed : Nat := 1
def afMark : Nat := 2
def afOpen : Nat := 4
def afClose : Nat := 8
def afTimed : Nat := 16
def afFooting : Nat := 32
def afAdopted : Nat := 64
def afHalt : Nat := 128
def afEol : Nat := 256
def afFailed : Nat := 512
def cfClose : Nat := 1
def cfMark : Nat := 2
def cfHalt : Nat := 4
def cfFracture : Nat := 8
def cfAdopted : Nat := 16
def cfCadence : Nat := 32
def cfReplayed : Nat := 64
def cfEol : Nat := 128
def cfFailed : Nat := 256

/-- An Ashlar record (Table 11-2). -/
def ashlarBytes (key flags seq first len mark boot tick utc host : Nat) (data prev : BitVec 256) : List Byte :=
  [0x01, 0x01] ++ leBytes 2 flags ++ leBytes 2 (sNum key) ++ leBytes 1 (sPart key) ++ [0] ++ leBytes 8 seq ++
  leBytes 8 first ++ leBytes 4 len ++ leBytes 4 mark ++ leBytes 8 boot ++ leBytes 8 tick ++ leBytes 8 utc ++
  leBytes 8 host ++ digestBytes data ++ digestBytes prev

/-- Capstone bytes 0 to 191 (Table 11-4). -/
def capstoneHead (key flags seq firstSeq streamEnd boot tick utc uncert ashlars : Nat) (prevCap prev : BitVec 256)
    (serial keyId : List Byte) (host : Nat) : List Byte :=
  [0x02, 0x01] ++ leBytes 2 flags ++ leBytes 2 (sNum key) ++ leBytes 1 (sPart key) ++ [0] ++ leBytes 8 seq ++
  leBytes 8 firstSeq ++ leBytes 8 streamEnd ++ leBytes 8 boot ++ leBytes 8 tick ++ leBytes 8 utc ++ leBytes 4 uncert ++
  leBytes 4 ashlars ++ digestBytes prevCap ++ digestBytes prev ++ serial ++ keyId ++ leBytes 8 host ++ leBytes 8 0

/-- A Fracture record (Table 11-6). -/
def fractureBytes (key flags seq firstLost lost boot tick utc lostBoot skipped ackedEnd : Nat) (prev : BitVec 256) :
    List Byte :=
  [0x03, 0x01] ++ leBytes 2 flags ++ leBytes 2 (sNum key) ++ leBytes 1 (sPart key) ++ [0] ++ leBytes 8 seq ++
  leBytes 8 firstLost ++ leBytes 8 lost ++ leBytes 8 boot ++ leBytes 8 tick ++ leBytes 8 utc ++ leBytes 8 lostBoot ++
  leBytes 8 skipped ++ leBytes 8 ackedEnd ++ leBytes 16 0 ++ digestBytes prev

/-- A provenance record (Table 11-7). -/
def provenanceBytes (key firstSeq lastSeq : Nat) (serial : List Byte) (srcPart srcStream boot tick : Nat)
    (keyId : List Byte) : List Byte :=
  [0x04, 0x01, 0, 0] ++ leBytes 2 (sNum key) ++ leBytes 1 (sPart key) ++ [0] ++ leBytes 8 firstSeq ++
  leBytes 8 lastSeq ++ serial ++ leBytes 1 srcPart ++ [0] ++ leBytes 2 srcStream ++ leBytes 4 0 ++
  leBytes 8 boot ++ leBytes 8 tick ++ keyId ++ leBytes 32 0

/-- The newest chained record: provenance records are not part of the chain (R366). -/
def Strm.newest (t : Strm) : Option Rec := (t.recs.filter (fun r => r.kind != 4)).getLast?

/-- PREV_DIGEST for the next record: the record digest of its predecessor, or zero (R355). -/
def Strm.prevDigest (t : Strm) : BitVec 256 :=
  match t.newest with
  | none => 0
  | some r => sha256 r.bytes

/-- The newest Capstone of the chain. -/
def Strm.lastCap (t : Strm) : Option Rec := (t.recs.filter (fun r => r.kind == 2)).getLast?

/-- Sequence number of the newest Ashlar, the running one included; 0 if there is none (Tables 9-3a, 9-9a, R353). -/
def Strm.newestAshlar (t : Strm) : Nat :=
  match t.running with
  | some r => r.seq
  | none =>
    match (t.due.reverse.findSome? (fun d => match d with | .ashlar _ q .. => some q | _ => none)) with
    | some q => q
    | none => (((t.recs.filter (fun r => r.kind == 1)).getLast?).map (·.seq)).getD 0

/-- The newest record, pending ones included, is a Capstone (R256, R357). -/
def Strm.endsInCapstone (t : Strm) : Bool :=
  match t.due.getLast? with
  | some (.capstone ..) => true
  | some _ => false
  | none => (t.newest.map (·.kind)) == some 2

/-- Offset after the last byte the written records cover, gaps included (Table 11-4). -/
def Strm.coveredEnd (t : Strm) : Nat :=
  match (t.recs.filter (fun r => r.kind == 1 || r.kind == 3)).getLast? with
  | none => 0
  | some r => if r.kind == 1 then fieldAt r.bytes 16 8 + fieldAt r.bytes 24 4
              else fieldAt r.bytes 16 8 + fieldAt r.bytes 24 8

/-- Complete the first due record of a stream (R355, R358, R361). -/
def Strm.settle (s : State) (key : Nat) (t : Strm) (d : DueRec) : Rec :=
  match d with
  | .ashlar flags seq first len mark boot tick utc host =>
    ⟨1, seq, ashlarBytes key flags seq first len mark boot tick utc host
      (sha256 (memReadN t.data first len)) t.prevDigest, false⟩
  | .fracture flags seq firstLost lost boot tick utc lostBoot skipped ackedEnd =>
    ⟨3, seq, fractureBytes key flags seq firstLost lost boot tick utc lostBoot skipped ackedEnd t.prevDigest, false⟩
  | .capstone flags seq host =>
    let tick := s.gbl.tick.toNat
    let firstSeq :=
      if bitOf flags 4 then t.adoptFrom.getD 1
      else match t.lastCap with
        | some c => c.seq + 1
        | none => 1
    let ash := (t.recs.filter (fun r => r.kind == 1 && firstSeq ≤ r.seq)).length
    let head := capstoneHead key flags seq firstSeq t.coveredEnd s.bootNow.toNat tick (utcAt s.streams.utc tick)
      (uncertAt s.streams.utc tick) ash
      (match t.lastCap with | some c => sha256 c.bytes | none => 0) t.prevDigest s.serial s.keyId host
    let sig := ecdsaSign (Config.deviceScalar s.keyArea) (sha256 head)
    ⟨2, seq, head ++ beBytes 64 sig.toNat, false⟩

/-- Complete due records up to the first Capstone, which waits for the signer (R360). -/
def Strm.flushDue (s : State) (key : Nat) (t : Strm) : List DueRec → Strm
  | [] => { t with due := [] }
  | .capstone f q h :: r => { t with due := .capstone f q h :: r }
  | d :: r => Strm.flushDue s key { t with recs := t.recs ++ [t.settle s key d], due := r } r

/-- What the STREAMS page shows of a stream: nothing unless it is open, and before RECOVERED only a stream of this boot (Table 9-9a, R424). -/
def State.streamLine (s : State) (t : Strm) : Option (Option Nat × Nat × Nat × Nat) :=
  if t.cond == .opened && (s.gbl.recovered || t.thisBoot) then some (t.handle, t.endOff, t.commEnd, t.newestAshlar) else none

/-- Storing `t` under `key` advances the STREAMS page of its partition where it changes an entry of it (R290). -/
def noteStream (s : State) (key : Nat) (t : Strm) : Log :=
  if (tget s.streams.tbl key).bind s.streamLine == s.streamLine t then s.log else bumpGen s.log (96 + sPart key)

/-- Store a stream. -/
def setStream (s : State) (key : Nat) (t : Strm) : State :=
  { s with streams := { s.streams with tbl := tput s.streams.tbl key t }, log := noteStream s key t }

/-- The stream under a key. -/
def State.strm? (s : State) (key : Nat) : Option Strm := tget s.streams.tbl key

/-- Add records to a stream's chain in order; a Capstone among them queues for the signer (R360). The SEAL domain wakes for their digests
and signatures (R147). -/
def addDue (s : State) (key : Nat) (t : Strm) (ds : List DueRec) : State :=
  let caps := ds.filter (fun d => match d with | .capstone .. => true | _ => false)
  let s1 := wakeDomain { s with streams := { s.streams with sign := s.streams.sign ++ caps.map (fun _ => key) } } 4
  setStream s1 key (({ t with due := t.due ++ ds }).flushDue s (key := key) (t.due ++ ds))

/-- The features a stream's partition gives its spans (Table 9-10). -/
def State.featOf (s : State) (key : Nat) : PartFeat :=
  match tget s.parts (sPart key) with
  | some p => p.feat
  | none => ⟨1048576, 1000, 60, 0⟩

/-- Appends go to the Footing: full service has not begun (R426). -/
def State.inFootingService (s : State) : Bool := !s.gbl.fullService

/-- A Capstone takes its number: the count to the next one begins with the feature's present value (R357, R380). -/
def Strm.newCount (t : Strm) (seq every : Nat) : Strm :=
  { t with cadence := 0, capEvery := every, capHist := t.capHist ++ [(seq, every)], maxSeq := max t.maxSeq seq }

/-- The Ashlar that closes, and the Capstone that follows it when one is due (R353, R357). `cap` holds the Capstone
flags of the event, 0 when the event asks for none; HOST_TIME is 0 in a Capstone that only the cadence caused (Table 11-4). -/
def closeWith (s : State) (key : Nat) (t : Strm) (a : DueRec) (cap host : Nat) : State :=
  let cad := t.cadence + 1
  let flags := cap + (if t.capEvery ≤ cad then cfCadence else 0)
  let t1 := { t with running := none }
  if flags == 0 then addDue s key { t1 with cadence := cad } [a]
  else
    addDue s key (t1.newCount (t.maxSeq + 1) (s.featOf key).capEvery)
      [a, .capstone flags (t.maxSeq + 1) (if cap == 0 then 0 else host)]

/-- End the running Ashlar with the given flags (R353). -/
def endRunning (s : State) (key : Nat) (t : Strm) (r : Running) (flags mark cap host : Nat) (useHost : Bool) : State :=
  let tick := s.gbl.tick.toNat
  closeWith s key t
    (.ashlar (flags + (if r.footing then afFooting else 0)) r.seq r.first r.len mark s.bootNow.toNat tick
      (utcAt r.est tick) (if useHost then host else r.hostTime.toNat)) cap (if useHost then host else 0)

/-- End the running Ashlar, or write one of LENGTH 0 where none runs: marks, closes and adoption (R353). -/
def endOrEmpty (s : State) (key : Nat) (t : Strm) (flags mark cap host : Nat) : State :=
  match t.running with
  | some r => endRunning s key t r flags mark cap host true
  | none =>
    let tick := s.gbl.tick.toNat
    closeWith s key { t with maxSeq := t.maxSeq + 1 }
      (.ashlar flags (t.maxSeq + 1) t.endOff 0 mark s.bootNow.toNat tick (utcAt s.streams.utc tick) host) cap host

/-- Seal every open stream on entry into HALTED, at end of life or on entry into FAILED (R256, R357, R473, R694). Their Capstones fall due
in the ascending order of partition and number (R360; DESIGN CHOICE, log 25). A stream that awaits its replay is sealed once replayed. -/
def sealOpen (s : State) (aflag cflag : Nat) : State :=
  (s.streams.tbl.map (·.1)).foldl (fun s k =>
    match s.strm? k with
    | some t =>
      if t.cond ≠ .opened || t.replay then s
      else
        match t.running with
        | some r => endRunning s k t r aflag 0 cflag 0 false
        | none =>
          if t.endsInCapstone || (t.newest.isNone && t.due.isEmpty) then s
          else addDue s k (t.newCount (t.maxSeq + 1) (s.featOf k).capEvery) [.capstone cflag (t.maxSeq + 1) 0]
    | none => s) s

/-- Open an Ashlar at the stream end (R353, R356). -/
def Strm.openRun (s : State) (key : Nat) (t : Strm) : Strm :=
  match t.running with
  | some _ => t
  | none =>
    { t with running := some ⟨t.maxSeq + 1, t.endOff, 0, s.gbl.tick, s.streams.utc, 0, false,
                (s.featOf key).spanBytes, (s.featOf key).spanMs⟩
             maxSeq := t.maxSeq + 1 }

/-- Seal appended bytes, splitting at span boundaries (R353); the sequence number of the Ashlar covering the last
byte is the last one opened. -/
def appendSpans (s : State) (key host : Nat) (foot : Bool) : Nat → Nat → State
  | 0, _ => s
  | fuel + 1, n =>
    if n == 0 then s
    else
      match s.strm? key with
      | none => s
      | some t0 =>
        let t := t0.openRun s key
        match t.running with
        | none => s
        | some r =>
          let k := min n (r.spanBytes - r.len)
          let r' := { r with len := r.len + k, hostTime := BitVec.ofNat 64 host, footing := r.footing || foot }
          let t' := { t with running := some r', endOff := t.endOff + k }
          let s1 := if r.spanBytes ≤ r'.len then endRunning (setStream s key t') key t' r' 0 0 0 0 false
                    else setStream s key t'
          appendSpans s1 key host foot fuel (n - k)

/-- Store and seal visible append data at the stream end (R33, R51). -/
def appendData (s : State) (key host : Nat) (foot : Bool) (bytes : List Byte) : State :=
  match s.strm? key with
  | none => s
  | some t =>
    appendSpans (setStream s key { t with data := memWriteL t.data t.endOff bytes, inFooting := t.inFooting || foot
                                          times := (t.endOff, host) :: t.times })
      key host foot (bytes.length + 1) bytes.length

/-- Sequence number of the Ashlar covering the stream's last byte (Table 9-3). -/
def Strm.coveringSeq (t : Strm) : Nat := t.newestAshlar

/-- Streams open on the device (SEAL_STATUS.OPEN_STREAMS). -/
def State.openStreams (s : State) : Nat := (s.streams.tbl.filter (fun p => p.2.cond == .opened)).length

/-- The stream that holds a handle. -/
def State.byHandle (s : State) (h : Nat) : Option (Nat × Strm) :=
  s.streams.tbl.find? (fun p => p.2.handle == some h && p.2.cond == .opened)

end Sys2Proof.Machine
end

