-- ==== Sys2Proof/Machine/Geom.lean ====
section
/-! DEFINITION. Die profiles (Table 15-3), the geometry of the media (R453 to R461, R472) and the durability horizon
(R381 to R389). -/

namespace Sys2Proof.Machine

/-! ## Die profiles (R503, R509, Table 15-3) -/

def pfId (p : List Byte) : Nat := fieldAt p 8 4
def pfRevision (p : List Byte) : Nat := fieldAt p 12 4
def pfMatchId (p : List Byte) : Nat := fieldAt p 16 8
def pfMatchMask (p : List Byte) : Nat := fieldAt p 24 8
def pfInterface (p : List Byte) : Nat := fieldAt p 32 1
def pfMode (p : List Byte) : Nat := fieldAt p 33 1
def pfVccq (p : List Byte) : Nat := fieldAt p 34 1
def pfSdr (p : List Byte) : Nat := fieldAt p 35 1
def pfRate (p : List Byte) : Nat := fieldAt p 36 2
def pfBits (p : List Byte) : Nat := fieldAt p 38 1
def pfPlanes (p : List Byte) : Nat := fieldAt p 39 1
def pfUserPage (p : List Byte) : Nat := fieldAt p 40 4
def pfSpareBytes (p : List Byte) : Nat := fieldAt p 44 4
def pfPages (p : List Byte) : Nat := fieldAt p 48 2
def pfLuns (p : List Byte) : Nat := fieldAt p 50 1
def pfRowBytes (p : List Byte) : Nat := fieldAt p 51 1
def pfBlocks (p : List Byte) : Nat := fieldAt p 52 4
def pfPageBits (p : List Byte) : Nat := fieldAt p 56 1
def pfPlaneBits (p : List Byte) : Nat := fieldAt p 57 1
def pfBlockBits (p : List Byte) : Nat := fieldAt p 58 1
def pfCodeRate (p : List Byte) : Nat := fieldAt p 60 2
def pfTR (p : List Byte) : Nat := fieldAt p 62 2
def pfTProg (p : List Byte) : Nat := fieldAt p 64 2
def pfTBers (p : List Byte) : Nat := fieldAt p 66 2
def pfTRSlc (p : List Byte) : Nat := fieldAt p 68 2
def pfTProgSlc (p : List Byte) : Nat := fieldAt p 70 2
def pfTSus (p : List Byte) : Nat := fieldAt p 72 2
def pfSuspendMax (p : List Byte) : Nat := fieldAt p 74 1
def pfFeatures (p : List Byte) : Nat := fieldAt p 75 1
def pfPgmEnergy (p : List Byte) : Nat := fieldAt p 76 4
def pfErsEnergy (p : List Byte) : Nat := fieldAt p 80 4
def pfXferEnergy (p : List Byte) : Nat := fieldAt p 84 4
def pfEndurance (p : List Byte) : Nat := fieldAt p 88 4
def pfReadDisturb (p : List Byte) : Nat := fieldAt p 92 4
def pfTempRated (p : List Byte) : Nat := fieldAt p 112 1
def pfRetrySteps (p : List Byte) : Nat := fieldAt p 113 1
def pfSoftDelta (p : List Byte) : Nat := fieldAt p 115 1
def pfRandSeed (p : List Byte) : Nat := fieldAt p 116 4
/-- Offsets P1 to P4 of an entry of the retry table, from 1 on (Table 15-5). -/
def pfRetry (p : List Byte) (i : Nat) : List Int :=
  (List.range 4).map (fun k => signed8 (fieldAt p (240 + 8 * i + k) 1))

/-- N of R503: bytes of a codeword. -/
def codewordBytes (rate : Nat) : Nat := ((4128 * 10000 + rate - 1) / rate + 7) / 8 * 8

/-- User bytes of one multi-plane page, s_unit of Table 12-1. -/
def pfUnit (p : List Byte) : Nat := pfPlanes p * pfUserPage p

/-- B_blk (chapter 14). -/
def pfBblk (p : List Byte) : Nat := pfPages p * pfUnit p

/-- A rate of Table 15-1 for a mode and VCCQ (0 1.2 V, 1 1.8 V). -/
def rateOk (mode vccq rate : Nat) : Bool :=
  if mode == 0 then rate == 0
  else if mode == 1 then vccq == 1 && rate == 400
  else if mode == 2 then vccq == 0 && [400, 600, 800, 1200, 1600].contains rate
  else if mode == 3 then vccq == 0 && [1600, 2400].contains rate
  else if vccq == 1 then [400, 800].contains rate
  else [400, 800, 1200, 1600].contains rate

/-- The checks of R509. -/
def profileOk (p : List Byte) : Bool :=
  let r := pfCodeRate p
  let c := pfUserPage p / 4096
  let lunBits := if pfLuns p ≤ 1 then 0 else if pfLuns p == 2 then 1 else 2
  p.length == 512 && fieldAt p 0 4 == 0x4C505A51 && fieldAt p 4 2 == 1 && fieldAt p 6 2 == 512 && pfId p != 0 &&
  pfInterface p ≤ 1 && pfMode p ≤ 4 && (pfInterface p == 1) == (pfMode p == 4) && pfVccq p ≤ 1 && pfSdr p ≤ 5 &&
  rateOk (pfMode p) (pfVccq p) (pfRate p) && 1 ≤ pfBits p && pfBits p ≤ 4 && [1, 2, 4, 8].contains (pfPlanes p) &&
  1 ≤ c && pfUserPage p % 4096 == 0 && pfUserPage p ≤ 32768 && 1 ≤ pfPages p && pfPages p % pfBits p == 0 &&
  1 ≤ pfLuns p && pfLuns p ≤ 4 && (pfRowBytes p == 3 || pfRowBytes p == 4) &&
  1 ≤ pfBlocks p && pfBlocks p ≤ 1048576 &&
  8800 ≤ r && r ≤ 9300 && c * codewordBytes r ≤ pfUserPage p + pfSpareBytes p && c * pfPlanes p ≤ 16 &&
  (bitOf (pfFeatures p) 4 || !(pfMode p == 2 || pfMode p == 3 || (pfMode p == 4 && 800 < pfRate p))) &&
  pfPages p ≤ 2 ^ pfPageBits p && pfPlanes p ≤ 2 ^ pfPlaneBits p && pfBlocks p ≤ 2 ^ pfBlockBits p &&
  pfPageBits p + pfPlaneBits p + pfBlockBits p + lunBits ≤ 8 * pfRowBytes p &&
  85 ≤ pfTempRated p && pfTempRated p ≤ 125 && pfRetrySteps p ≤ 32 && pfFeatures p / 64 == 0 &&
  fieldAt p 59 1 == 0 && fieldAt p 126 2 == 0 && (bytesAt p 128 120).all (· == 0) && fieldAt p 504 4 == 0 &&
  (List.range 32).all (fun i => fieldAt p (248 + 8 * i + 4) 4 == 0)

/-- CHECK of a profile (Table 15-3). -/
def profileCrcOk (p : List Byte) : Bool := fieldAt p 508 4 == (crc32c (bytesAt p 0 508)).toNat

/-! ## LUNs and blocks -/

def lunKey (l : LunId) : Nat := l.ch.val * 32 + l.target.val * 4 + l.lun.val
def blkKey (lun block : Nat) : Nat := lun * 1048576 + block
def blkLun (k : Nat) : Nat := k / 1048576

def State.nLun (s : State) : Nat := s.liveLuns.length

/-- The bound profile of a LUN's channel. -/
def State.profOf (s : State) (lun : Nat) : List Byte := (tget s.media.bound (keyCh lun)).getD []

/-- Bound profiles of the channels that hold a responding LUN. -/
def State.profs (s : State) : List (List Byte) :=
  (s.media.bound.filter (fun p => s.media.luns.any (fun l => keyCh l.1 == p.1))).map (·.2)

def maxOf (l : List Nat) : Nat := l.foldl max 0
def minOf : List Nat → Nat
  | [] => 0
  | a :: r => r.foldl min a

/-- B_blk, the smallest among populated channels (R472). -/
def State.bblk (s : State) : Nat := minOf (s.profs.map pfBblk)

/-- Course width W (R454, R459). -/
def State.width (s : State) : Nat :=
  let n := s.media.luns.length
  let c := fieldAt s.aon.setRec 42 1
  let w := if 4 ≤ c && c ≤ 32 then min c n else max 4 (min 16 (n / 4))
  if s.nLun < w then max 4 s.nLun else w

/-- N_oc (R455). -/
def State.nOpen (s : State) : Nat := 64 / s.width

/-- Q_LOW and Q_FLOOR (R461). -/
def State.qLow (s : State) : Nat := 16 * s.width
def State.qFloor (s : State) : Nat := 4 * s.width

/-- Erased blocks of the Footing on dies in service (R428). -/
def State.footBlocks (s : State) : List Nat :=
  (s.media.blocks.filter (fun b => b.2.use == .footing && s.liveLuns.contains (blkLun b.1) &&
    !s.media.rubbleLuns.contains (blkLun b.1))).map (·.1)

/-- User bytes of a block in SLC mode, the smallest among populated channels (R426). -/
def State.slcBlk (s : State) : Nat := s.bblk / max 1 (maxOf (s.profs.map pfBits))

/-- Ceiling division. -/
def ceilDiv (a b : Nat) : Nat := if b == 0 then 0 else (a + b - 1) / b

/-- Blocks a Footing of a size takes, and the size some blocks give, rounded down to MiB, Mortar pages apart (R426, R428, R472). -/
def State.footBlocksFor (s : State) (mib : Nat) : Nat := ceilDiv (mib * 1048576 * s.width) (s.slcBlk * (s.width - 1))
def State.footMibOf (s : State) (blocks : Nat) : Nat := blocks * s.slcBlk * (s.width - 1) / s.width / 1048576

/-- The Footing's size in force: FOOTING_MIB at this RESET_N, at most F_max (R434, R472). -/
def State.footTarget (s : State) : Nat := min s.sys.footInForce s.sys.fMax

/-- Blocks listed with a use other than the Quarry. -/
def State.usedBlocks (s : State) : Nat :=
  (s.media.blocks.filter (fun b => b.2.use != .quarry && s.liveLuns.contains (blkLun b.1) &&
    !s.media.rubbleLuns.contains (blkLun b.1))).length

/-- Q: the Quarry in blocks, outside the Footing and the system structures (R461, R472). -/
def State.quarry (s : State) : Nat :=
  ((s.liveLuns.filter (fun l => !s.media.rubbleLuns.contains l)).map (fun l => pfBlocks (s.profOf l))).sum -
    s.sys.ySys - s.usedBlocks

/-- Blocks of one die on the Rubble list (R458, R469). -/
def State.rubbleOf (s : State) (l : Nat) : Nat :=
  if s.media.rubbleLuns.contains l then pfBlocks (s.profOf l)
  else (s.media.blocks.filter (fun b => b.2.use == .rubble && blkLun b.1 == l)).length

/-- Blocks on the Rubble list. -/
def State.rubble (s : State) : Nat :=
  (s.media.blocks.filter (fun b => b.2.use == .rubble && !s.media.rubbleLuns.contains (blkLun b.1))).length +
  (s.media.rubbleLuns.map (fun l => pfBlocks (s.profOf l))).sum

/-- Units allocated to partitions. -/
def State.allocUnits (s : State) : Nat := (s.parts.map (fun p => p.2.capUnits)).sum

/-- Blocks needed to hold the allocated capacity at W (R472). -/
def State.neededBlocks (s : State) : Nat :=
  let per := s.bblk * (s.width - 1)
  if per == 0 then 0 else (s.allocUnits * 4096 * s.width + per - 1) / per

/-- The spare left S of R472. -/
def State.spareLeft (s : State) : Nat := s.sys.good - s.rubble - s.sys.yBlocks - s.neededBlocks

/-- SPARE_PCT, with its treatment outside 2 to 50 (R472). -/
def State.sparePct (s : State) : Nat :=
  let v := fieldAt s.aon.setRec 1 1
  if 2 ≤ v && v ≤ 50 then v else 7

/-- ⌊1,000 × S ÷ P_s⌋, saturating at 0xFFFF. -/
def State.sparePermille (s : State) : Nat := if s.sys.spare == 0 then 0 else satTo 0xFFFF (1000 * s.spareLeft / s.sys.spare)

/-- Write-stage capacity: 8 MiB and the DRAM extension (R332, Table 10-2). STAGE_EXT_MIB outside 0 to 1,024 acts as 64. -/
def State.stageBytes (s : State) : Nat :=
  let v := fieldAt s.aon.setRec 40 2
  8388608 + (if s.gbl.dramGib.val == 0 then 0 else (if v ≤ 1024 then v else 64) * 1048576)

/-- A piece of a visible write is committed: the page that holds it is, and where it is stream data every earlier byte of the stream
is too, so that replay can rebuild the Ashlars that cover it (R37, R43). -/
def pieceDone (s : State) (x : Piece × Bool) : Bool :=
  x.2 && match x.1 with
    | .bytes k o n => ((s.strm? k).map (fun t => decide (o + n ≤ t.commEnd))).getD true
    | _ => true

/-- Bytes a piece counts in its write's need (R332). -/
def pieceNeed : Piece → Nat
  | .unit _ mapped _ => if mapped then 4096 else 0
  | .bytes _ _ n => n
  | .record .. => 0

/-- What is left of a write's reservation: it is released as the data it holds is committed (R141, R332). -/
def leftOf (s : State) (w : VWrite) : Nat :=
  min w.need ((((w.pieces.filter (fun x => !pieceDone s x)).map (fun x => pieceNeed x.1)).sum + 4095) / 4096 * 4096)

/-- Stage bytes reserved: consumed writes and the uncommitted part of visible writes (R332). -/
def State.stageUsed (s : State) : Nat :=
  (s.queues.jobs.map (fun j => match j.phase with | .visible _ => 0 | _ => j.need)).sum + (s.stage.writes.map (leftOf s)).sum

/-! ## The horizon (R382) -/

/-- Settings fields of Table 12-3. -/
def State.vholdRatio (s : State) : Nat := fieldAt s.aon.setRec 8 4
def State.vholdMin (s : State) : Nat := fieldAt s.aon.setRec 12 2
def State.vholdTrip (s : State) : Nat := fieldAt s.aon.setRec 14 2
def State.boardMw (s : State) : Nat := fieldAt s.aon.setRec 16 2
def State.convEff (s : State) : Nat := fieldAt s.aon.setRec 18 1
def State.holdMargin (s : State) : Nat := fieldAt s.aon.setRec 19 1

/-- Every field of Table 12-3 lies in its range (R383). -/
def State.energyFieldsOk (s : State) : Bool :=
  1000 ≤ s.vholdRatio && s.vholdRatio ≤ 100000 && 500 ≤ s.vholdMin && s.vholdMin ≤ 60000 &&
  50 ≤ s.convEff && s.convEff ≤ 100 && 5 ≤ s.holdMargin && s.holdMargin ≤ 50 && s.boardMw ≤ 20000 &&
  (s.vholdTrip == 0 || s.vholdMin < s.vholdTrip)

/-- V_h in nV-free form: V_h = code × 1.2 V × ratio ÷ 4,096,000; this is the numerator code × 12 × ratio, to be divided by
40,960,000 for volts. 0 with an over-range sample (R381). -/
def State.vhNum (s : State) : Nat :=
  if s.energy.samples.any (· == 0xFFF) then 0 else minOf s.energy.samples * 12 * s.vholdRatio

/-- V_h in mV, rounded down. -/
def State.vhMv (s : State) : Nat := s.vhNum * 1000 / 40960000

/-- LUNs that may program at once on a channel with `n` responding LUNs in a thermal step (Table 4-6, R112). -/
def progLimit (step n : Nat) : Nat :=
  if 2 ≤ step then min n 1 else if step == 1 then min n (max 1 (n / 2)) else n

/-- Responding LUNs of a channel. -/
def State.chLuns (s : State) (c : Nat) : Nat := (s.liveLuns.filter (fun l => keyCh l == c)).length

/-- n_l of Table 12-1. -/
def State.nProg (s : State) : Nat :=
  ((List.range 16).map (fun c => min 4 (progLimit s.gbl.thermStep.val (s.chLuns c)))).sum

/-- P_dev of Table 12-2 in µW, Tj in 0.25 °C: 2.4 W, and 15 mW for each °C above 85. -/
def pDev (tjq : Int) : Nat := if tjq ≤ 340 then 2400000 else 2400000 + ((tjq - 340) * 3750).toNat

/-- Erases in progress on dies whose profile does not support erase suspend, in nJ (Table 12-1). -/
def State.inflightErase (s : State) : Nat :=
  (s.media.luns.map (fun l => match l.2.op with
    | .erase _ => if bitOf (pfFeatures (s.profOf l.1)) 1 then 0 else pfErsEnergy (s.profOf l.1)
    | _ => 0)).sum

/-- The reference a program gives to a piece of a write. -/
def pieceRef (w : VWrite) : Piece → Ref
  | .unit u _ _ => .unit w.part u w.order
  | .bytes st off len => .bytes st off len
  | .record st seq => .record st seq

/-- Data acknowledged on receipt and not committed, in visibility order (R386). -/
def State.promised (s : State) : List Ref :=
  (s.stage.writes.filter (fun w => w.acked && !w.onMedia)).flatMap
    (fun w => (w.pieces.filter (fun p => !p.2)).map (fun p => pieceRef w p.1))

/-- Pages of a wordline pairing group of a member. -/
def Course.groupAt (c : Course) (m : Nat) : Nat := max 1 ((c.groups[m]?).getD 1)

/-- The pages of a Course's member whose programs are in flight: row and content. -/
def State.inFlight (s : State) (id m : Nat) : List (Nat × List Ref) :=
  s.media.luns.filterMap (fun l => match l.2.op with
    | .program i x r _ refs => if i == id && x == m then some (r, refs) else none
    | _ => none)

/-- b_fill: filler bytes that open wordline pairing groups holding acknowledged data still need, programs in flight among their pages
(R39, R382). -/
def State.bFill (s : State) : Nat :=
  let pr := s.promised
  (s.media.courses.map (fun c => ((List.range c.2.blocks.length).map (fun m =>
    let mine := (c.2.pages.filter (fun g => g.1 == m)).map (·.2) ++ s.inFlight c.1 m
    let n := mine.foldl (fun a g => max a (g.1 + 1)) 0
    let k := n % c.2.groupAt m
    if k ≠ 0 && mine.any (fun g => decide (n - k ≤ g.1) && g.2.any pr.contains)
    then (c.2.groupAt m - k) * pfUnit (s.profOf (blkLun ((c.2.blocks[m]?).getD 0))) else 0)).sum)).sum

/-- H of R382, in exact rational arithmetic, rounded down once. -/
def State.horizonOf (s : State) (vhNum : Nat) : Nat :=
  let sUnit := minOf (s.profs.map pfUnit)
  let ePgm := maxOf (s.profs.map pfPgmEnergy)
  let tProg := maxOf (s.profs.map pfTProg)
  let xfer := maxOf (s.profs.map pfXferEnergy)
  let nl := s.nProg
  if !s.energyFieldsOk || s.energy.needCal || s.log.adcRefBad || sUnit == 0 || nl == 0 || tProg == 0 then 0
  else
    let v : Rat := (vhNum : Rat) / 40960000
    let vm : Rat := (s.vholdMin : Rat) / 1000
    let eUse : Rat :=
      if v ≤ vm then 0
      else (s.convEff : Rat) / 100 * (1 / 2) * ((s.energy.cap : Rat) / 10000 * (1 - (s.holdMargin : Rat) / 100)) *
        (v * v - vm * vm)
    let pRun : Rat := (s.boardMw : Rat) / 1000 + (pDev s.gbl.tj.toInt : Rat) / 1000000
    let e : Rat := (ePgm : Rat) / 1000000000
    let eFix : Rat := pRun * (50 / 1000000) + 2 * e + (s.inflightErase : Rat) / 1000000000
    let rSeq : Rat := (nl * sUnit : Nat) / ((tProg : Rat) / 1000000)
    let eByte : Rat := e / (sUnit : Rat) + (xfer : Rat) / 1000000000000000 + pRun / rSeq
    let raw : Int := ((eUse - eFix) / eByte).floor
    (raw - (s.bFill : Int) - ((sUnit * s.profs.length : Nat) : Int)).toNat

/-- U: stage need of writes acknowledged on receipt and not committed, as far as it is not yet released (R332, R385, R386). -/
def State.uBytes (s : State) : Nat :=
  (s.stage.writes.filter (fun w => w.acked && !w.onMedia)).foldl (fun a w => a + leftOf s w) 0

/-- M of R386. -/
def marginM : Nat := 262144

/-- A write is withheld: it could be acknowledged on receipt and is not (R386). -/
def State.withheld (s : State) : Bool := s.stage.writes.any (fun w => !w.acked && !w.onMedia)

/-- PWR_SAFE as R389 drives it outside the power-fail sequence. -/
def setSafe (s : State) : State :=
  if s.energy.pfSeq then s else { s with pins := { s.pins with pwrSafe := s.uBytes == 0 } }

/-- PWR_HORIZON.ON_MEDIA as R387 gives it, with ACK_MODE at a change; it goes on following in the power-fail sequence (R178). -/
def setOnMedia (s : State) : State :=
  let v := s.withheld || decide (s.energy.h ≤ marginM)
  if v = s.energy.onMedia then s
  else setIrq { s with energy := { s.energy with onMedia := v } } irqAckMode

/-- Block group of a block key: LUN key × 4,096 + block ÷ 256. -/
def groupOfBlock (k : Nat) : Nat := blkLun k * 4096 + k % 1048576 / 256

end Sys2Proof.Machine
end

