-- ==== Sys2Proof/Machine/Microword.lean ====
section
/-! DEFINITION. Microwords and control stores (R524 to R529, R535, R536, R542, R543). -/

namespace Sys2Proof.Machine

/-! ## Fields of a microword (Table 16-1) -/
def wSafe (w : BitVec 128) : Bool := w.getLsbD 127
def wCyc (w : BitVec 128) : Nat := bitsOf w.toNat 126 123
def wNext (w : BitVec 128) : Nat := bitsOf w.toNat 122 111
def wBrN (w : BitVec 128) : Nat := bitsOf w.toNat 110 108
/-- SEL0 to SEL3. -/
def wSel (w : BitVec 128) (k : Nat) : Nat := bitsOf w.toNat (107 - 6 * k) (102 - 6 * k)
def wDispatch (w : BitVec 128) : Bool := w.getLsbD 83
def wCeOn (w : BitVec 128) : Bool := w.getLsbD 82
def wCle (w : BitVec 128) : Bool := w.getLsbD 81
def wAle (w : BitVec 128) : Bool := w.getLsbD 80
def wBus (w : BitVec 128) : Nat := bitsOf w.toNat 79 77
def wBsrc (w : BitVec 128) : Bool := w.getLsbD 76
def wArg (w : BitVec 128) : Nat := bitsOf w.toNat 75 71
def wImm (w : BitVec 128) : Nat := bitsOf w.toNat 70 63
def wTsrc (w : BitVec 128) : Nat := bitsOf w.toNat 62 60
def wCntOp (w : BitVec 128) : Nat := bitsOf w.toNat 59 57
def wSmask (w : BitVec 128) : Nat := bitsOf w.toNat 56 49
def wScmp (w : BitVec 128) : Nat := bitsOf w.toNat 48 41
def wEvt (w : BitVec 128) : Nat := bitsOf w.toNat 40 35
def wReqAck (w : BitVec 128) : Bool := w.getLsbD 34
def wSpid (w : BitVec 128) : Nat := bitsOf w.toNat 33 26
def wReserved (w : BitVec 128) : Nat := bitsOf w.toNat 25 0

/-- Parity bits [135:128]: bit k makes the 17 bits of group k even (R524). -/
def wordParity (w : BitVec 128) : BitVec 8 :=
  BitVec.ofNat 8 (((List.range 8).map (fun k =>
    (((List.range 16).filter (fun i => w.getLsbD (16 * k + i))).length % 2) * 2 ^ k)).sum)

/-- The word at an address; words beyond WORD_COUNT are zero (R535). -/
def Ucode.word (u : Ucode) (a : Nat) : BitVec 128 := (u.words[a]?).getD 0

/-- The word address that carries an SPID. -/
def Ucode.bySpid (u : Ucode) (p : Nat) : Option Nat := (u.safe.find? (fun x => x.2 == p)).map (·.1)

/-! ## Conditions and the next address (R527, R528) -/

/-- The condition bits a word samples (Table 16-2). -/
def condBit (m : Mason) (prof : List Byte) (pend : Bool) (w : BitVec 128) (i : WordIn) (c : Nat) : Bool :=
  let st := m.stat.toNat
  let safe := wSafe w
  if c == 1 then true
  else if c == 2 then st &&& wSmask w == wScmp w
  else if c == 3 then bitOf st 5
  else if c == 4 then bitOf st 6
  else if c == 5 then bitOf st 0
  else if c == 6 then bitOf st 1
  else if c == 7 then bitOf st 7
  else if c == 8 then m.tmr == 0
  else if c == 9 then m.loopA == 0
  else if c == 10 then m.loopB == 0
  else if c == 11 then i.dpReady
  else if c == 12 then i.dpErr
  else if c == 13 then pfMode prof != 0
  else if c == 14 then pfInterface prof == 1
  else if c == 15 then bitOf (pfFeatures prof) 4
  else if c == 16 then safe && m.abortReq
  else if c == 17 then safe && m.pfailReq
  else if c == 18 then safe && pend
  else if 21 ≤ c && c ≤ 23 then bitOf (pfSdr prof) (c - 21)
  else if 24 ≤ c && c ≤ 31 then bitOf m.opnd[7].toNat (c - 24)
  else false

/-- The next address of R527; `w` supplies NEXT and the selectors, `cond` what they name. -/
def nextAddr (u : Ucode) (w : BitVec 128) (cond : Nat → Bool) (posted : Option (Fin 32)) : Nat :=
  match wDispatch w, posted with
  | true, some r => (u.entry[r.val]?).getD 0
  | _, _ => (List.range (wBrN w)).foldl (fun a k => a ||| (b2n (cond (wSel w k)) * 2 ^ k)) (wNext w)

/-! ## Control stores -/

/-- The image of a bank. -/
def Micro.bank (m : Micro) (b : Bool) : Option Ucode := if b then m.bank1 else m.bank0

/-- Set the image of a bank. -/
def Micro.putBank (m : Micro) (b : Bool) (u : Option Ucode) : Micro :=
  if b then { m with bank1 := u } else { m with bank0 := u }

/-- The Mason of a channel. -/
def State.mason (s : State) (c : Fin 16) : Mason := s.micro.masons[c]

/-- Replace a Mason. -/
def setMason (s : State) (c : Fin 16) (m : Mason) : State :=
  { s with micro := { s.micro with masons := s.micro.masons.set c m } }

/-- Level of a thermometer word: consecutive 1 bits from bit 0 (R669). -/
def thermLevel (w : DWord) : Nat := ((List.range 64).takeWhile (fun i => w.getLsbD i)).length

/-- The word that shows a level. -/
def thermWord (level : Nat) : DWord := BitVec.ofNat 64 (2 ^ level - 1)

/-- Microcode and firmware thermometer levels. -/
def State.mcTherm (s : State) : Nat := thermLevel s.aon.shadow[0x60]
def State.fwTherm (s : State) : Nat := thermLevel s.aon.shadow[0x61]

/-- Lowest ROLLBACK_LEVEL valid for switching (R542). -/
def State.mcFloor (s : State) : Nat := max s.mcTherm ((s.sys.stored.map (·.level)).getD 0)

/-- STANDBY_VALID as channel CH_SEL has it (R534, R542, R543). -/
def State.standbyValid (s : State) : Bool :=
  let b := !(s.mason s.micro.chSel).bank
  match s.micro.bank b with
  | some u => s.micro.reloading != some b && decide (s.mcFloor ≤ u.level)
  | none => false

/-- Channels in service: a responding LUN and not offline. -/
def State.inService (s : State) (c : Nat) : Bool := s.media.chPresent.getLsbD c && !s.media.offline.getLsbD c

/-- The channels in service. -/
def State.serviceChs (s : State) : List (Fin 16) := (List.finRange 16).filter (fun c => s.inService c.val)

/-- The channels in service hold one bank, and no switch is pending (Table 16-6, last row). -/
def State.oneBank (s : State) : Bool :=
  match s.serviceChs with
  | [] => true
  | c :: cs => cs.all (fun d => (s.mason d).bank == (s.mason c).bank) &&
      (c :: cs).all (fun d => (s.mason d).pendSince.isNone)

/-- The bank LOAD_MICROCODE writes, and the one it leaves: opposite to the bank active on the channels. -/
def State.activeBank (s : State) : Bool :=
  match s.serviceChs with
  | [] => false
  | c :: _ => (s.mason c).bank

/-- R542: once every channel in service runs the bank that holds the candidate, it becomes the stored image, and a
higher ROLLBACK_LEVEL makes a thermometer raise due. -/
def commitCandidate (s : State) : State :=
  match s.sys.candidate with
  | none => s
  | some u =>
    let b := s.activeBank
    if s.serviceChs.isEmpty || !(s.serviceChs.all (fun d => (s.mason d).bank == b)) || s.micro.bank b != some u then s
    else
      { s with sys := { s.sys with stored := some u, candidate := none }
               aon := { s.aon with thermDue := if s.mcTherm < u.level then putBit s.aon.thermDue 0 true
                                               else s.aon.thermDue } }

/-! ## Images (R535, R536) -/

/-- 16-byte words of an image. -/
def imgWords : Nat → List Byte → List (BitVec 128)
  | 0, _ => []
  | n + 1, bs => BitVec.ofNat 128 (leVal (bs.take 16)) :: imgWords n (bs.drop 16)

/-- Entries of four bytes. -/
def imgQuads : Nat → List Byte → List Nat
  | 0, _ => []
  | n + 1, bs => leVal (bs.take 4) :: imgQuads n (bs.drop 4)

/-- Parts of an image file (Table 16-5). -/
def imgUcode (b : List Byte) : Ucode :=
  let n := fieldAt b 16 2
  let k := fieldAt b 18 2
  { version := fieldAt b 12 2, level := fieldAt b 14 1, minFw := fieldAt b 20 4
    words := imgWords n (b.drop 128)
    entry := (imgQuads 32 (b.drop (128 + 16 * n))).map (· % 4096)
    safe := (imgQuads k (b.drop (256 + 16 * n))).map (fun q => (q % 4096, bitsOf q 19 12)) }

/-- The format row of Table 16-6. -/
def imgFormatOk (b : List Byte) : Bool :=
  let n := fieldAt b 16 2
  let k := fieldAt b 18 2
  fieldAt b 0 4 == 0x434D5A51 && fieldAt b 4 2 == 1 && fieldAt b 6 2 == 128 && fieldAt b 8 4 == b.length &&
  b.length == 320 + 16 * n + 4 * k && 1 ≤ n && n ≤ 4096 && 1 ≤ k && k ≤ 255 && fieldAt b 15 1 == 0 &&
  1 ≤ fieldAt b 12 2 && fieldAt b 12 2 ≤ 4095 && fieldAt b 14 1 ≤ 63 && (bytesAt b 24 104).all (· == 0) &&
  (imgQuads 32 (b.drop (128 + 16 * n))).all (· < 4096) &&
  (imgQuads k (b.drop (256 + 16 * n))).all (· < 1048576)

/-- The word row of Table 16-6. -/
def imgWordOk (w : BitVec 128) : Bool :=
  wBrN w ≤ 4 && wNext w % 2 ^ wBrN w == 0 &&
  (List.range (wBrN w)).all (fun k => wSel w k ≤ 18 || (21 ≤ wSel w k && wSel w k ≤ 31)) &&
  wBus w ≤ 4 && wCntOp w ≤ 5 && wEvt w ≤ 3 && wReserved w == 0 && (wSafe w == (wSpid w != 0)) &&
  !(wSafe w && (wBus w == 3 || wBus w == 4))

/-- Keys rising. -/
def rising : List Nat → Bool
  | [] => true
  | [_] => true
  | a :: b :: r => decide (a < b) && rising (b :: r)

/-- The SAFE_TABLE and ENTRY row of Table 16-6. -/
def imgTablesOk (u : Ucode) : Bool :=
  let n := u.words.length
  let safes := (List.range n).filter (fun a => wSafe (u.word a))
  let e0 := (u.entry[0]?).getD 0
  rising (u.safe.map (·.2)) && u.safe.length == safes.length &&
  safes.all (fun a => u.safe.contains (a, wSpid (u.word a))) && u.entry.all (· < n) &&
  wSafe (u.word e0) && wDispatch (u.word e0) && wSpid (u.word e0) == 1 && wNext (u.word e0) == e0 &&
  (u.entry.drop 21).all (· == e0)

/-- Every SPID of `old` appears in the SAFE_TABLE of `new`. -/
def spidsKept (old : Option Ucode) (new : Ucode) : Bool :=
  match old with
  | none => true
  | some o => o.safe.all (fun x => (new.bySpid x.2).isSome)

end Sys2Proof.Machine
end

