-- ==== Sys2Proof/Machine/Regs.lean ====
section
/-! DEFINITION. What a read of each register returns (Tables 6-3 to 6-27). Reads have no effect but the capture of
GBL_TICK_LO (R170), which is a command of its own. -/

namespace Sys2Proof.Machine

/-- GBL_CAP0 and GBL_CAP1 (Table 6-4). -/
def State.regCap0 (s : State) : Nat :=
  s.aon.rails.bankPresent.toNat * 2 ^ 20 + b2n s.aon.rails.cas * 2 ^ 19 + b2n s.aon.keystone * 2 ^ 18 +
  b2n (decide (0 < s.gbl.dramGib.val)) * 2 ^ 17 + b2n s.phb * 2 ^ 16 + s.media.chPresent.toNat
def State.regCap1 (s : State) : Nat :=
  b2n (!s.phb) * 2 ^ 27 + 2 ^ 26 + s.gbl.dramGib.val * 2 ^ 22 + 32 * 2 ^ 16 + s.media.luns.length % 1024

/-- GBL_STATUS (Table 6-6). -/
def State.regStatus (s : State) : Nat :=
  b2n s.gbl.halted * 2 ^ 23 + b2n s.gbl.roReq * 2 ^ 22 + b2n s.gbl.roEol * 2 ^ 21 + b2n s.degHmap * 2 ^ 20 +
  b2n s.degCal * 2 ^ 19 + b2n s.degChannel * 2 ^ 18 + b2n s.degDie * 2 ^ 17 + b2n s.gbl.recovered * 2 ^ 6 +
  b2n s.gbl.footingOpen * 2 ^ 5 + b2n s.gbl.overdrive * 2 ^ 4 + s.gbl.state.code

/-- GBL_HALT_CAUSE (Table 6-7). -/
def State.regHalt (s : State) : Nat := s.gbl.halt.detail.toNat * 2 ^ 8 + s.gbl.halt.cause.toNat

/-- GBL_TEMP (Table 6-10). -/
def State.regTemp (s : State) : Nat :=
  s.gbl.tjPeak.toNat * 2 ^ 16 + s.gbl.thermStep.val * 2 ^ 12 + s.gbl.tj.toNat

/-- BOOT_LOCK (Table 6-11). -/
def State.regBootLock (s : State) : Nat :=
  (if s.gbl.lock then 0 else satTo 0xFFFF ((s.windowMs * 1000 - s.gbl.tick.toNat) / 1000)) * 2 ^ 16 +
  b2n s.gbl.auto * 2 + b2n s.gbl.lock

/-- The mask of a queue number (Table 6-12). -/
def State.qmask (s : State) (q : Nat) : Word := (tget s.prot.qpart q).getD 0xFFFFFFFF

/-- Entries of a queue consumed and not completed. -/
def State.inflight (s : State) (q : Nat) : Nat := (s.jobsOf q).length

/-- QSTAT.IDLE: disabled, nothing outstanding, and the shadow written (R237). -/
def State.qIdle (s : State) (q : Nat) : Bool :=
  match tget s.queues.qs q with
  | none => true
  | some k => !k.enabled && s.inflight q == 0 && !k.shadowDue

/-- ADMQ_CFG (Table 6-16). -/
def State.regAdmqCfg (s : State) : Nat :=
  b2n s.adm.cfgErr * 2 ^ 18 + b2n (!s.adm.en && s.inflight 0 == 0) * 2 ^ 17 + b2n s.adm.en * 2 ^ 16 +
  s.adm.prefetch.toNat * 2 ^ 8 + b2n s.adm.crcReq * 2 ^ 5 + b2n s.adm.cacheMode * 2 ^ 4 + s.adm.depthLog2.toNat

/-- QSTAT of a queue (Table 6-17); 0x0000_0004 for one that does not exist (R176). -/
def State.regQstat (s : State) (q : Nat) : Nat :=
  match tget s.queues.qs q with
  | none => 4
  | some k =>
    k.head.toNat % k.depth * 2 ^ 16 + satTo 255 (s.inflight q) * 2 ^ 8 + b2n k.busFault * 2 ^ 7 +
    b2n k.p.faultHalt * 2 ^ 6 + b2n k.p.crcReq * 2 ^ 5 + b2n k.p.cacheMode * 2 ^ 4 + b2n k.pend * 2 ^ 3 +
    b2n (s.qIdle q) * 2 ^ 2 + b2n k.enabled * 2 + 1

/-- The mover channel MOV_SEL names. -/
def State.movCh (s : State) : MovCh := s.mover.chs[s.mover.sel]

/-- STATE of a mover channel as MOV_STATUS encodes it. -/
def MovState.code : MovState → Nat
  | .idle => 0 | .running => 1 | .aborting => 2

/-- MOV_CTRL and MOV_STATUS (Table 6-19). -/
def MovCh.regCtrl (c : MovCh) : Nat :=
  c.evtInSel.val * 2 ^ 21 + b2n c.evtInEn * 2 ^ 20 + c.evtArg.toNat * 2 ^ 8 + c.evtKind.toNat * 2 ^ 6 +
  b2n c.dstDram * 2 ^ 5 + b2n c.srcDram * 2 ^ 4 + b2n c.align * 2 ^ 3 + b2n c.mode * 2 ^ 2
def MovCh.regStatus (c : MovCh) : Nat := b2n c.badSeen * 2 ^ 4 + b2n c.aborted * 2 ^ 3 + c.state.code

/-- PWR_CTRL (Table 6-20). -/
def State.regPwrCtrl (s : State) : Nat :=
  s.pwr.pgIdle.toNat * 2 ^ 16 + s.pwr.cgIdle.toNat * 2 ^ 8 + b2n s.pwr.statPage * 2 ^ 6 + b2n s.pwr.casPg * 2 ^ 5 +
  b2n s.pwr.dramCg * 2 ^ 4 + b2n s.pwr.sealPg * 2 ^ 3 + b2n s.pwr.sealCg * 2 ^ 2 + b2n s.pwr.chPg * 2 + b2n s.pwr.chCg

/-- Domain state encoding (Table 6-21). -/
def DomMode.code : DomMode → Nat
  | .on => 0 | .clockGated => 1 | .powerGated => 2 | .offUntilReset => 3

/-- The mode of domain `d` (index of Table 4-5's order). -/
def State.domMode (s : State) (d : Nat) : DomMode := ((s.doms[d]?).map (·.mode)).getD .offUntilReset

/-- PWR_STATUS pages 0 and 1 (Table 6-21). -/
def State.regPwr0 (s : State) : Nat := ((List.range 16).map (fun n => (s.domMode (6 + n)).code * 2 ^ (2 * n))).sum
def State.regPwr1 (s : State) : Nat :=
  b2n s.aon.rails.cas * 2 ^ 27 + b2n (s.aon.rails.peAvdd && s.aon.rails.peAvddh) * 2 ^ 26 +
  b2n (s.aon.rails.dram2 && s.aon.rails.dramQ) * 2 ^ 25 + b2n s.aon.rails.phb33 * 2 ^ 24 +
  s.aon.rails.bank18.toNat * 2 ^ 20 + s.aon.rails.bankPresent.toNat * 2 ^ 16 +
  b2n s.energy.pfSeq * 2 ^ 14 + b2n s.pins.pwrSafe * 2 ^ 13 + b2n (!s.pins.pfailN) * 2 ^ 12 +
  ((List.range 6).map (fun n => (s.domMode n).code * 2 ^ (2 * n))).sum

/-- PWR_HOLD and PWR_HORIZON (Table 6-22). -/
def State.regHold (s : State) : Nat := s.energy.cap % 2 ^ 20 * 2 ^ 12 + s.energy.vsense.toNat
def State.regHorizon (s : State) : Nat :=
  b2n s.energy.onMedia * 2 ^ 31 + s.energy.fill.toNat * 2 ^ 24 + s.energy.horizon.toNat

/-- A run of a kind is requested and has not ended. -/
def State.calDue (s : State) : Nat :=
  b2n (!s.cal.req0.isEmpty) + b2n (!s.cal.req1.isEmpty) * 2 + b2n (s.cal.hold != .idle) * 4

/-- A run of a kind is in progress (Table 6-23): kinds run in the order of their bits (R192), kind 1 from RECOVERED on (R564, R568), and a
run of kind 2 begins with the wait for its conditions (R565). -/
def State.calBusy (s : State) : Nat :=
  let trim := !s.cal.req0.isEmpty
  let track := !s.cal.req1.isEmpty && s.gbl.recovered && !trim
  let hold := match s.cal.hold with
    | .idle => false
    | .waiting _ => !trim && !track
    | _ => true
  b2n trim + b2n track * 2 + b2n hold * 4

/-- CAL_CTRL and CAL_STATUS (Table 6-23). -/
def State.regCalCtrl (s : State) : Nat := s.sys.calDelta % 256 * 2 ^ 8 + b2n s.cal.autoEn * 2 ^ 3
def State.regCalStatus (s : State) : Nat := s.cal.degraded.toNat * 2 ^ 8 + s.cal.disagree.toNat * 2 ^ 4 + s.calBusy

/-- MC_VERSION, MC_CTRL, MC_CHECK (Table 6-24). -/
def State.regMcVersion (s : State) : Nat :=
  let m := s.mason s.micro.chSel
  b2n s.standbyValid * 2 ^ 26 + b2n m.pendSince.isSome * 2 ^ 25 + b2n m.bank * 2 ^ 24 +
  ((s.micro.bank1.map (·.version)).getD 0) % 4096 * 2 ^ 12 + ((s.micro.bank0.map (·.version)).getD 0) % 4096
def State.regMcCtrl (s : State) : Nat := s.micro.chSel.val * 2 ^ 4 + b2n s.micro.oneCh * 2 ^ 2
def State.regMcCheck (s : State) : Nat :=
  s.micro.checkPending.toNat * 2 ^ 16 + s.micro.checkChannel.val * 2 ^ 12 + s.micro.checkAddr.toNat

/-- SEAL_STATUS (Table 6-25). A digest is complete within the command that needs it, so HASH_BUSY reads 0 between commands (log 7). -/
def State.regSeal (s : State) : Nat :=
  s.openStreams % 2048 * 2 ^ 16 + b2n s.gbl.sealFault * 2 ^ 10 + b2n s.gbl.keyOk * 2 ^ 9 +
  b2n (!s.streams.sign.isEmpty) * 2 ^ 8

/-- CAS_CTRL, CAS_STATUS, CAS_EVENT (Table 6-26). -/
def State.regCasCtrl (s : State) : Nat := b2n s.cas.strict * 2 ^ 4 + b2n s.cas.joinEn * 2 ^ 3 + s.cas.portEn.toNat
def State.regCasStatus (s : State) : Nat :=
  s.cas.depth % 16 * 2 ^ 20 + s.cas.memberId % 4096 * 2 ^ 8 + b2n s.cas.enumerated * 2 ^ 7 + b2n s.keystone * 2 ^ 6 +
  b2n s.cas.ports[2].trained * 2 ^ 5 + b2n s.cas.ports[1].trained * 2 ^ 4 + b2n s.cas.ports[0].trained * 2 ^ 3 +
  (if s.aon.rails.cas then s.pins.present.toNat else 0)
def State.regCasEvent (s : State) : Nat := s.cas.eventMember.toNat * 2 ^ 8 + s.cas.event.toNat

/-- HMAP_STATUS (Table 6-25). -/
def State.regHmap (s : State) : Nat :=
  satTo 0xFFFF s.hmap.macFails * 2 ^ 16 + b2n (!s.hmap.scrubbing.isEmpty) * 2 ^ 8 +
  (if s.hmap.attached then s.hmap.regions.length % 128 else 0) * 2 + b2n s.hmap.attached

/-- The value a read of the register page returns; reserved offsets read 0 (R3). The page answers from t5 on (R417). -/
def State.readReg (s : State) (off : Nat) : Nat :=
  if !s.gbl.up then 0xFFFFFFFF
  else
    match off with
    | 0x000 => 0x70400E51
    | 0x004 => s.gbl.fwVersion.toNat * 2 ^ 16 + 0x01B1
    | 0x008 => s.regCap0
    | 0x00C => s.regCap1
    | 0x010 => b2n s.gbl.irqEn * 2 ^ 2
    | 0x014 => s.regStatus
    | 0x018 => s.regHalt
    | 0x01C => s.gbl.irqStatus.toNat
    | 0x020 => s.gbl.irqMask.toNat
    | 0x024 => s.gbl.tick.toNat % 2 ^ 32
    | 0x028 => s.gbl.capture.toNat / 2 ^ 32
    | 0x02C => s.regTemp
    | 0x030 => s.regBootLock
    | 0x034 => s.prot.qpartSel.toNat
    | 0x038 => (s.qmask s.prot.qpartSel.toNat).toNat
    | 0x03C => s.prot.policy.toNat
    | 0x040 => s.prot.retainMin.toNat
    | 0x044 => s.prot.lastOffset.toNat * 2 ^ 16 + s.prot.count.toNat
    | 0x048 => s.adm.baseLo.toNat
    | 0x04C => s.adm.baseHi.toNat
    | 0x050 => s.regAdmqCfg
    | 0x054 => s.adm.shadowLo.toNat
    | 0x058 => s.adm.shadowHi.toNat
    | 0x05C => s.adm.qsel.toNat
    | 0x060 => s.regQstat s.adm.qsel.toNat
    | 0x068 => s.mover.sel.val
    | 0x06C => s.movCh.src.toNat % 2 ^ 32
    | 0x070 => s.movCh.src.toNat / 2 ^ 32
    | 0x074 => s.movCh.dst.toNat % 2 ^ 32
    | 0x078 => s.movCh.dst.toNat / 2 ^ 32
    | 0x07C => s.movCh.count.toNat
    | 0x080 => s.movCh.regCtrl
    | 0x084 => s.movCh.regStatus
    | 0x088 => s.movCh.next.toNat % 2 ^ 32
    | 0x08C => s.movCh.next.toNat / 2 ^ 32
    | 0x090 => s.movCh.burst.toNat * 2 ^ 8 + s.movCh.share.toNat
    | 0x094 => s.regPwrCtrl
    | 0x098 => if s.pwr.statPage then s.regPwr1 else s.regPwr0
    | 0x09C => s.regHold
    | 0x0A0 => s.regHorizon
    | 0x0A4 => s.regCalCtrl
    | 0x0A8 => s.regCalStatus
    | 0x0AC => s.regMcVersion
    | 0x0B0 => s.regMcCtrl
    | 0x0B4 => s.regMcCheck
    | 0x0B8 => s.regSeal
    | 0x0BC => s.regCasCtrl
    | 0x0C0 => s.regCasStatus
    | 0x0C4 => s.regCasEvent
    | 0x0C8 => s.regHmap
    | 0x0CC => s.gbl.scratch.toNat
    | 0x0D0 => s.prot.phbWin.toNat
    | _ => 0

end Sys2Proof.Machine
end

