-- ==== Sys2Proof/Machine/Mover.lean ====
section
/-! DEFINITION. The Block Mover: channels, descriptors, bursts, events and stops (chapter 18). -/

namespace Sys2Proof.Machine

/-- A mover channel by number. -/
def State.mov (s : State) (c : Fin 32) : MovCh := s.mover.chs[c]

/-- Replace a mover channel. -/
def setMov (s : State) (c : Fin 32) (m : MovCh) : State :=
  { s with mover := { s.mover with chs := s.mover.chs.set c m } }

/-- HOLD_CAL_PIN, if it names a pin (Table 17-3). -/
def State.calPin (s : State) : Option (Fin 4) :=
  let v := fieldAt s.aon.setRec 21 1
  if h : v < 4 then some ⟨v, h⟩ else none

/-! ## Accesses (Table 18-1, R581, R596) -/

/-- Read `n` bytes of a kind; none is a bus error. -/
def movRead (s : State) (b : Bus) (dram : Bool) (a n : Nat) : Option (List Byte) :=
  if dram then dramReadN s b a n
  else if 2 ^ 64 < a + n then none
  else shReadN s b a n

/-- Write bytes of a kind; false is a bus error. Writes to host memory are posted and never fail (R596). -/
def movWrite (s : State) (dram : Bool) (a : Nat) (bs : List Byte) : State × Bool :=
  if dram then dramWriteL s a bs
  else if s.phb && !(decide (a + bs.length ≤ s.winSize) && decide (s.winBase + a + bs.length ≤ s.dramBytes))
  then (s, false)
  else if 2 ^ 64 < a + bs.length then (s, false)
  else (shWrite s a bs, true)

/-! ## Bursts (R587 to R589) -/

/-- Burst size b: 64 × 2^BURST, 7 to 15 acting as 6 (Table 6-19). -/
def MovCh.burstSize (m : MovCh) : Nat := 64 * 2 ^ (min m.burst.toNat 6)

/-- The transfer runs as EDGE: ALIGN 0 and SRC and DST equal modulo 4, or no source at all (R588). -/
def MovRun.edge (r : MovRun) : Bool := !r.funnel && (r.fill.isSome || r.src % 4 == r.dst % 4)

/-- Destination bytes of the burst that begins at `p` in a transfer that ends at `e` (R588, R589). -/
def burstLen (edge : Bool) (b p e : Nat) : Nat :=
  if edge then min e ((p / b + 1) * b) - p
  else
    let h := min e ((p + 63) / 64 * 64)
    let m := e / 64 * 64
    if p < h then h - p
    else if p < m then min m ((p / b + 1) * b) - p
    else e - p

/-- The accesses R589 splits a range [a, e) into; `b` is the burst size. -/
def funnelSplit (b e : Nat) : Nat → Nat → List (Nat × Nat)
  | 0, _ => []
  | fuel + 1, a =>
    if e ≤ a then []
    else
      let h := (a + 63) / 64 * 64
      let m := e / 64 * 64
      let pow := fun (ok : Nat → Bool) => ([32, 16, 8, 4, 2, 1].find? ok).getD 1
      let n :=
        if a % 64 ≠ 0 then pow (fun n => a % n == 0 && decide (a + n ≤ min e h))
        else if a < m then min m ((a / b + 1) * b) - a
        else pow (fun n => decide (n ≤ e - a))
      (a, n) :: funnelSplit b e fuel (a + n)

/-! ## Descriptors (Tables 18-2 and 18-3) -/

/-- The run a fetched descriptor stands for. -/
def descRun (d : List Byte) : MovRun :=
  let c := fieldAt d 28 4
  { src := fieldAt d 0 8, dst := fieldAt d 8 8, count := fieldAt d 24 4, funnel := bitOf c 1, srcDram := bitOf c 2
    dstDram := bitOf c 3, fill := if bitOf c 4 then some (BitVec.ofNat 8 (fieldAt d 0 1)) else none
    next := fieldAt d 16 8 / 32 * 32, last := bitOf c 0, haltOnBad := bitOf c 5, evtKind := bitsOf c 7 6
    evtArg := bitsOf c 19 8, dctrl := c % 2 ^ 24 }

/-- The run the registers stand for (R583). -/
def MovCh.regRun (m : MovCh) : MovRun :=
  { src := m.src.toNat, dst := m.dst.toNat, count := m.count.toNat, funnel := m.align, srcDram := m.srcDram
    dstDram := m.dstDram, fill := none, next := m.next.toNat, last := true, haltOnBad := false
    evtKind := m.evtKind.toNat, evtArg := m.evtArg.toNat, dctrl := 0 }

/-- MOV_COUNT takes the bytes remaining of the transfer in progress: the device's value, whatever the host wrote meanwhile (R11, R583,
R596). -/
def MovCh.residue (m : MovCh) : MovCh :=
  match m.run with
  | some r => { m with count := BitVec.ofNat 32 (r.count - r.moved) }
  | none => m

/-- Status write-back: one 8-byte write to descriptor bytes 24 to 31 (R586). -/
def writeBack (s : State) (m : MovCh) (r : MovRun) (dstat : Nat) : State :=
  shWrite s (m.next.toNat + 24) (leBytes 4 m.count.toNat ++ leBytes 4 (r.dctrl + dstat * 2 ^ 24))

/-- ABORTED or BAD_SEEN was set (R177). -/
def movIrq (s : State) : State := setIrq s irqMover

/-! ## Starts, completion and pulses (R583, R584, R592) -/

/-- A pulse on an EVT_OUT pin; the pin HOLD_CAL_PIN names is not pulsed (R573, R592). -/
def pulsePin (s : State) (pin : Nat) : State :=
  if s.calPin.map (·.val) == some pin then s
  else { s with pins := { s.pins with evtOut := putBit s.pins.evtOut pin true } }

/-- START of a channel, taken only where it is IDLE and starts are taken at all (R188, R583, R584, R592). A register-mode
transfer of 0 bytes completes at once, and its pulse follows; `fuel` bounds a chain of such transfers (log 9). -/
def startCh : Nat → State → Fin 32 → State
  | 0, s, _ => s
  | fuel + 1, s, c =>
    let m := s.mov c
    if m.state != .idle || s.limited || s.energy.pfSeq then s
    else if m.mode then setMov s c { m with state := .running, run := none, begun := 0, bursts := [] }
    else if m.count = 0 then
      let k := m.evtKind.toNat
      let a := m.evtArg.toNat
      if k == 1 then ringQueue s a
      else if k == 2 then startCh fuel s (Fin.ofNat 32 a)
      else if k == 3 then pulsePin s (a % 4)
      else s
    else setMov s c { m with state := .running, run := some m.regRun, begun := 0, bursts := [] }

/-- The pulse of a transfer that ended DONE (R592). -/
def pulse (s : State) (kind arg : Nat) : State :=
  if kind == 1 then ringQueue s arg
  else if kind == 2 then startCh 33 s (Fin.ofNat 32 arg)
  else if kind == 3 then pulsePin s (arg % 4)
  else s

/-- A transfer or descriptor ends DONE: write-back, MOV_NEXT, STATE, then the pulse (R583, R584). `stop` is an abort that
waited for its last burst (R603); one that a halt stops gives no pulse (R255). -/
def movDone (s : State) (c : Fin 32) (r : MovRun) (stop : Bool) : State :=
  let m := { s.mov c with count := 0 }
  let s1 := if m.mode then writeBack s m r 1 else s
  let idle := stop || r.last
  let m1 := { m with next := if m.mode then BitVec.ofNat 64 r.next else m.next
                     state := if idle then .idle else .running
                     run := none, begun := 0, bursts := [], aborted := m.aborted || stop }
  let s2 := if stop && s.stopped then setMov s1 c m1 else pulse (setMov s1 c m1) r.evtKind r.evtArg
  if stop then movIrq s2 else s2

/-- A bus error in a transfer's data (R596, R604): BAD with the residue; in list mode the list goes on unless LAST,
HALT_ON_BAD or an abort ends it. -/
def movBad (s : State) (c : Fin 32) (r : MovRun) : State :=
  let m := (s.mov c).residue
  let ab := m.state == .aborting
  let s1 := countBus (if m.mode then writeBack s m r (if ab then 6 else 2) else s)
  let idle := ab || !m.mode || r.last || r.haltOnBad
  movIrq (setMov s1 c { m with
    next := if m.mode && !ab then BitVec.ofNat 64 r.next else m.next
    state := if idle then .idle else .running
    run := none, begun := 0, bursts := [], badSeen := true, aborted := m.aborted || ab })

/-- A channel stops as aborted, with or without a write-back (Table 18-4). -/
def movStop (s : State) (c : Fin 32) (wb : Bool) : State :=
  let m := (s.mov c).residue
  let s1 := match m.run with
    | some r => if m.mode && wb then writeBack s m r 4 else s
    | none => s
  movIrq (setMov s1 c { m with state := .idle, run := none, begun := 0, bursts := [], aborted := true
                               count := if m.mode && m.run.isNone then 0 else m.count })

/-- ABORT of a running channel: the oldest unfinished burst finishes, the others are discarded; with none unfinished the
channel stops now (R594, R595). -/
def movAbort (s : State) (c : Fin 32) : State :=
  let m := s.mov c
  if m.state != .running then s
  else
    match m.bursts with
    | b :: _ => setMov s c { m with state := .aborting, bursts := [b] }
    | [] => movStop s c true

/-- The transfer in progress touches host memory (R116, Table 4-4). -/
def MovCh.usesHost (m : MovCh) : Bool :=
  m.mode || match m.run with
    | some r => (!r.srcDram && r.fill.isNone) || !r.dstDram
    | none => false

/-- Data of the transfer in progress lies in DRAM alone. -/
def MovCh.dramOnly (m : MovCh) : Bool :=
  match m.run with
  | some r => (r.srcDram || r.fill.isSome) && r.dstDram
  | none => false

/-- Orphan: channels that use host memory abort without write-back; a burst between DRAM addresses still finishes (R116, R594). -/
def movOrphan (s : State) (c : Fin 32) : State :=
  let m := s.mov c
  if m.state == .idle || !m.usesHost then s
  else
    match m.bursts, m.dramOnly with
    | b :: _, true => setMov s c { m with state := .aborting, bursts := [b] }
    | _, _ => movStop s c false

/-- Every channel, by an operation on one. -/
def eachMov (f : State → Fin 32 → State) (s : State) : State := (List.finRange 32).foldl f s

/-- Step 1 of the power-fail sequence: no further read or write, no write-back (Table 18-4). -/
def movPowerFail (s : State) (c : Fin 32) : State := if (s.mov c).state == .idle then s else movStop s c false

/-- MOV_CTRL: its fields, then START or ABORT on the selected channel (Table 6-19, R188, R602). -/
def movCtrlWrite (s : State) (v : Word) : State :=
  let c := s.mover.sel
  let n := v.toNat
  let m := { s.mov c with
    evtInSel := Fin.ofNat 4 (bitsOf n 22 21), evtInEn := bitOf n 20, evtArg := BitVec.ofNat 12 (bitsOf n 19 8)
    evtKind := BitVec.ofNat 2 (bitsOf n 7 6), dstDram := bitOf n 5, srcDram := bitOf n 4, align := bitOf n 3
    mode := bitOf n 2 }
  let s1 := setMov s c m
  if bitOf n 1 then
    (if m.state == .idle then (if bitOf n 0 then movIrq (setMov s1 c { m with aborted := true }) else s1)
     else movAbort s1 c)
  else if bitOf n 0 then startCh 33 s1 c
  else s1

/-- The data link layer is up: not down, and not in L2 (R115, R116). -/
def State.linkUp (s : State) : Bool := !s.pcie.orphan && s.pcie.link != .down && s.pcie.link != .l2

/-- The apertures take a host access: the register file answers and, in PCIe mode, the link is up and the function in D0 with its memory space
enabled (R115, R160, R417). -/
def State.hostAccess (s : State) : Bool :=
  s.gbl.up && (s.phb || (s.linkUp && s.pcie.mse && !s.pcie.d3hot && !s.pcie.crs))

/-- MOV_START: a write of MOV_CTRL with START (R583, R584). -/
def execMovStart (value : Word) (s : State) : Host.Outcome State Fault Refusal :=
  if s.hostAccess && !s.limited then .next (movCtrlWrite s (value ||| 1)) else .next s

/-- MOV_ABORT: a write of MOV_CTRL with ABORT; with START as well, ABORT decides (R188, R595). -/
def execMovAbort (value : Word) (s : State) : Host.Outcome State Fault Refusal :=
  if s.hostAccess && !s.limited then .next (movCtrlWrite s (value ||| 2)) else .next s

/-- EVT_IN_EDGE: a counted edge starts every idle channel that selects the pin (R593). -/
def execEvtInEdge (pin : Fin 4) (s : State) : Host.Outcome State Fault Refusal :=
  if !s.gbl.coreOn || s.limited || s.energy.pfSeq then .next s
  else .next (eachMov (fun s c => if (s.mov c).evtInEn && (s.mov c).evtInSel == pin then startCh 33 s c else s) s)

/-- MOVER_DESC_FETCH: the 32-byte descriptor read at MOV_NEXT returns, and the channel begins to run it; a failed read stops
the channel (R584, R596, Table 18-4). -/
def execMoverDescFetch (ch : Fin 32) (bus : Bus) (s : State) : Host.Outcome State Fault Refusal :=
  let m := s.mov ch
  if m.state != .running || !m.mode || m.run.isSome then .next s
  else
    let s1 := absorbBus s bus
    match movRead s1 bus false m.next.toNat 32 with
    | none => .next (movIrq (countBus (setMov s1 ch { m with state := .idle, count := 0, badSeen := true })))
    | some d =>
      let r := descRun d
      let s2 := setMov s1 ch { m with run := some r, count := BitVec.ofNat 32 r.count, begun := 0, bursts := [] }
      if r.count == 0 then .next (movDone s2 ch r false) else .next s2

/-- MOVER_BURST_START: after the pacing interval a channel starts its next burst, at most four unfinished (R587, R591). -/
def execMoverBurstStart (ch : Fin 32) (s : State) : Host.Outcome State Fault Refusal :=
  let m := s.mov ch
  match m.run with
  | none => .next s
  | some r =>
    if m.state != .running || 4 ≤ m.bursts.length || r.count ≤ m.begun then .next s
    else
      let p := r.dst + m.begun
      let n := burstLen r.edge m.burstSize p (r.dst + r.count)
      .next (setMov s ch { m with begun := m.begun + n, bursts := m.bursts ++ [⟨p, n⟩] })

/-- The source bytes of a burst: rounded words under EDGE, the exact range under FUNNEL, a fill byte (R588, R589). -/
def burstData (s : State) (b : Bus) (r : MovRun) (x : Burst) : Option (List Byte) :=
  match r.fill with
  | some v => some (List.replicate x.len v)
  | none =>
    let a := r.src + (x.dst - r.dst)
    if r.edge then
      let lo := a / 4 * 4
      let hi := (a + x.len + 3) / 4 * 4
      (movRead s b r.srcDram lo (hi - lo)).map (fun d => (d.drop (a - lo)).take x.len)
    else movRead s b r.srcDram a x.len

/-- MOVER_BURST_DONE: the oldest burst's read data arrives and its write is issued; after the last the transfer ends DONE
(R583, R587, R590), an abort that waited stops the channel (R595, R603), a failed access is a bus error (R596, R604). -/
def execMoverBurstDone (ch : Fin 32) (bus : Bus) (s : State) : Host.Outcome State Fault Refusal :=
  let m := s.mov ch
  match m.run, m.bursts with
  | some r, x :: xs =>
    let s1 := absorbBus s bus
    match burstData s1 bus r x with
    | none => .next (movBad s1 ch r)
    | some d =>
      let w := movWrite s1 r.dstDram x.dst d
      if !w.2 then .next (movBad s1 ch r)
      else
        let r1 := { r with moved := r.moved + x.len }
        let s2 := setMov w.1 ch { m with run := some r1, bursts := xs }.residue
        if r.count ≤ r1.moved then .next (movDone s2 ch r1 (m.state == .aborting))
        else if m.state == .aborting then .next (movStop s2 ch true)
        else .next s2
  | _, _ => .next s

/-- EVT_OUT_END: 100 ns after the last pulse the pin returns low (R592); the calibration load pin follows its run instead (R565). -/
def execEvtOutEnd (pin : Fin 4) (s : State) : Host.Outcome State Fault Refusal :=
  if s.calPin == some pin then .next s
  else .next { s with pins := { s.pins with evtOut := putBit s.pins.evtOut pin.val false } }

end Sys2Proof.Machine
end

