-- ==== Sys2Proof/Machine/Place.lean ====
section
/-! DEFINITION. Where data lies: what a page's references stand for, forming Courses, moving data (R453 to R470), and
what follows from the loss of a die or a channel (R458, R459). -/

namespace Sys2Proof.Machine

/-- Change the media. -/
def modMedia (s : State) (f : Media → Media) : State := { s with media := f s.media }

/-- Change one LUN. -/
def modLun (s : State) (k : Nat) (f : Lun → Lun) : State := modMedia s (fun m => { m with luns := tmod m.luns k f })

/-- Add to a saturating counter of the health log (R690). -/
def sat64 (n : Nat) : Nat := satTo 0xFFFFFFFFFFFFFFFF n

/-- Change the health counters. -/
def modHealth (s : State) (f : Health → Health) : State := { s with log := { s.log with health := f s.log.health } }

/-! ## References -/

/-- A sealed record of a stream. -/
def State.record? (s : State) (key seq : Nat) : Option Rec :=
  (s.strm? key).bind (fun t => t.recs.find? (fun r => r.kind != 4 && r.seq == seq))

/-- User bytes a reference takes in a page; a unit that became unmapped is recorded with the page and takes none (R337). -/
def refSize (s : State) : Ref → Nat
  | .unit p u o =>
    if s.stage.writes.any (fun w => w.part == p && w.order == o && w.pieces.any (fun x =>
        match x.1 with | .unit v m _ => v == u && !m | _ => false)) then 0 else 4096
  | .bytes _ _ len => len
  | .record key seq => ((s.record? key seq).map (·.bytes.length)).getD 256
  | .summary => 16384
  | .filler => 0

/-- Stream data: COLD, never mixed with block-partition data (R453). -/
def refCold : Ref → Bool
  | .bytes .. => true
  | .record .. => true
  | _ => false

/-- The partition a reference belongs to. -/
def refPart : Ref → Option Nat
  | .unit p _ _ => some p
  | .bytes k _ _ => some (sPart k)
  | .record k _ => some (sPart k)
  | _ => none

/-- The reference is the newest committed copy of what it names (R38, R465). -/
def refValid (s : State) (r : Ref) : Bool :=
  match r with
  | .unit p u o =>
    (match (tget s.parts p).bind (fun q => tget q.units u) with
     | some v => v.1 == o
     | none => false)
  | .bytes k _ _ => (s.strm? k).isSome
  | .record k _ => (s.strm? k).isSome
  | _ => false

/-! ## Blocks and Courses (R454, R464, R470) -/

/-- Use of a block, and its erase count. -/
def State.blkUse (s : State) (k : Nat) : BlkUse :=
  if s.media.rubbleLuns.contains (blkLun k) then .rubble else ((tget s.media.blocks k).map (·.use)).getD .quarry
def State.blkErases (s : State) (k : Nat) : Nat := ((tget s.media.blocks k).map (·.erases)).getD 0

/-- Set the use of a block. -/
def setBlk (s : State) (k : Nat) (u : BlkUse) : State :=
  modMedia (noteGen s 6) (fun m => { m with blocks := tput m.blocks k { ((tget m.blocks k).getD ⟨u, 0, 0⟩) with use := u } })

/-- The Quarry block of a LUN with the lowest erase count (R464). -/
def quarryBlock (s : State) (l : Nat) : Option Nat :=
  let listed := s.media.blocks.filter (fun b => blkLun b.1 == l)
  let n := pfBlocks (s.profOf l)
  if s.media.rubbleLuns.contains l then none
  else if listed.length < n then
    ((List.range (listed.length + 1)).map (blkKey l)).find? (fun k => (tget s.media.blocks k).isNone)
  else
    (listed.filter (fun b => b.2.use == .quarry)).foldl (fun a b =>
      match a with
      | some k => if b.2.erases < s.blkErases k then some b.1 else a
      | none => some b.1) none

/-- Live LUNs, one of each channel before a second of any (R454). -/
def spreadLuns (s : State) : List Nat :=
  (List.range 32).flatMap (fun r => (List.range 16).filterMap (fun c =>
    (s.liveLuns.filter (fun l => keyCh l == c))[r]?))

/-- Pages of a wordline pairing group on a LUN, by its channel's profile (Table 15-3). -/
def courseGroup (s : State) (slc : Bool) (lun : Nat) : Nat := if slc then 1 else max 1 (pfBits (s.profOf lun))

/-- Rows after which every member's group is complete. -/
def groupStep (gs : List Nat) : Nat := gs.foldl Nat.lcm 1

/-- Rows of a Course on these LUNs: those every member has, in whole groups of every member. -/
def courseRows (s : State) (luns : List Nat) (slc : Bool) : Nat :=
  let n := minOf (luns.map (fun l => if slc then pfPages (s.profOf l) / max 1 (pfBits (s.profOf l)) else pfPages (s.profOf l)))
  let g := groupStep (luns.map (courseGroup s slc))
  n / g * g

/-- Form a Course of a role on given blocks. -/
def formCourse (s : State) (role : Role) (blocks : List Nat) (mortar : Nat) (slc : Bool) : State :=
  let luns := blocks.map blkLun
  let c : Course :=
    { role := role, blocks := blocks, mortar := mortar, groups := luns.map (courseGroup s slc)
      rows := courseRows s luns slc, pages := [], isOpen := true, closedAt := 0 }
  let s1 := blocks.foldl (fun s k => setBlk s k .course) s
  modMedia s1 (fun m => { m with courses := tput m.courses m.nextCourse c, nextCourse := m.nextCourse + 1 })

/-- Courses open outside the Footing (R455). -/
def State.openCourses (s : State) : Nat :=
  (s.media.courses.filter (fun c => c.2.isOpen && c.2.role != .footing)).length

/-- A member of a Course whose block is lost, retired or vacated. -/
def memberGone (s : State) (c : Course) (m : Nat) : Bool :=
  match c.blocks[m]? with
  | some k => s.blkUse k != .course || !s.liveLuns.contains (blkLun k)
  | none => true

/-- Page `r` of member `m` is programmed. -/
def Course.has (c : Course) (m r : Nat) : Bool := c.pages.any (fun g => g.1 == m && g.2.1 == r)

/-- Every page of the wordline pairing group of a page is programmed (R36). -/
def Course.groupDone (c : Course) (m r : Nat) : Bool :=
  let g := c.groupAt m
  (List.range g).all (fun i => c.has m (r / g * g + i))

/-- Members that take data. -/
def Course.dataMembers (c : Course) : List Nat := (List.range c.blocks.length).filter (· != c.mortar)

/-- A program of page `r` of member `m` of a Course is in flight. -/
def pageInFlight (s : State) (id m r : Nat) : Bool :=
  s.media.luns.any (fun l => match l.2.op with | .program i x y _ _ => i == id && x == m && y == r | _ => false)

/-- The Mortar page of row `r` is programmed, or every data page it covers at this moment is fully programmed, so that replay can recompute
it; a page whose program has not been issued is not covered yet (R36, R391). -/
def rowCovered (s : State) (id : Nat) (c : Course) (r : Nat) : Bool :=
  c.has c.mortar r || c.dataMembers.all (fun m =>
    memberGone s c m || c.groupDone m r || !(c.has m r || pageInFlight s id m r))

/-- What a reference names waits in the stage, or as a record, for its commit. -/
def refWaits (s : State) (r : Ref) : Bool :=
  match r with
  | .record k q => ((s.record? k q).map (fun x => !x.committed)).getD false
  | _ => s.stage.writes.any (fun w => w.pieces.any (fun p => !p.2 && pieceRef w p.1 == r))

/-- Close a Course once every row of every member is programmed. -/
def closeFull (s : State) (id : Nat) : State :=
  modMedia s (fun m => { m with courses := tmod m.courses id (fun c =>
    if c.isOpen && (List.range c.blocks.length).all (fun x =>
        memberGone s c x || (c.pages.filter (fun g => g.1 == x)).length == c.rows)
    then { c with isOpen := false, closedAt := s.gbl.tick } else c) })

/-! ## What the pages hold (R502 to R506) -/

/-- Table 9-4 address of a page's codeword. -/
def physAddr (block page cw : Nat) : Nat :=
  let l := blkLun block
  l / 32 * 2 ^ 45 + l / 4 % 8 * 2 ^ 42 + l % 4 * 2 ^ 40 + block % 1048576 * 2 ^ 20 + page * 16 + cw

/-- Fields of a physical address (Table 9-4). -/
def paLun (a : Nat) : Nat := bitsOf a 48 45 * 32 + bitsOf a 44 42 * 4 + bitsOf a 41 40
def paBlock (a : Nat) : Nat := blkKey (paLun a) (bitsOf a 39 20)
def paPage (a : Nat) : Nat := bitsOf a 19 4
def paCw (a : Nat) : Nat := a % 16

/-- Codewords of a page on every plane (R503). -/
def cwPerPage (p : List Byte) : Nat := pfPlanes p * (pfUserPage p / 4096)

/-- Where a reference lies: Course, member, row, and its place in the page. -/
def locate (s : State) (r : Ref) : Option (Nat × Nat × Nat × Nat) :=
  s.media.courses.findSome? (fun c => c.2.pages.findSome? (fun g =>
    (g.2.2.findIdx? (· == r)).map (fun i => (c.1, g.1, g.2.1, i))))

/-- The block a Course's member stands on. -/
def memberBlock (s : State) (id m : Nat) : Nat := ((tget s.media.courses id).bind (fun c => c.blocks[m]?)).getD 0

/-- The pages of a block can be read: its LUN responds and its channel is in service (R110, R458, R459). -/
def blockReads (s : State) (block : Nat) : Bool :=
  s.liveLuns.contains (blkLun block) && s.domMode (6 + keyCh (blkLun block)) != .offUntilReset

/-- The other pages of a page's row can be read, the Mortar page among them, so that the page can be rebuilt (R457, R460). -/
def rowRebuilds (s : State) (id m row : Nat) : Bool :=
  match tget s.media.courses id with
  | none => false
  | some c => (List.range c.blocks.length).all (fun k => k == m || (c.has k row && blockReads s ((c.blocks[k]?).getD 0)))

/-- Physical address of the data a reference names. -/
def refAddr (s : State) (r : Ref) : Nat :=
  match locate s r with
  | some (id, m, row, i) =>
    let before := match tget s.media.courses id with
      | some c => ((c.pages.find? (fun g => g.1 == m && g.2.1 == row)).map (fun g => ((g.2.2.take i).map (refSize s)).sum)).getD 0
      | none => 0
    physAddr (memberBlock s id m) row (before / 4096)
  | none => 0

/-- The version of a unit with this place in the visibility order: whether it is mapped, and its bytes. -/
def unitVersion (s : State) (p u o : Nat) : Option (Bool × Mem) :=
  match (s.stage.writes.filter (fun w => w.part == p && w.order == o)).findSome? (fun w => w.pieces.findSome? (fun x =>
      match x.1 with | .unit v m b => if v == u then some (m, b) else none | _ => none)) with
  | some x => some x
  | none => ((tget s.parts p).bind (fun q => tget q.units u)).bind (fun v => if v.1 == o then some (true, v.2) else none)

/-- The user bytes a reference puts into a page: XTS comes first, in the core (R316, R502). A data unit is the whole map unit and its
number the tweak. The content of a summary is no interface. -/
def refBytes (s : State) (r : Ref) : List Byte :=
  match r with
  | .unit p u o =>
    (match unitVersion s p u o with
     | some (true, b) =>
       let d := memReadN b 0 4096
       (match s.xtsKey p with
        | some k => xts false k u d
        | none => d)
     | _ => [])
  | .bytes k off len => ((s.strm? k).map (fun t => memReadN t.data off len)).getD []
  | .record k q => ((s.record? k q).map (·.bytes)).getD []
  | .summary => freeBytes s.free 16384
  | .filler => []

/-- The data bytes of a stored codeword after derandomizing, before any XTS decryption (R502); none where none is stored. -/
def cellData (s : State) (block page cw : Nat) : Option (List Byte) :=
  (tget s.media.cells (physAddr block page cw)).map (fun c =>
    randomize (pfRandSeed (s.profOf (blkLun block))) (block % 1048576) page cw (c.take 4128))

/-- A codeword as it is stored: its data through the randomizer, and the parity of what that gives (R502 to R505). -/
def storedCw (p : List Byte) (block page cw : Nat) (d : List Byte) : List Byte :=
  let x := randomize (pfRandSeed p) (block % 1048576) page cw d
  x ++ Config.ldpcParity (codewordBytes (pfCodeRate p) - 4128) x

/-- Store the codewords of a page from the data bytes of each. -/
def storeCws (s : State) (block page : Nat) (d : Nat → List Byte) : State :=
  let p := s.profOf (blkLun block)
  { s with media := { s.media with
      cells := (List.range (cwPerPage p)).foldl (fun t i => tput t (physAddr block page i) (storedCw p block page i (d i))) s.media.cells } }

/-- The metadata of a codeword of a page that takes these references: what a moved reference has where it lies now (R465). -/
def cwMeta (s : State) (refs : List Ref) (i : Nat) : Option (List Byte) :=
  let at_ := fun (k : Nat) => ((refs.take k).map (refSize s)).sum
  ((List.range refs.length).find? (fun k => decide (4096 * i < at_ (k + 1)))).bind (fun k =>
    (refs[k]?).bind (fun r => if (locate s r).isNone then none
      else (let a := refAddr s r + (4096 * i - at_ k) / 4096
            (cellData s (paBlock a) (paPage a) (paCw a)).map (fun d => bytesAt d 4096 32))))

/-- A page of a Course receives its content: a data page the user bytes of its references, one after the other, with metadata of a
format the spec does not give; the Mortar page the XOR of the row's data pages over user bytes and metadata (R456, R502). -/
def storePage (s : State) (c : Course) (m row : Nat) (refs : List Ref) : State :=
  let block := (c.blocks[m]?).getD 0
  let n := cwPerPage (s.profOf (blkLun block))
  if m == c.mortar then
    storeCws s block row (fun i => ((List.range c.blocks.length).filter (· != c.mortar)).foldl (fun x k =>
      xorBytes x (bytesAt ((cellData s ((c.blocks[k]?).getD 0) row i).getD []) 0 4128)) (List.replicate 4128 0))
  else
    let user := refs.flatMap (refBytes s)
    let all := user ++ freeBytes s.free (4096 * n - user.length)
    let s1 := storeCws s block row (fun i => bytesAt all (4096 * i) 4096 ++ (cwMeta s refs i).getD (freeBytes (s.free + 4096 * n + 32 * i) 32))
    { s1 with free := s.free + 4128 * n }

/-- A block is erased: it joins the Quarry with its next erase count, and nothing of what its pages held is left (R470). -/
def erased (s : State) (k : Nat) : State :=
  modMedia (noteGen s 6) (fun m => { m with
    blocks := tput m.blocks k ⟨.quarry, s.blkErases k + 1, 0⟩
    cells := m.cells.filter (fun x => paBlock x.1 != k)
    tornGroups := m.tornGroups.filter (fun t => t.1 != k) })

/-! ## Moving data (R461 to R467) -/

/-- Fill pages of `cap` bytes with references in order. -/
def chunkRefs (s : State) (cap : Nat) : List Ref → List Ref → Nat → List (List Ref)
  | [], cur, _ => if cur.isEmpty then [] else [cur]
  | r :: rs, cur, n =>
    let k := refSize s r
    if cur.isEmpty || n + k ≤ cap then chunkRefs s cap rs (cur ++ [r]) (n + k)
    else cur :: chunkRefs s cap rs [r] k

/-- Pages of a member that are programmed. -/
def Course.rowsOf (c : Course) (m : Nat) : Nat := (c.pages.filter (fun g => g.1 == m)).length

/-- The Course takes moved data of a class: an open RELOC Course, or with N_oc 2 the open HOT or COLD Course of the class, that holds no
data of the other class, has lost no member and has no program in flight (R453, R455). -/
def takesMoved (s : State) (cold : Bool) (id : Nat) (c : Course) : Bool :=
  c.isOpen && (c.role == .reloc || (s.nOpen ≤ 2 && c.role == (if cold then .cold else .hot))) &&
  c.pages.all (fun g => g.2.2.all (fun r => r == .filler || refCold r == cold)) &&
  (List.range c.blocks.length).all (fun m => !memberGone s c m && (s.inFlight id m).isEmpty)

/-- The Course that takes moved data of a class, formed where there is none and N_oc allows it (R455). -/
def relocCourse (s : State) (cold : Bool) : Option (State × Nat) :=
  match s.media.courses.find? (fun c => takesMoved s cold c.1 c.2) with
  | some (id, _) => some (s, id)
  | none =>
    let blocks := ((spreadLuns s).filterMap (quarryBlock s)).take s.width
    if blocks.length < s.width || s.width < 2 || s.nOpen ≤ s.openCourses then none
    else some (formCourse s (if s.nOpen ≤ 2 then (if cold then .cold else .hot) else .reloc) blocks (s.media.nextCourse % s.width) false,
      s.media.nextCourse)

/-- A page of a Course is programmed: its codewords are stored and it joins the Course (R502, R690). -/
def placeAt (s : State) (id : Nat) (c : Course) (m : Nat) (page : List Ref) : State :=
  let row := c.rowsOf m
  let s1 := storePage s c m row page
  let s2 := modMedia s1 (fun md => { md with courses := tmod md.courses id (fun x => { x with pages := x.pages ++ [(m, row, page)] }) })
  modHealth s2 (fun h => { h with mediaBytes := sat64 (h.mediaBytes + pfUnit (s.profOf (blkLun ((c.blocks[m]?).getD 0)))) })

/-- The data member with the fewest pages programmed. -/
def Course.shortest (c : Course) : Option Nat :=
  c.dataMembers.foldl (fun a m => match a with
    | some x => if c.rowsOf m < c.rowsOf x then some m else a
    | none => some m) none

/-- Program one page of moved data in the next free place, with the row's Mortar page after its last data page (R456). -/
def placePage (s : State) (cold : Bool) (page : List Ref) : Option State :=
  match relocCourse s cold with
  | none => none
  | some (s1, id) =>
    match tget s1.media.courses id with
    | none => none
    | some c =>
      match c.shortest with
      | none => none
      | some m =>
        let s2 := placeAt s1 id c m page
        match tget s2.media.courses id with
        | none => none
        | some c2 =>
          let r := c2.rowsOf c2.mortar
          some (closeFull (if r < c2.rows && c2.dataMembers.all (fun x => c2.has x r) then placeAt s2 id c2 c2.mortar [] else s2) id)

/-- Pages of filler that complete the rows and the wordline pairing groups the moved data of a class has begun. -/
def padPages (s : State) (cold : Bool) : Nat :=
  match s.media.courses.find? (fun c => takesMoved s cold c.1 c.2) with
  | some (_, c) =>
    let g := groupStep c.groups
    let top := (maxOf (c.dataMembers.map c.rowsOf) + g - 1) / g * g
    (c.dataMembers.map (fun m => top - c.rowsOf m)).sum
  | none => 0

/-- The pages of one class are programmed, one after another, into its open Course. -/
def placePages (s : State) (cold : Bool) (pages : List (List Ref)) : Option State :=
  pages.foldl (fun o p => o.bind (fun s => placePage s cold p)) (some s)

/-- The pages of one class are placed, and filler after them as far as their group needs it (R36). -/
def placeClass (s : State) (cold : Bool) (pages : List (List Ref)) : Option State :=
  if pages.isEmpty then some s
  else (placePages s cold pages).bind (fun s => placePages s cold (List.replicate (padPages s cold) [Ref.filler]))

/-- Copy references into RELOC (R465); none where the Quarry cannot hold them. The groups begun are then completed with filler, so that
every copy is committed under R36 when the move ends (log 23). -/
def placeMoved (s : State) (refs : List Ref) : Option State :=
  let cap := minOf (s.profs.map pfUnit)
  let hot := chunkRefs s cap (refs.filter (fun r => !refCold r)) [] 0
  let cold := chunkRefs s cap (refs.filter refCold) [] 0
  (placeClass s false hot).bind (fun s => placeClass s true cold)

/-- Valid references of a Course. -/
def courseValid (s : State) (c : Course) : List Ref := (c.pages.flatMap (fun g => g.2.2)).filter (refValid s)

/-- A Course is removed; its blocks await their erase (R470). Blocks on the Rubble list stay there. -/
def dropCourse (s : State) (id : Nat) : State :=
  match tget s.media.courses id with
  | none => s
  | some c =>
    let s1 := c.blocks.foldl (fun s k => if s.blkUse k == .course then setBlk s k .freed else s) s
    modMedia s1 (fun m => { m with courses := tdel m.courses id })

/-- Move every valid reference of a closed Course away and free its blocks; what waits for its commit is programmed again (R461, R464). -/
def emptyCourse (s : State) (id : Nat) : Option State :=
  match tget s.media.courses id with
  | none => none
  | some c =>
    if c.isOpen then none
    else (placeMoved s ((courseValid s c).filter (fun r => !refWaits s r))).map (fun s1 => dropCourse s1 id)

/-- Free the Courses no valid reference is left in: COLD Courses whose streams are gone (R463), and emptied ones. -/
def freeEmpty (s : State) : State :=
  (s.media.courses.filter (fun c => !c.2.isOpen && (courseValid s c.2).isEmpty &&
      c.2.pages.all (fun g => g.2.2.all (fun r => !(s.stage.writes.any (fun w =>
        w.pieces.any (fun p => !p.2 && pieceRef w p.1 == r))))))).foldl (fun s c => dropCourse s c.1) s

/-- Pages and programs in flight no longer carry the references a test picks: what they name is gone for good. -/
def purgeRefs (m : Media) (gone : Ref → Bool) : Media :=
  let f := fun (rs : List Ref) => rs.map (fun r => if gone r then Ref.filler else r)
  { m with
    courses := tmap m.courses (fun _ c => { c with pages := c.pages.map (fun g => (g.1, g.2.1, f g.2.2)) })
    luns := tmap m.luns (fun _ l => match l.op with
      | .program c x r slc rs => { l with op := .program c x r slc (f rs) }
      | _ => l) }

/-! ## Loss of a block, a die, a channel (R457 to R459, R467) -/

/-- Retire a block: its valid data moves to RELOC, its unfinished data is programmed again, and it joins the Rubble list
(R467, R469). Where the Quarry cannot take the copies, the old ones stay mapped and the block is not freed (R38, R465). -/
def retireBlock (s : State) (id member : Nat) (retire : Bool) : State :=
  match tget s.media.courses id with
  | none => s
  | some c =>
    let mine := c.pages.filter (fun g => g.1 == member)
    let refs := (mine.flatMap (fun g => g.2.2)).filter (fun r => !refWaits s r && refValid s r)
    let pages := fun (s : State) (keep : Option State) => modMedia s (fun m => { m with courses := tmod m.courses id (fun x => { x with
      pages := x.pages.filterMap (fun g => if g.1 != member then some g
        else keep.map (fun s0 => (g.1, g.2.1, g.2.2.map (fun r => if refWaits s0 r then .filler else r))))
      isOpen := x.isOpen && x.role != .reloc }) })
    let use := fun (u : BlkUse) (s : State) => match c.blocks[member]? with
      | some k => setBlk s k u
      | none => s
    match placeMoved (use (if retire then .rubble else .freed) s) refs with
    | some s1 => pages s1 none
    | none => if retire then use .rubble (pages s (some s)) else pages s (some s)

/-- A die goes out of service: every block of it joins the Rubble list, operations in flight end, data not yet committed is programmed
again elsewhere, and the rest is served by rebuild until it is relocated (R458). -/
def dropDie (s0 : State) (l : Nat) : State :=
  let s := modMedia s0 (fun m => { m with courses := tmap m.courses (fun _ c =>
    { c with pages := c.pages.filter (fun g =>
        (c.blocks[g.1]?).map blkLun != some l || (c.groupDone g.1 g.2.1 && g.2.2.all (fun r => !refWaits s0 r))) }) })
  let s1 := modLun s l (fun x => { x with failed := true, op := .idle, suspended := false, waiting := 0 })
  modMedia s1 (fun m => { m with
    rubbleLuns := if m.rubbleLuns.contains l then m.rubbleLuns else m.rubbleLuns ++ [l]
    relocating := if m.relocating.contains l then m.relocating else m.relocating ++ [l] })

/-- A die is declared failed (R458): 1 no response, 2 three fault statuses. -/
def dieFailed (s : State) (l why : Nat) : State :=
  if (match tget s.media.luns l with | some x => x.failed | none => true) then s
  else
    let s1 := logEvent (dropDie s l) logDieFailed [(0, 1, l / 32), (1, 1, l / 4 % 8), (2, 1, l % 4), (3, 1, why)]
    let s2 := { s1 with cal := { s1.cal with
      req0 := if s1.liveLuns.any (fun x => x / 4 == l / 4) then s1.cal.req0 else s1.cal.req0.filter (· != l / 4)
      req1 := s1.cal.req1.filter (fun g => g / 4096 != l) } }
    refresh s2

/-- LUNs that hold data of a Course and do not respond are served by rebuild and relocated (R458, R474). -/
def missingLuns (s : State) : List Nat :=
  ((s.media.courses.flatMap (fun c => c.2.blocks.map blkLun)).eraseDups).filter (fun l => !s.liveLuns.contains l)

/-- A switch pending on a channel is withdrawn (R548, R552): 2 power-fail, 3 channel offline. -/
def withdrawSwitch (s : State) (c : Fin 16) (reason : Nat) : State :=
  let m := s.mason c
  if m.pendSince.isNone then s
  else
    let s1 := setMason s c { m with pendSince := none, patchReq := false }
    if reason == 2 then { s1 with micro := { s1.micro with withdrawn := tput s1.micro.withdrawn c.val m.addr.toNat } }
    else logEvent s1 logMcSwitchEnd [(0, 1, c.val), (1, 1, reason), (2, 2, m.addr.toNat)]

/-- A channel goes offline until the next RESET_N (R96, R459, R552, R575): 1 rail, 2 MSP order, 3 machine check, 4 self-test. -/
def takeOffline (s : State) (ch why : Nat) : State :=
  if s.media.offline.getLsbD ch || !s.media.chPresent.getLsbD ch then s
  else
    let dies := (s.media.luns.filter (fun l => keyCh l.1 == ch && !l.2.failed)).map (·.1)
    let s1 := dies.foldl dropDie s
    let s2 := modMedia s1 (fun m => { m with offline := putBit m.offline ch true })
    let s3 := { s2 with
      doms := s2.doms.setIfInBounds (6 + ch) (idleDomain .offUntilReset)
      cal := { s2.cal with req0 := s2.cal.req0.filter (fun u => u / 8 != ch)
                           req1 := s2.cal.req1.filter (fun g => keyCh (g / 4096) != ch) } }
    let s4 := withdrawSwitch s3 (Fin.ofNat 16 ch) 3
    refresh (commitCandidate (logEvent s4 logChannelOffline [(0, 1, ch), (1, 1, why)]))

end Sys2Proof.Machine
end

