-- ==== Sys2Proof/Machine/CalOps.lean ====
section
/-! DEFINITION. What calibration shares with start-up, power and the registers: the factory record, applied values, requests and
the temperature trigger (R556 to R561, R563, R668). -/

namespace Sys2Proof.Machine

/-! ## Factory record (R668) -/

/-- The 192 bytes of the factory record. -/
def State.factoryRec (s : State) : List Byte := otpBytes s.aon.shadow 0x28 24

/-- CHECK of the factory record holds. -/
def State.factoryOk (s : State) : Bool := fieldAt s.factoryRec 188 4 == (crc32c (bytesAt s.factoryRec 0 188)).toNat

/-- Corrected ADC code (R668). -/
def State.adcCode (s : State) (raw : Nat) : Nat :=
  let gain := if s.factoryOk then fieldAt s.factoryRec 2 2 else 32768
  let off : Int := if s.factoryOk then signed16 (fieldAt s.factoryRec 4 2) else 0
  if raw == 0xFFF then 0xFFF else (min 4094 (max 0 (((raw * gain / 32768 : Nat) : Int) + off))).toNat

/-- Skew of a channel in taps: read, or write. -/
def State.facSkew (s : State) (write : Bool) (ch : Nat) : Int :=
  if s.factoryOk then signed8 (fieldAt s.factoryRec ((if write then 24 else 8) + ch) 1) else 0

/-- Offset of a temperature sensor in 0.25 °C. -/
def State.senseOff (s : State) (i : Nat) : Int :=
  if s.factoryOk then signed16 (fieldAt s.factoryRec (40 + 2 * i) 2) else 0

/-! ## User fields and applied values (R557, R558) -/

/-- A value within bounds. -/
def clampInt (lo hi v : Int) : Int := min hi (max lo v)

/-- A signed byte of the Settings Record, its factory value 0 outside its range. -/
def State.userByte (s : State) (off : Nat) (lo hi : Int) : Int :=
  let v := signed8 (fieldAt s.aon.setRec off 1)
  if lo ≤ v && v ≤ hi then v else 0

/-- HOLD_LOAD_MOHM and HOLD_RECHARGE_MS (Table 17-3). -/
def State.loadMohm (s : State) : Nat :=
  let v := fieldAt s.aon.setRec 24 4
  if 1000 ≤ v && v ≤ 1000000 then v else 10000
def State.rechargeMs (s : State) : Nat :=
  let v := fieldAt s.aon.setRec 22 2
  if 100 ≤ v && v ≤ 60000 then v else 30000

/-- Applied capacitance in 0.1 mF from the measured value in 0.01 mF: 0 while no pin is named (R557, R571). -/
def State.appliedCap (s : State) : Nat :=
  match s.calPin, s.cal.holdMeas with
  | some _, some m => min 0xFFFFF (((m : Int) * (100 + s.userByte 20 (-50) 0) / 1000).toNat)
  | _, _ => 0

/-- PWR_HOLD.CAP follows its terms (R557). -/
def setCap (s : State) : State := { s with energy := { s.energy with cap := s.appliedCap } }

/-- Target of a unit of kind 0: channel × 8 + target. -/
def State.trimMode (s : State) (u : Nat) : Nat := pfMode ((tget s.media.bound (u / 8)).getD [])

/-- Stored trim of a target; none before its first acceptance. -/
def State.trim? (s : State) (u : Nat) : Option Trim :=
  match tget s.cal.trims u with
  | some t => if t.has then some t else none
  | none => none

/-- The target runs at the profile's rate: SDR, trimmed in this boot, or with a stored trim that still fits (R556, R563). -/
def State.fullRate (s : State) (u : Nat) : Bool :=
  let p := (tget s.media.bound (u / 8)).getD []
  pfMode p == 0 ||
  (match s.trim? u with
   | some t => t.accepted || (t.profile == pfId p && decide ((s.gbl.tj.toInt - t.tref).natAbs ≤ 4 * s.sys.calDelta))
   | none => false)

/-- Reduced rate of a profile MODE (Table 17-5). -/
def reducedRate (mode : Nat) : Nat := if mode == 3 then 1600 else 400

/-- Applied RD_DQS or WR_DQ of a target: measured centre, or 64, with the factory and user terms, clamped (R557, R563). -/
def State.trimTap (s : State) (u : Nat) (write : Bool) : Nat :=
  let c : Nat := match s.trim? u with
    | some t => if s.fullRate u then (if write then t.wr else t.rd) else 64
    | none => 64
  (clampInt 0 127 ((c : Int) + s.facSkew write (u / 8) + s.userByte ((if write then 32 else 28) + u / 32) (-16) 16)).toNat

/-- Applied offsets P1 to P4 of a block group (R557). -/
def State.thresholds (s : State) (g : Nat) : List Int :=
  let p := ((tget s.cal.tracks g).map (·.p)).getD [0, 0, 0, 0]
  (List.range 4).map (fun k => clampInt (-64) 63 ((p[k]?).getD 0 + s.userByte (36 + k) (-8) 8))

/-! ## Requests (R192, R559) -/

/-- Units of kind 0: every responding target whose profile has a DDR mode (R556, R575). -/
def State.trimUnits (s : State) : List Nat :=
  ((s.liveLuns.map (· / 4)).eraseDups).filter (fun u => s.trimMode u != 0)

/-- Block groups that hold a closed programmed block on a LUN in service (R559, R564). -/
def State.trackUnits (s : State) : List Nat :=
  ((s.media.courses.filter (fun c => !c.2.isOpen && !c.2.pages.isEmpty)).flatMap (fun c => c.2.blocks)).filterMap (fun b =>
    if s.liveLuns.contains (blkLun b) then some (groupOfBlock b) else none) |>.eraseDups

/-- Block groups that hold a programmed block. -/
def State.programmedGroups (s : State) : List Nat :=
  ((s.media.courses.filter (fun c => !c.2.pages.isEmpty)).flatMap (fun c => c.2.blocks)).map groupOfBlock |>.eraseDups

/-- Add units to a request; one already requested merges (R192). -/
def mergeUnits (l us : List Nat) : List Nat := l ++ us.filter (fun u => !l.contains u)

/-- Request a kind for units; kind 2 has one unit, the device (R192). -/
def requestCal (s0 : State) (kind : Nat) (us : List Nat) : State :=
  let s := noteGen s0 7
  if kind == 0 then { s with cal := { s.cal with req0 := mergeUnits s.cal.req0 us } }
  else if kind == 1 then { s with cal := { s.cal with req1 := mergeUnits s.cal.req1 us } }
  else if s.cal.hold == .idle then { s with cal := { s.cal with hold := .waiting s.gbl.tick } } else s

/-- An explicit request of a kind covers every unit of it (R559); none while HALTED, FAILED or in the power-fail sequence
(R567). -/
def requestKind (s : State) (kind : Nat) : State :=
  if s.stopped || s.energy.pfSeq then s
  else requestCal s kind (if kind == 0 then s.trimUnits else if kind == 1 then s.trackUnits else [0])

/-- Tj has moved by more than CAL_TEMP_DELTA from T_ref, and the unit's 10 minutes are over (R559). -/
def State.tempMoved (s : State) (tref : Int) (holdOff : DWord) : Bool :=
  decide (4 * s.sys.calDelta < (s.gbl.tj.toInt - tref).natAbs) && decide (holdOff.toNat ≤ s.gbl.tick.toNat)

/-- The temperature trigger (R559). -/
def tempTrigger (s : State) : State :=
  if !s.cal.autoEn || s.stopped || s.energy.pfSeq then s
  else
    let u0 := s.trimUnits.filter (fun u => match s.trim? u with | some t => s.tempMoved t.tref t.holdOff | none => false)
    let u1 := s.programmedGroups.filter (fun g =>
      match tget s.cal.tracks g with
      | some t => if t.has then s.tempMoved t.tref t.holdOff && s.liveLuns.contains (g / 4096)
                  else s.trackUnits.contains g && decide (t.holdOff.toNat ≤ s.gbl.tick.toNat)
      | none => s.trackUnits.contains g)
    let s1 := if u0.isEmpty then s else requestCal s 0 u0
    let s2 := if u1.isEmpty then s1 else requestCal s1 1 u1
    if s.cal.holdMeas.isSome && s.tempMoved s.cal.holdTref s.cal.holdOff then requestCal s2 2 [0] else s2

end Sys2Proof.Machine
end

