-- ==== Sys2Proof/Machine/HostMap.lean ====
section
/-! DEFINITION. The map's leaves and their tiers (R323 to R326), the Host Map Store's slots and their checks, scrubs and retirement
(R327 to R331, R345, R347). -/

namespace Sys2Proof.Machine

/-- A bus on which the master stored nothing and no access fails. -/
def noBus : Bus := ⟨[], [], [], []⟩

/-! ## Leaves and their tiers (R323 to R326) -/

/-- LEAF_ID of the leaf of a map unit: partition in bits [39:32], leaf number below (Table 10-3). -/
def leafKey (p u : Nat) : Nat := p * 2 ^ 32 + u / 1024

/-- Generation of a leaf on flash (Table 10-3); 0 before its first write. -/
def State.leafGen (s : State) (l : Nat) : Nat := (tget s.media.leafGen l).getD 0

/-- The Directory: 4 B per leaf of allocated capacity; a leaf covers 1,024 units (R311, R324). -/
def State.dirBytes (s : State) : Nat := 4 * (s.allocUnits / 1024)

/-- Leaves the on-chip map cache holds: its 4 MiB; 512 where 2 MiB of it hold the Directory (R324). -/
def State.sramLeaves (s : State) : Nat := if s.gbl.dramGib.val == 0 then 512 else 1024

/-- Bytes of DRAM outside the host window that the device's own uses leave to the leaf cache: reserve, Directory, write-stage extension
(R324, R326, Table 10-2). -/
def State.leafCache (s : State) : Nat :=
  if s.gbl.dramGib.val == 0 then 0
  else s.dramBytes - s.winSize - 64 * 1048576 - s.dirBytes - (s.stageBytes - 8388608)

/-- Leaves the DRAM leaf cache holds. -/
def State.dramLeaves (s : State) : Nat := s.leafCache / 4096

/-- Where the Directory says that the newest copy of a leaf is (R323). -/
inductive LeafPlace where
  | sram | dram | slot (region index : Nat) | flash
  deriving DecidableEq, Repr

/-- Key of a slot: region and index. -/
def slotKey (region index : Nat) : Nat := region * 1048576 + index

/-- The slot that holds a copy of a leaf. -/
def State.slotOf (s : State) (l : Nat) : Option Nat := (s.hmap.slots.find? (fun x => x.2.1 == l)).map (·.1)

/-- The Directory's entry of a leaf: the tiers are searched in this order (R323). -/
def State.directory (s : State) (l : Nat) : LeafPlace :=
  if s.hmap.sram.any (fun x => x.1 == l) then .sram
  else if s.hmap.dram.any (fun x => x.1 == l) then .dram
  else match s.slotOf l with
    | some k => .slot (k / 1048576) (k % 1048576)
    | none => .flash

/-! ## Slots (R328) -/

/-- Slots of a region (R328). -/
def slotsOf (len : Nat) : Nat := len / 4160

/-- Address of a slot. -/
def slotAddr (r : HmRegion) (k : Nat) : Nat := r.addr + 4160 * k

/-- TAG of a slot: the first 8 bytes of HMAC-SHA-256 over bytes 0 to 4,095 and 4,104 to 4,119, under the key of this start-up (R328). -/
def slotTag (key : BitVec 256) (b : List Byte) : List Byte :=
  (be32 (hmacSha256 key (bytesAt b 0 4096 ++ bytesAt b 4104 16))).take 8

/-- A slot as the device writes it (Table 10-3). The content of a leaf has no format that is an interface (log 29). -/
def leafSlot (s : State) (l : Nat) : List Byte :=
  let leaf := bytesAt (Config.leafContent l (s.leafGen l)) 0 4096
  let ids := leBytes 8 l ++ leBytes 8 (s.leafGen l)
  leaf ++ slotTag s.hmap.key (leaf ++ List.replicate 8 0 ++ ids) ++ ids ++ List.replicate 40 0

/-- The check of R328: TAG recomputed, LEAF_ID the leaf expected, GEN its generation on flash. -/
def leafSlotGood (s : State) (l : Nat) (b : List Byte) : Bool :=
  bytesAt b 4096 8 == slotTag s.hmap.key b && fieldAt b 4104 8 == l && fieldAt b 4112 8 == s.leafGen l

/-- The device may access the regions: attached, not in Orphan, nor in the power-fail sequence (R330, R392). -/
def State.hmapOn (s : State) : Bool := s.hmap.attached && s.mayWriteShared

/-! ## Failed checks (R329) -/

/-- An event of the MAP_STORE page (Table 10-5): 1 MAC failure, 2 failed read, 3 region retired. -/
def hmapEvent (s : State) (kind region slot leaf : Nat) : State :=
  let e := leBytes 8 s.gbl.tick.toNat ++ leBytes 1 kind ++ leBytes 1 region ++ [0, 0] ++ leBytes 4 slot ++ leBytes 8 leaf ++ leBytes 8 0
  let es := s.hmap.events ++ [e]
  { s with hmap := { s.hmap with events := if 256 < es.length then es.drop 1 else es }, log := bumpGen s.log 8 }

/-- Change one region. -/
def modRegion (s : State) (r : Nat) (f : HmRegion → HmRegion) : State :=
  { s with hmap := { s.hmap with regions := s.hmap.regions.mapIdx (fun i x => if i = r then f x else x) } }

/-- Retire a region: it is used no more, and its slots leave the scrub (R329). -/
def retireRegion (s : State) (r slot leaf : Nat) : State :=
  let s1 := modRegion s r (fun x => { x with retired := true })
  hmapEvent { s1 with hmap := { s1.hmap with
    scrubbing := s1.hmap.scrubbing.filter (· != r), slots := s1.hmap.slots.filter (fun x => x.1 / 1048576 != r) } } 3 r slot leaf

/-- A slot read fails, or the slot its check: it is counted, logged and signalled, and its region is scrubbed or retired (R329). -/
def hmapFail (s : State) (r slot leaf : Nat) (busError : Bool) : State :=
  match s.hmap.regions[r]? with
  | none => s
  | some x =>
    let s1 := modRegion (if busError then countBus { s with hmap := { s.hmap with busErrors := s.hmap.busErrors + 1 } }
      else { s with hmap := { s.hmap with macFails := s.hmap.macFails + 1 } }) r (fun x => { x with fails := x.fails + 1 })
    let s2 := setIrq (hmapEvent s1 (if busError then 2 else 1) r slot leaf) irqHmap
    if busError || 16 ≤ x.fails + 1 then refresh (retireRegion s2 r slot leaf)
    else
      refresh { s2 with hmap := { s2.hmap with
        scrubbing := if s2.hmap.scrubbing.contains r then s2.hmap.scrubbing else s2.hmap.scrubbing ++ [r] } }

/-- The device reads a slot and makes the check of R328; what fails is handled by R329. A slot that the master wrote, at whatever
moment, fails here (R347). -/
def readSlot (s : State) (b : Bus) (k l : Nat) : State :=
  match s.hmap.regions[k / 1048576]? with
  | none => s
  | some r =>
    match shReadN s b (slotAddr r (k % 1048576)) 4160 with
    | none => hmapFail s (k / 1048576) (k % 1048576) l true
    | some d => if leafSlotGood s l d then s else hmapFail s (k / 1048576) (k % 1048576) l false

/-- The device writes a whole slot with the leaf it is to hold (R328). -/
def fillSlot (s : State) (k l : Nat) : State :=
  match s.hmap.regions[k / 1048576]? with
  | none => s
  | some r =>
    let s1 := shWrite s (slotAddr r (k % 1048576)) (leafSlot s l)
    { s1 with hmap := { s1.hmap with slots := tput s1.hmap.slots k (l, s.leafGen l) } }

/-- The n-th slot of the regions in use, counted from the first. -/
def nthSlot : List (Nat × HmRegion) → Nat → Option Nat
  | [], _ => none
  | (i, r) :: rs, n => if r.retired then nthSlot rs n else if n < r.slots then some (slotKey i n) else nthSlot rs (n - r.slots)

/-- A clean leaf leaves the device's own tiers and takes the next slot of the Host Map Store, where one is attached (R323). -/
def placeLeaf (s : State) (l : Nat) : State :=
  let rs := s.hmap.regions.mapIdx (fun i r => (i, r))
  let n := (rs.map (fun x => if x.2.retired then 0 else x.2.slots)).sum
  if !s.hmapOn || n == 0 || (s.slotOf l).isSome then s
  else
    match nthSlot rs (s.hmap.nextSlot % n) with
    | none => s
    | some k => fillSlot { s with hmap := { s.hmap with nextSlot := s.hmap.nextSlot + 1 } } k l

/-- A leaf is written to flash: a new generation, and no slot holds a copy of it any more (R323, R453). -/
def writeLeaf (s : State) (l : Nat) : State :=
  { s with media := { s.media with leafGen := tput s.media.leafGen l (s.leafGen l + 1) }
           hmap := { s.hmap with slots := s.hmap.slots.filter (fun x => x.2.1 != l) } }

/-- A leaf leaves the lowest of the device's own tiers: a dirty one is written to flash first, since no slot ever holds it (R323). -/
def spillLeaf (host : Bool) (s : State) (x : Nat × Bool) : State :=
  let s1 := if x.2 then writeLeaf s x.1 else s
  if host then placeLeaf s1 x.1 else s1

/-- The tiers keep to their sizes: what on-chip SRAM cannot hold goes to DRAM, and what DRAM cannot hold leaves (R323, R324, R326). -/
def balance (s : State) (host : Bool) : State :=
  let out := s.hmap.sram.drop s.sramLeaves
  let d := out ++ s.hmap.dram
  let s1 := { s with hmap := { s.hmap with sram := s.hmap.sram.take s.sramLeaves, dram := d.take s.dramLeaves } }
  (d.drop s.dramLeaves).foldl (spillLeaf host) s1

/-- A leaf is in on-chip SRAM, the newest in use; `dirty`: its content is not on flash yet. A slot's copy of a dirty leaf is void. -/
def holdLeaf (s : State) (l : Nat) (dirty : Bool) : State :=
  let d := dirty || (s.hmap.sram ++ s.hmap.dram).any (fun x => x.1 == l && x.2)
  { s with hmap := { s.hmap with
      sram := (l, d) :: s.hmap.sram.filter (fun x => x.1 != l)
      dram := s.hmap.dram.filter (fun x => x.1 != l)
      slots := if d then s.hmap.slots.filter (fun x => x.2.1 != l) else s.hmap.slots } }

/-- A leaf is looked up: on-chip SRAM, DRAM, the Host Map Store with its check, flash (R323, R329). -/
def takeLeaf (b : Bus) (s : State) (l : Nat) : State :=
  let s1 := match s.directory l with
    | .slot r i => if s.hmapOn then readSlot s b (slotKey r i) l else s
    | _ => s
  balance (holdLeaf s1 l false) true

/-- The leaves of the units a command touches (R345). -/
def takeLeaves (s : State) (b : Bus) (p first len : Nat) : State :=
  let a := first / 4194304
  (List.range ((first + len + 4194303) / 4194304 - a)).foldl (fun s i => takeLeaf b s (p * 2 ^ 32 + (a + i))) s

/-- A committed change of the map: its leaf is dirty until it is written to flash. -/
def dirtyLeaf (s : State) (l : Nat) : State := balance (holdLeaf s l true) false

/-- A Plinth writes every dirty leaf to flash. -/
def flushLeaves (s : State) : State :=
  let s1 := ((s.hmap.sram ++ s.hmap.dram).filter (·.2)).foldl (fun s x => writeLeaf s x.1) s
  { s1 with hmap := { s1.hmap with sram := s1.hmap.sram.map (fun x => (x.1, false)), dram := s1.hmap.dram.map (fun x => (x.1, false)) } }

/-- The leaves of a partition that is gone leave every tier. -/
def dropLeaves (s : State) (p : Nat) : State :=
  let other := fun (l : Nat) => l / 2 ^ 32 != p
  { s with media := { s.media with leafGen := s.media.leafGen.filter (fun x => other x.1) }
           hmap := { s.hmap with sram := s.hmap.sram.filter (fun x => other x.1), dram := s.hmap.dram.filter (fun x => other x.1)
                                 slots := s.hmap.slots.filter (fun x => other x.2.1) } }

/-! ## The scrub (R329) -/

/-- The scrub of one slot: it is read, and refilled from flash where its check fails and its region is still in use. -/
def scrubSlot (b : Bus) (s : State) (x : Nat × Nat × Nat) : State :=
  let s1 := readSlot s b x.1 x.2.1
  if s1.hmap.macFails == s.hmap.macFails || ((s1.hmap.regions[x.1 / 1048576]?).map (·.retired)).getD true then s1
  else fillSlot s1 x.1 x.2.1

/-- HMAP_SCRUB: the scrub of a region reads every slot filled there and refills the failing ones from flash; a region that fails too
often is retired (R329). -/
def execHmapScrub (bus : Bus) (s : State) : Host.Outcome State Fault Refusal :=
  match s.hmap.scrubbing with
  | [] => .next s
  | r :: _ =>
    if !s.hmapOn then .next s
    else
      let s0 := absorbBus s bus
      let s1 := (s0.hmap.slots.filter (fun x => x.1 / 1048576 == r)).foldl (scrubSlot bus) s0
      .next (refresh { s1 with hmap := { s1.hmap with scrubbing := s1.hmap.scrubbing.filter (· != r) } })

/-! ## Attachment (R327, R330, R331, R346) -/

/-- One region descriptor: address, length, flags. -/
def regionAt (d : List Byte) (i : Nat) : SglElem := ⟨fieldAt d (16 * i) 8, fieldAt d (16 * i + 8) 4, fieldAt d (16 * i + 12) 4⟩

/-- The descriptors keep the rules of R327. -/
def regionsOk (es : List SglElem) : Bool :=
  es.all (fun e => e.addr % 4096 == 0 && decide (66560 ≤ e.len)) &&
  (List.range es.length).all (fun i => match es[i]? with
    | some e => e.flags == (if i + 1 == es.length then 8 else 0) &&
        (List.range i).all (fun k => match es[k]? with
          | some x => decide (x.addr + x.len ≤ e.addr) || decide (e.addr + e.len ≤ x.addr)
          | none => true)
    | none => true)

/-- The regions whose first 64 bytes could be read (R327). The accepted ones are numbered from 0 in the order of their descriptors
(DESIGN CHOICE, log 29: the spec does not say which index a region after a refused one takes). -/
def acceptRegions (s : State) (b : Bus) (es : List SglElem) : List HmRegion :=
  (es.filter (fun e => (shReadN s b e.addr 64).isSome)).map (fun e => ⟨e.addr, slotsOf e.len, false, 0⟩)

/-- The store is attached with every slot empty; the page starts anew (R327, R331). -/
def attachMap (s : State) (rs : List HmRegion) : State :=
  { s with hmap := { s.hmap with attached := true, regions := rs, macFails := 0, busErrors := 0, events := [], scrubbing := [], slots := []
                                 nextSlot := 0 }
           log := bumpGen s.log 8 }

/-- The device uses the Host Map Store no more: a scrub is abandoned and no slot is read or written (R330, R346). The page and the
counts stand until the next ATTACH_MAP_STORE (Table 6-25, R331, R748). -/
def detachMap (s : State) : State :=
  refresh { s with hmap := { s.hmap with attached := false, scrubbing := [], slots := [] }
                   log := if s.hmap.attached then bumpGen s.log 8 else s.log }

/-- The MAP_STORE page (Tables 10-4 and 10-5). -/
def State.pageMap (s : State) : List Byte :=
  let h := s.hmap
  let r := h.regions.flatMap (fun x =>
    leBytes 8 x.addr ++ leBytes 4 x.slots ++ leBytes 1 (if x.retired then 2 else if h.attached then 1 else 0) ++
    leBytes 1 (satTo 255 x.fails) ++ [0, 0])
  leBytes 4 h.regions.length ++ leBytes 4 h.events.length ++ leBytes 8 h.macFails ++ leBytes 8 h.busErrors ++ leBytes 8 0 ++
  bytesAt r 0 1024 ++ h.events.flatten

end Sys2Proof.Machine
end

