-- ==== Sys2Proof/Machine/Stage.lean ====
section
/-! DEFINITION. The write stage: visible content, visibility, acknowledgment, commit, and the commands that wait for them
(R33 to R37, R332 to R337, R386 to R389, R245, R473). -/

namespace Sys2Proof.Machine

/-! ## Visible content (R334) -/

/-- The newest version of a unit in the stage: its place and bytes. -/
def stageVersion (ws : List VWrite) (p u : Nat) : Option (Nat × Mem) :=
  ws.foldl (fun a w =>
    if w.part = p then
      match w.pieces.findSome? (fun x => match x.1 with | .unit v _ b => if v = u then some b else none | _ => none) with
      | some b => some (w.order, b)
      | none => a
    else a) none

/-- The newest committed version of a unit. -/
def State.unitCommitted (s : State) (p u : Nat) : Option (Nat × Mem) := (tget s.parts p).bind (fun q => tget q.units u)

/-- The newest visible content of a unit: the later of the stage's and the flash's version (R334). -/
def unitNow (s : State) (p u : Nat) : Mem :=
  match stageVersion s.stage.writes p u, s.unitCommitted p u with
  | some (o, b), some (o', b') => if o < o' then b' else b
  | some (_, b), none => b
  | none, some (_, b) => b
  | none, none => []

/-- Logical block size of a partition. -/
def Part.lbs (p : Part) : Nat := if p.lbs4k then 4096 else 512

/-- Logical blocks of a partition. -/
def Part.blocks (p : Part) : Nat := if p.lbs4k then p.capUnits else p.capUnits * 8

/-- First unit, and the number of units, a byte range touches. -/
def unitSpan (first len : Nat) : Nat × Nat := (first / 4096, (first + len + 4095) / 4096 - first / 4096)

/-- Stage need of a range of blocks: every unit touched for WRITE, the partly covered ones otherwise (R332). -/
def rangeNeed (write : Bool) (first len : Nat) : Nat :=
  let sp := unitSpan first len
  let whole := (first + len) / 4096 - (first + 4095) / 4096
  4096 * (if write then sp.2 else sp.2 - whole)

/-- Overwrite bytes `[lo, lo + len)` of a unit's content. -/
def overlay (b : Mem) (lo : Nat) (bs : List Byte) : Mem := memWriteL b lo bs

/-- Zero bytes `[lo, hi)` of a unit's content. -/
def zeroRange (b : Mem) (lo hi : Nat) : Mem := b.filter (fun c => !(decide (lo ≤ c.1) && decide (c.1 < hi)))

/-- Pieces of a WRITE: a version of every unit it touches, merged with the newest visible content (R335). -/
def writePieces (s : State) (p first : Nat) (data : List Byte) : List (Piece × Bool) :=
  let sp := unitSpan first data.length
  (List.range sp.2).map (fun i =>
    let u := sp.1 + i
    let lo := max first (u * 4096)
    let hi := min (first + data.length) (u * 4096 + 4096)
    (.unit u true (overlay (unitNow s p u) (lo - u * 4096) ((data.drop (lo - first)).take (hi - lo))), false))

/-- Pieces of a WRITE_ZEROES or TRIM: a whole unit becomes unmapped, a part is merged (R337). -/
def zeroPieces (s : State) (p first len : Nat) : List (Piece × Bool) :=
  let sp := unitSpan first len
  (List.range sp.2).map (fun i =>
    let u := sp.1 + i
    let lo := max first (u * 4096) - u * 4096
    let hi := min (first + len) (u * 4096 + 4096) - u * 4096
    if lo == 0 && hi == 4096 then (.unit u false [], false)
    else (.unit u true (zeroRange (unitNow s p u) lo hi), false))

/-- Pieces of an append: runs that end at 4 KiB boundaries of the stream. -/
def appendPieces (key : Nat) : Nat → Nat → Nat → List (Piece × Bool)
  | 0, _, _ => []
  | fuel + 1, off, len =>
    if len == 0 then []
    else
      let k := min len (4096 - off % 4096)
      (.bytes key off k, false) :: appendPieces key fuel (off + k) (len - k)

/-! ## Opcode classes -/

/-- The commands READ_ONLY refuses (R296). -/
def mediaOps : List Nat :=
  [opWrite, opWriteZeroes, opTrim, opStreamOpen, opStreamAppend, opStreamMark, opStreamClose, opStreamTransfer]

/-- Writes and appends in the sense of R33: what takes a place in the visibility order. -/
def placeOps : List Nat := [opWrite, opWriteZeroes, opTrim, opStreamAppend, opStreamMark]

/-- A job's command. -/
def Job.op (j : Job) : Nat := eOp j.bytes

/-- A write or append that is not yet visible. -/
def Job.notVisible (j : Job) : Bool :=
  placeOps.contains j.op && match j.phase with | .visible _ => false | _ => true

/-! ## Order within a queue (R243) -/

/-- The stream a stream command addresses, if it names one: appends, marks and closes keep the key their handle stood for at
consumption (R302). -/
def Job.stream (j : Job) : Option Nat :=
  let e := j.bytes
  if j.op == opStreamAppend || j.op == opStreamMark || j.op == opStreamClose then (if j.mark == 0 then none else some j.mark)
  else if (j.op == opStreamRead || j.op == opStreamOpen) && eStream e != 0 then some (sKey (ePart e) (eStream e))
  else none

/-- The logical-block range of a block command, and whether it writes. -/
def Job.range (j : Job) : Option (Nat × Nat × Nat × Bool) :=
  let e := j.bytes
  if [opRead, opWrite, opWriteZeroes, opTrim].contains j.op then some (ePart e, eLba e, eLen e, j.op != opRead) else none

/-- FENCE and FLUSH conflict with everything. -/
def Job.barrier (j : Job) : Bool := j.op == opFence || j.op == opFlush

/-- Two entries of one queue conflict (R243). -/
def conflict (a b : Job) : Bool :=
  a.barrier || b.barrier || (a.stream.isSome && a.stream == b.stream) ||
  (match a.range, b.range with
   | some (p, l, n, w), some (p', l', n', w') => p == p' && (w || w') && decide (l < l' + n') && decide (l' < l + n)
   | _, _ => false)

/-- Destination partition and source of a STREAM_TRANSFER (R284). -/
def Job.transfer (j : Job) : Option (Nat × Nat × Nat × Nat) :=
  let e := j.bytes
  if j.op == opStreamTransfer then some (ePart e, eLba e % 4096, bitsOf (eAttr e) 20 16, eStream e) else none

/-- The stream an entry addresses; for a STREAM_TRANSFER that resumes, the destination stream (R284). -/
def Job.streamAt (s : State) (j : Job) : Option Nat :=
  match j.transfer with
  | some (p, m, sp, n) => (s.streams.tbl.find? (fun x => sPart x.1 == p && (match x.2.src with
      | some y => y.member == m && y.part == sp && y.stream == n
      | none => false))).map (·.1)
  | none => j.stream

/-- Two entries of one queue address the same stream (R243). -/
def sameStream (s : State) (a b : Job) : Bool :=
  ((a.streamAt s).isSome && a.streamAt s == b.streamAt s) || (a.transfer.isSome && a.transfer == b.transfer)

/-- The entry has taken effect as far as later entries of its queue can tell: a write that is visible. -/
def Job.placed (j : Job) : Bool := placeOps.contains j.op && match j.phase with | .visible _ => true | _ => false

/-- The entry names another member (R297). -/
def fwdAway (s : State) (e : List Byte) : Bool := fFwd e && !(s.cas.enumerated && eMember e == s.cas.memberId)

/-- An entry takes effect on this device, or on another member (R297): only entries with the same place can name the same data. -/
def Job.place (s : State) (j : Job) : Option Nat := if fwdAway s j.bytes then some (eMember j.bytes) else none

/-- Two entries of one queue conflict, wherever they execute (R243): a FENCE orders the entries of its own member only (R245), a FLUSH
conflicts with every other entry, and an entry whose bytes are read again may turn out to be any (log 15). -/
def conflictAt (s : State) (k j : Job) : Bool :=
  k.phase == .crcWait || (if k.place s == j.place s then conflict k j || sameStream s k j else k.op == opFlush || j.op == opFlush)

/-- An earlier conflicting entry of the same queue has not taken effect (R243). -/
def waits (s : State) (j : Job) : Bool :=
  s.queues.jobs.any (fun k => k.q == j.q && (k.origin.map (fun o => (o.1, o.2.2.1))) == (j.origin.map (fun o => (o.1, o.2.2.1))) &&
    decide (k.order < j.order) && !k.placed && conflictAt s k j)

/-- The range of blocks lies in a block partition (Table 9-3). -/
def rangeOk (s : State) (e : List Byte) : Bool :=
  match tget s.parts (ePart e) with
  | some p => !p.isStream && 1 ≤ eLen e && decide (eLba e + eLen e ≤ p.blocks)
  | none => false

/-- Stage need of an entry executed here (R332); an entry that its range or length refuses needs none. -/
def entryNeed (s : State) (e : List Byte) : Nat :=
  let op := eOp e
  let lbs := ((tget s.parts (ePart e)).map Part.lbs).getD 512
  if op == opStreamAppend then (if eLen e ≤ maxXfer then (eLen e + 4095) / 4096 * 4096 else 0)
  else if op == opWrite then (if rangeOk s e && eLen e * lbs ≤ maxXfer then rangeNeed true (eLba e * lbs) (eLen e * lbs) else 0)
  else if op == opWriteZeroes || op == opTrim then
    (if rangeOk s e then rangeNeed false (eLba e * lbs) (eLen e * lbs) else 0)
  else 0

/-! ## Completion of waiting commands -/

/-- The Ashlar or Capstone with this number of a stream is committed. -/
def State.recordCommitted (s : State) (key seq : Nat) : Bool := ((s.record? key seq).map (·.committed)).getD false

/-- FLUSH: every write in its scope that was visible at its consumption is committed (Table 9-3). -/
def flushDone (s : State) (j : Job) : Bool :=
  !(s.stage.writes.any (fun w => decide (w.order < j.mark) && (bitOf (eAttr j.bytes) 0 || w.part == ePart j.bytes))) && !waits s j &&
  !(s.cas.spanOps.any (fun o => o.job == some j.order))

/-- FENCE: every predecessor write or append is visible and every other predecessor, a STREAM_MARK too, has completed (R245). -/
def fenceDone (s : State) (j : Job) : Bool :=
  s.queues.jobs.all (fun k => !decide (k.order < j.order) || (k.placed && k.op != opStreamMark))

/-- A queue whose scan a FENCE holds may go on once it has completed (R245). -/
def releaseFence (s : State) (q : Nat) : State :=
  modQueue s q (fun k => match k.scan with | .fenced _ => { k with scan := .turn } | _ => k)

/-- Port of the ENTRY packet: the Keystone sends it to the target, any other origin to the Keystone (R622). -/
def entryPort (s : State) (target : Nat) : Option Nat :=
  if s.keystone then
    (match tget s.cas.roster target, s.route target with
     | some r, some n => if r.state == 1 && r.present && n < 3 then some n else none
     | _, _ => none)
  else if (s.cas.ports[0]).trained then some 0 else none

/-- Forward an entry to its member (R297, R622). -/
def forward (s : State) (j : Job) : State :=
  let e := j.bytes
  match (if s.cas.enumerated then entryPort s (eMember e) else none) with
  | none => complete s j { status := scMemberGone }
  | some n =>
    let txn := s.cas.nextTxn
    let p : Packet := ⟨1, 0, true, eMember e, s.srcId, txn, 0, e ++ leBytes 2 j.q ++ leBytes 4 j.count.toNat⟩
    let s1 := setJob s { j with phase := .forwarded, need := 0 }
    sendPort { s1 with cas := { s1.cas with nextTxn := txn + 1, fwds := s1.cas.fwds ++ [⟨s.srcId, j.q, j.count, eMember e, txn⟩] } } n p

/-- An entry ends with SC_ABORTED; the buffers of a read are undefined (Table 9-11). -/
def abortEntry (s : State) (j : Job) : State :=
  complete (if (dataOf s j.bytes).1 == .toHost then spoil s j.segs else s) j { status := scAborted }

/-- Complete a job that waits for a condition, if it holds now (R245, R568, Table 9-3). -/
def settleJob (s : State) (j : Job) : State :=
  match j.phase with
  | .running =>
    if j.op == opFlush then (if flushDone s j then complete s j { status := scOk, onMedia := true } else s)
    else if j.op == opFence then (if fenceDone s j then releaseFence (complete s j { status := scOk }) j.q else s)
    else s
  | .record seq =>
    if s.recordCommitted j.mark seq then
      (match s.strm? j.mark with
       | some t =>
         if j.op == opStreamOpen then
           complete s j { status := scOk, onMedia := true, result := j.result, cr0 := t.endOff, cr1 := t.newestAshlar }
         else complete s j { status := scOk, onMedia := true, result := j.result, ashlar := j.ashlar, cr0 := seq }
       | none => s)
    else s
  | .roomWait =>
    let n := entryNeed s j.bytes
    if s.stageUsed - j.need + n ≤ s.stageBytes then setJob s { j with need := n, phase := .ready } else s
  | .sending => if waits s j then s else forward s j
  | .calibrating =>
    if (s.calDue &&& (eAttr j.bytes)) == 0 then
      complete s j { status := scOk, onMedia := true, cr0 := s.cal.disagree.toNat + 0x100 * s.cal.degraded.toNat }
    else s
  | _ => s

/-- Complete every job whose condition has come about, in consumption order. -/
def settleJobs (s : State) : State := s.queues.jobs.foldl settleJob s

/-! ## Acknowledgment and commit -/

/-- Complete the command of a visible write (R34, R288). -/
def ackJob (s : State) (w : VWrite) (media : Bool) : State :=
  match s.queues.jobs.find? (fun j => j.phase == .visible w.order) with
  | none => s
  | some j => complete s j { status := scOk, onMedia := media, result := j.result, ashlar := j.ashlar }

/-- The highest acknowledged end of a stream follows its acknowledged pieces. -/
def ackStreams (s : State) (w : VWrite) : State :=
  w.pieces.foldl (fun s x =>
    match x.1 with
    | .bytes k o n => { s with streams := { s.streams with
        tbl := tmod s.streams.tbl k (fun t => { t with ackEnd := max t.ackEnd (o + n) }) } }
    | _ => s) s

/-- Acknowledge a write on receipt (R34, R386). -/
def ackReceipt (s : State) (w : VWrite) : State :=
  let s1 := { s with
    stage := { s.stage with writes := s.stage.writes.map (fun x => if x.order = w.order then { x with acked := true } else x) }
    parts := tmod s.parts w.part (fun p => { p with receiptSincePlinth := true }) }
  ackJob (ackStreams s1 w) w false

/-- Acknowledge the withheld writes the horizon allows, in visibility order, up to the first it does not (R386). -/
def ackLoop : List VWrite → State → State
  | [], s => s
  | w :: ws, s =>
    if w.acked || w.onMedia then ackLoop ws s
    else if ((s.uBytes + leftOf s w : Nat) : Int) ≤ (s.energy.h : Int) - (marginM : Int) then ackLoop ws (ackReceipt s w)
    else s

/-- The device re-examines the first withheld write; never in the power-fail sequence (R386, R392), and in Orphan no
acknowledgment can be issued (R116). -/
def ackPass (s : State) : State := if s.mayWriteShared then ackLoop s.stage.writes s else s

/-- A write is committed: every piece of it is (R37). -/
def writeCommitted (s : State) (w : VWrite) : Bool := w.pieces.all (pieceDone s)

/-- Committed writes leave the stage; those not yet acknowledged are acknowledged on media (R34, R37). -/
def finishWrites (s : State) : State :=
  let fin := s.stage.writes.filter (writeCommitted s)
  let s1 := { s with stage := { s.stage with writes := s.stage.writes.filter (fun w => !writeCommitted s w) } }
  fin.foldl (fun s w => if w.acked then s else ackJob (ackStreams s w) w true) s1

/-- End of life: S below Q_FLOOR + N_oc × W (R473). -/
def State.eolDue (s : State) : Bool :=
  s.sys.present && !s.media.foreign && s.gbl.recovered && !s.sys.eol &&
  decide (s.spareLeft < s.qFloor + s.nOpen * s.width)

/-- Enter end of life once every write already admitted is visible: seal the open streams with EOL and report READ_ONLY (R473). -/
def eolCheck (s : State) : State :=
  if !s.eolDue || s.energy.pfSeq || s.queues.jobs.any (·.notVisible) then s
  else
    let s1 := sealOpen s afEol cfEol
    refresh { s1 with sys := { s1.sys with eol := true }, gbl := { s1.gbl with roEol := true } }

/-- I/O fetch is held after a host-facing reset until the commands and commits it left have finished (R106, R118). -/
def releaseHold (s : State) : State :=
  if s.pcie.holdIo && !(s.queues.jobs.any (·.detached)) && !(s.stage.writes.any (fun w => decide (w.order < s.pcie.holdMark)))
  then { s with pcie := { s.pcie with holdIo := false } } else s

/-- Catch-up: acknowledged data is left that H − M does not cover (R388). -/
def State.uncovered (s : State) : Bool :=
  decide (0 < s.uBytes) && decide ((s.energy.h : Int) - (marginM : Int) < (s.uBytes : Int))

/-- Catch-up ends once U ≤ H − M, or nothing acknowledged is left (R388). -/
def leaveCatch (s : State) : State :=
  if s.energy.catchUp && !s.uncovered then noteGen { s with energy := { s.energy with catchUp := false } } 6 else s

/-- What follows a change of the stage or of H: commits, acknowledgments, PWR_SAFE, ON_MEDIA, waiting commands, end of life. -/
def settle (s : State) : State :=
  releaseHold (eolCheck (settleJobs (leaveCatch (setOnMedia (setSafe (ackPass (finishWrites s)))))))

/-- Mark the pieces a test picks as committed. -/
def markPieces (s : State) (f : VWrite → Piece → Bool) : State :=
  { s with stage := { s.stage with writes := s.stage.writes.map (fun w =>
      { w with pieces := w.pieces.map (fun x => if f w x.1 then (x.1, true) else x) }) } }

/-- Store a committed version of a unit unless a newer one is committed (R40); the map's leaf changes with it. -/
def commitUnit (s : State) (p u o : Nat) (b : Mem) : State :=
  { dirtyLeaf s (leafKey p u) with parts := tmod s.parts p (fun q =>
      match tget q.units u with
      | some v => if o < v.1 then q else { q with units := tput q.units u (o, b) }
      | none => { q with units := tput q.units u (o, b) }) }

/-- Offset after the last byte for which every earlier byte is committed (R43). -/
def commitEnd (s : State) (key endOff : Nat) : Nat :=
  (s.stage.writes.flatMap (fun w => w.pieces.filterMap (fun x =>
    match x.1 with
    | .bytes k o _ => if k = key && !x.2 then some o else none
    | _ => none))).foldl min endOff

/-- What a reference holds becomes committed (R36, R37). -/
def commitRef (s : State) (r : Ref) : State :=
  match r with
  | .unit p u o =>
    match s.stage.writes.find? (fun w => w.order == o && w.part == p) with
    | none => s
    | some w =>
      match w.pieces.findSome? (fun x => match x.1 with | .unit v _ b => if v = u && !x.2 then some b else none | _ => none) with
      | none => s
      | some b => commitUnit (markPieces s (fun w x => pieceRef w x == r)) p u o b
  | .bytes k _ _ =>
    let s1 := markPieces s (fun w x => pieceRef w x == r)
    (match s1.strm? k with
     | some t => setStream s1 k { t with commEnd := commitEnd s1 k t.endOff }
     | none => s1)
  | .record k q =>
    let s1 := markPieces s (fun _ x => match x with | .record k' q' => k' == k && q' == q | _ => false)
    (match s1.strm? k with
     | some t => setStream s1 k { t with recs := t.recs.map (fun x => if x.kind != 4 && x.seq == q then { x with committed := true } else x) }
     | none => s1)
  | .summary => { s with energy := { s.energy with summaryDone := s.energy.summaryDone + 1 } }
  | .filler => s

/-- Commit every page of a Course that R36 counts as committed. -/
def commitCourse (s : State) (id : Nat) : State :=
  match tget s.media.courses id with
  | none => s
  | some c =>
    (c.pages.filter (fun g => c.groupDone g.1 g.2.1 && rowCovered s id c g.2.1)).foldl
      (fun s g => g.2.2.foldl commitRef s) s

/-- A write takes its place in the visibility order and becomes visible; its job waits for its acknowledgment (R33, R333, R386). -/
def makeVisible (s : State) (j : Job) (part : Nat) (media : Bool) (first blocks : Nat) (pieces : List (Piece × Bool)) : State :=
  let o := s.stage.nextOrder
  let w : VWrite :=
    { order := o, part := part, q := j.q, count := j.count, need := j.need, onMedia := media, acked := false
      firstLba := first, blocks := blocks, pieces := pieces }
  setJob { s with stage := { writes := s.stage.writes ++ [w], nextOrder := o + 1 } } { j with phase := .visible o }

/-- A write is acknowledged on media: FLAGS.ACK_MEDIA, or the partition's ACK_POLICY as the write's consumption found it (R288,
Table 9-10). -/
def ackOnMedia (j : Job) : Bool := fMedia j.bytes || j.policy

end Sys2Proof.Machine
end

