-- ==== Sys2Proof/Machine/Flash.lean ====
section
/-! DEFINITION. Array operations on LUNs: what the scheduler may issue (R454 to R456, R499, R751, R391 to R395), suspend and
resume (R477, R501), status polls (R500, R467, R468), and cut operations (R532, R541). -/

namespace Sys2Proof.Machine

/-! ## What may be programmed -/

/-- A reference that is already programmed or being programmed. -/
def issued (s : State) (r : Ref) : Bool :=
  s.media.luns.any (fun l => match l.2.op with | .program _ _ _ _ refs => refs.contains r | _ => false) ||
  s.media.courses.any (fun c => c.2.pages.any (fun g => g.2.2.contains r))

/-- End of the span an Ashlar or Fracture covers; a Capstone's STREAM_END. -/
def recEnd (b : List Byte) : Nat :=
  if fieldAt b 0 1 == 1 then fieldAt b 16 8 + fieldAt b 24 4
  else if fieldAt b 0 1 == 3 then fieldAt b 16 8 + fieldAt b 24 8
  else fieldAt b 24 8

/-- A seal record may be programmed: its span is committed, and every record before it is committed, or lies in the same block or page
before it, so that no loss leaves it without its predecessors (R751). `here`: what the block and the page hold. -/
def recordReady (s : State) (here : List Ref) (key seq : Nat) : Bool :=
  match s.strm? key, s.record? key seq with
  | some t, some r =>
    let before := (t.recs.filter (fun x => x.kind != 4 && decide (x.seq < seq)))
    !r.committed && (r.kind != 1 || decide (recEnd r.bytes ≤ t.commEnd)) &&
    before.all (fun x => x.committed || here.contains (.record key x.seq))
  | _, _ => false

/-- The reference names data that waits for its first program (R453, R467). -/
def pendingRef (s : State) (here : List Ref) (r : Ref) : Bool :=
  match r with
  | .filler => true
  | .summary => s.energy.pfSeq && decide (0 < s.energy.summaryLeft)
  | .record k q => recordReady s here k q && !issued s r
  | _ => !issued s r && s.stage.writes.any (fun w => w.pieces.any (fun p =>
      !p.2 && pieceRef w p.1 == r)) && !s.energy.pfLost.contains r

/-- One list begins with the other. -/
def isPrefix : List Ref → List Ref → Bool
  | [], _ => true
  | _, [] => false
  | a :: as, b :: bs => a == b && isPrefix as bs

/-- In the power-fail sequence and in catch-up the acknowledged writes come first, in visibility order: a page takes the next of its
class, the first of all among them. The protective step programs nothing else (R388, R391, Table 4-6). -/
def promisedFirst (s : State) (cold : Bool) (here refs : List Ref) : Bool :=
  if s.energy.pfSeq || s.energy.catchUp || 4 ≤ s.gbl.thermStep.val then
    let next := s.promised.filter (fun r => !issued s r && !s.energy.pfLost.contains r &&
      match r with | .record k q => recordReady s here k q | _ => true)
    let data := refs.filter (· != .filler)
    isPrefix data (next.filter (fun r => refCold r == cold)) && (data.isEmpty || next.head?.all data.contains)
  else true

/-- Programs and erases in flight on a channel, which the thermal steps limit (Table 4-6). -/
def opsOn (s : State) (ch : Nat) : Nat :=
  (s.media.luns.filter (fun l => keyCh l.1 == ch && l.2.op != .idle && !l.2.suspended)).length

/-- A channel takes one more program or erase: as the thermal step allows, and in the power-fail sequence at most 4 (R112, R391,
Table 12-1). -/
def chFree (s : State) (ch : Nat) : Bool :=
  let n := progLimit s.gbl.thermStep.val (s.chLuns ch)
  decide (opsOn s ch < (if s.energy.pfSeq then min 4 n else n))

/-- The blocks a new Course takes: W of them on W LUNs, each its LUN's block with the lowest erase count, one per channel
where at least W channels have one (R454, R464); a Footing Course takes erased Footing blocks only (R426). -/
def blocksOk (s : State) (foot : Bool) (blocks : List Nat) : Bool :=
  let luns := blocks.map blkLun
  let chs := ((s.liveLuns.map keyCh).eraseDups).length
  blocks.length == s.width && luns.eraseDups.length == luns.length &&
  blocks.all (fun k => s.liveLuns.contains (blkLun k) && s.blkUse k == (if foot then .footing else .quarry) &&
    decide (k % 1048576 < pfBlocks (s.profOf (blkLun k))) && !s.media.footDropped.contains k &&
    (foot || match quarryBlock s (blkLun k) with | some b => s.blkErases k == s.blkErases b | none => false)) &&
  (decide (chs < s.width) || ((luns.map keyCh).eraseDups).length == luns.length)

/-- The Course's role takes these references (R426, R453). -/
def roleOk (s : State) (role : Role) (refs : List Ref) : Bool :=
  match role with
  | .hot => s.gbl.fullService && refs.all (fun r => match r with | .unit .. => true | .filler => true | _ => false)
  | .cold => s.gbl.fullService && refs.all (fun r => refCold r || r == .filler)
  | .footing => !s.gbl.fullService && s.gbl.footingOpen && refs.all (fun r => refCold r || r == .filler)
  | .reloc => false

/-- A LUN accepts a new array operation. -/
def lunFree (s : State) (k : Nat) : Bool :=
  s.liveLuns.contains k && ((tget s.media.luns k).map (fun l => l.op == .idle)).getD false

/-- Programs may be issued at all: the system area is located, the media are the device's own, and in the power-fail sequence
V_h is at least 1.05 × VHOLD_MIN_MV (R390, R394). -/
def mayProgram (s : State) : Bool :=
  s.sys.t6 && !s.media.foreign && !s.energy.parked &&
  (!s.energy.pfSeq || decide (s.vholdMin * 105 * 409600 ≤ s.vhNum * 1000))

/-- The LUN holds data whose program failed in the sequence, or none of the page's; a re-program goes into a Quarry block on another
die (R395). -/
def retryPlace (s : State) (k : Nat) (inBlock refs : List Ref) : Bool :=
  let tried := refs.filter (fun r => s.energy.pfTried.any (fun x => x.1 == r))
  tried.isEmpty || (!s.energy.pfTried.any (fun x => tried.contains x.1 && x.2 == k) &&
    inBlock.all (fun r => r == .filler || s.energy.pfTried.any (fun x => x.1 == r)))

/-- Begin a program on a LUN: the page's content goes to the die (R499, R502). -/
def beginProgram (s0 : State) (k course member row : Nat) (slc : Bool) (refs : List Ref) : State :=
  let s := match tget s0.media.courses course with
    | some c => storePage s0 c member row refs
    | none => s0
  modLun s k (fun l => { l with op := .program course member row slc refs, since := s.gbl.tick, suspended := false
                                suspends := 0, ran := 0 })

/-- Program one page of a Course: a data page in its member's next row, or the row's Mortar page once every data program of the
row has been issued (R454 to R456, R499). -/
def programPage (s : State) (k course member row : Nat) (slc : Bool) (refs : List Ref) : Option State :=
  match tget s.media.courses course with
  | none => none
  | some c =>
    let onRow := fun (m : Nat) => c.has m row || memberGone s c m ||
      s.media.luns.any (fun l => match l.2.op with | .program i x r _ _ => i == course && x == m && r == row | _ => false)
    if !c.isOpen || (c.blocks[member]?).map blkLun != some k || memberGone s c member || c.rowsOf member != row ||
      c.rows ≤ row || slc != (c.role == .footing) then none
    else if member == c.mortar then
      (if refs.isEmpty && c.dataMembers.all onRow && !s.energy.pfSeq then some (beginProgram s k course member row slc []) else none)
    else
      let inBlock := (c.pages.filter (fun g => g.1 == member)).flatMap (fun g => g.2.2)
      if refs.isEmpty || !roleOk s c.role refs || !refs.all (pendingRef s (inBlock ++ refs)) || !retryPlace s k inBlock refs ||
        pfUnit (s.profOf k) < (refs.map (refSize s)).sum || !promisedFirst s (c.role != .hot) (inBlock ++ refs) refs then none
      else some (beginProgram s k course member row slc refs)

/-- Suspend the operation of a LUN for a host read, where its profile and R477 allow it (R501). -/
def suspendLun (s : State) (k : Nat) : State :=
  match tget s.media.luns k with
  | none => s
  | some l =>
    let p := s.profOf k
    let run := (s.gbl.tick - l.since).toNat
    let ok := fun (bit nominal : Nat) => bitOf (pfFeatures p) bit && !l.suspended && decide (l.suspends < pfSuspendMax p) &&
      (l.suspends == 0 || decide (nominal ≤ 8 * run))
    let yes := match l.op with
      | .idle => false
      | .program _ _ _ slc _ => ok 0 (if slc then pfTProgSlc p else pfTProg p)
      | .erase _ => ok 1 (pfTBers p)
    if yes then modLun s k (fun l => { l with suspended := true, suspends := l.suspends + 1, ran := l.ran + run })
    else s

/-- The two copies of the summary go to different channels where two channels respond (R391). -/
def summaryPlace (s : State) (ch : Nat) : Bool :=
  !s.energy.summaryChs.contains ch || !s.liveLuns.any (fun l => !s.energy.summaryChs.contains (keyCh l))

/-- The array operation a posted routine stands for begins; none where the rules forbid it (R499, R531). -/
def startWork (s : State) (ch : Fin 16) (w : FlashWork) : Option State :=
  match w with
  | .none => some s
  | .suspend lun => if lun.ch == ch then some (suspendLun s (lunKey lun)) else none
  | .erase lun block =>
    let k := lunKey lun
    if lun.ch != ch || !lunFree s k || !mayProgram s || s.energy.pfSeq || !chFree s ch.val ||
      s.blkUse (blkKey k block) != .freed then none
    else some (modLun (wakeDomain s (6 + ch.val)) k (fun l =>
      { l with op := .erase block, since := s.gbl.tick, suspended := false, suspends := 0, ran := 0 }))
  | .program lun course member row slc refs form =>
    let k := lunKey lun
    if lun.ch != ch || !lunFree s k || !mayProgram s || !chFree s ch.val then none
    else
      let s1 := wakeDomain s (6 + ch.val)
      if refs == [.summary] then
        (if course == 0 && slc && pendingRef s refs .summary && summaryPlace s ch.val then
          some (beginProgram { s1 with energy := { s1.energy with summaryLeft := s1.energy.summaryLeft - 1
                                                                  summaryChs := s1.energy.summaryChs ++ [ch.val] } } k 0 member row true refs)
         else none)
      else if s.energy.pfSeq && 0 < s.energy.summaryLeft then none
      else
        match form with
        | none => programPage s1 k course member row slc refs
        | some (role, bs, mortar) =>
          let blocks := bs.map (fun b => blkKey (lunKey b.1) b.2)
          if course != s.media.nextCourse || !blocksOk s (role == .footing) blocks || blocks.length ≤ mortar || blocks.length < 2 ||
            (role != .footing && s.nOpen ≤ s.openCourses) then none
          else programPage (formCourse s1 role blocks mortar (role == .footing)) k course member row slc refs

/-! ## Status polls (R500, R458, R467, R468, R395) -/

/-- Count a fault status against a LUN; the third in a row on different blocks fails the die (R458). -/
def faultStatus (s : State) (k block : Nat) : State :=
  match tget s.media.luns k with
  | none => s
  | some l =>
    let f := if l.faults.contains block then [block] else l.faults ++ [block]
    let s1 := modLun s k (fun l => { l with faults := f })
    if 3 ≤ f.length then dieFailed s1 k 2 else s1

/-- The block key an operation works on; a summary program stands apart from every block. -/
def opBlock (s : State) (k : Nat) : LunOp → Nat
  | .idle => 0
  | .erase b => blkKey k b
  | .program c m _ _ _ => ((tget s.media.courses c).bind (fun x => x.blocks[m]?)).getD (blkKey k m)

/-- Nominal time of an operation, µs. -/
def opNominal (p : List Byte) : LunOp → Nat
  | .idle => 0
  | .erase _ => pfTBers p
  | .program _ _ _ slc _ => if slc then pfTProgSlc p else pfTProg p

/-- The LUN is idle again. -/
def endOp (s : State) (k : Nat) (ok : Bool) : State :=
  modLun s k (fun l => { l with op := .idle, suspended := false, suspends := 0, ran := 0, faults := if ok then [] else l.faults })

/-- A program has passed: its page stands, and what R36 allows becomes committed (R37). -/
def programPassed (s : State) (k course member row : Nat) (refs : List Ref) : State :=
  let s1 := modHealth (endOp s k true) (fun h => { h with mediaBytes := sat64 (h.mediaBytes + pfUnit (s.profOf k)) })
  if course == 0 then refs.foldl commitRef s1
  else
    let s2 := modMedia s1 (fun m => { m with courses := tmod m.courses course (fun c =>
      { c with pages := c.pages ++ [(member, row, refs)] }) })
    closeFull (commitCourse s2 course) course

/-- A program has failed (R467); in the power-fail sequence its data is programmed once more, on another die (R395). -/
def programFailed (s : State) (k course member row : Nat) (refs : List Ref) : State :=
  if s.energy.pfSeq then
    match tget s.media.courses course with
    | none => s
    | some c =>
      let g := c.groupAt member
      let same := fun (x : Nat × Nat × List Ref) => x.1 == member && x.2.1 / g == row / g
      let hit := refs ++ (c.pages.filter same).flatMap (fun x => x.2.2)
      let tried := fun (r : Ref) => s.energy.pfTried.any (fun x => x.1 == r)
      let s1 := modMedia s (fun m => { m with courses := tput m.courses course { c with pages := c.pages.filter (fun x => !same x) } })
      { s1 with energy := { s1.energy with
          pfTried := s1.energy.pfTried ++ (hit.filter (fun r => r != .filler && !tried r)).map (fun r => (r, k))
          pfLost := s1.energy.pfLost ++ hit.filter tried } }
  else retireBlock s course member true

/-- A program that ended without its page no longer keeps the other pages of its row from being committed (R36). -/
def commitAll (s : State) : State := s.media.courses.foldl (fun s c => commitCourse s c.1) s

/-- What a status read finds (R500, R517, R523). -/
def pollLun (s : State) (k : Nat) (a : PollAnswer) : State :=
  match tget s.media.luns k with
  | none => s
  | some l =>
    let b := opBlock s k l.op
    let failed := fun (s : State) =>
      match l.op with
      | .idle => s
      | .program c m r _ refs => commitAll (faultStatus (programFailed (endOp s k false) k c m r refs) k b)
      | .erase _ => faultStatus (setBlk (endOp s k false) b .rubble) k b
    match a with
    | .noResponse => commitAll (dieFailed s k 1)
    | .done =>
      (match l.op with
       | .idle => s
       | .program c m r _ refs => programPassed s k c m r refs
       | .erase _ => erased (endOp s k true) b)
    | .fail =>
      if l.suspended then faultStatus (modLun s k (fun l => { l with suspended := false, since := s.gbl.tick })) k b
      else
        failed (modHealth s (fun h => match l.op with
          | .program .. => { h with programFails := sat64 (h.programFails + 1) }
          | .erase _ => { h with eraseFails := sat64 (h.eraseFails + 1) }
          | .idle => h))
    | .busy =>
      if l.op == .idle || l.suspended || (s.gbl.tick - l.since).toNat < 4 * opNominal (s.profOf k) l.op then s
      else failed (modHealth s (fun h => { h with timeouts := sat64 (h.timeouts + 1) }))

/-! ## Cut operations (R532, R541) -/

/-- Where a reference lies: one of its pages is on the channel. -/
def refOn (s : State) (ch : Nat) (r : Ref) : Bool :=
  s.media.courses.any (fun c => c.2.pages.any (fun g => g.2.2.contains r &&
    ((c.2.blocks[g.1]?).map (fun b => keyCh (blkLun b))) == some ch))

/-- A read that still needs the channel. -/
def needsChannel (s : State) (ch : Nat) (j : Job) : Bool :=
  let e := j.bytes
  if j.op == opRead then
    (match tget s.parts (ePart e) with
     | some p =>
       let sp := unitSpan (eLba e * p.lbs) (eLen e * p.lbs)
       (List.range sp.2).any (fun i => match stageVersion s.stage.writes (ePart e) (sp.1 + i), tget p.units (sp.1 + i) with
         | some _, _ => false
         | none, some v => refOn s ch (.unit (ePart e) (sp.1 + i) v.1)
         | none, none => false)
     | none => false)
  else if j.op == opStreamRead then
    s.media.courses.any (fun c => c.2.pages.any (fun g =>
      ((c.2.blocks[g.1]?).map (fun b => keyCh (blkLun b))) == some ch && g.2.2.any (fun r => match r with
        | .bytes k o n => k == sKey (ePart e) (eStream e) && decide (o < eLba e + eLen e) && decide (eLba e < o + n)
        | _ => false)))
  else if j.op == opRawRead then bitsOf (eLba e) 48 45 == ch
  else false

/-- The operations of a channel are cut: programs are issued again from the stage and their blocks vacated, erases are done
again, and with FORCE the reads that need the channel complete with SC_ABORTED (R532, R541). A cut operation is no fault
status (R458). The RESET leaves every LUN of the channel at its default thresholds (R521). -/
def cutChannel (s0 : State) (ch : Nat) (abortReads : Bool) : State :=
  let s := modMedia s0 (fun m => { m with luns := tmap m.luns (fun k l => if keyCh k == ch then { l with thr := [0, 0, 0, 0] } else l) })
  let s1 := (s.media.luns.filter (fun l => keyCh l.1 == ch)).foldl (fun s l =>
    match l.2.op with
    | .idle => s
    | .erase _ => endOp s l.1 false
    | .program c m _ _ _ =>
      let s' := endOp s l.1 false
      if c == 0 then { s' with energy := { s'.energy with summaryLeft := s'.energy.summaryLeft + 1, summaryChs := s'.energy.summaryChs.erase ch } }
      else retireBlock s' c m false) s
  if abortReads then
    (s1.queues.jobs.filter (needsChannel s1 ch)).foldl abortEntry s1
  else s1

end Sys2Proof.Machine
end

