-- ==== Sys2Proof/Machine/Visible.lean ====
section
/-! DEFINITION. How writes, appends, marks and trims take their place in the visibility order (R33, R279, R281, R333 to R337,
R353). -/

namespace Sys2Proof.Machine

/-- Insert into a rising list. -/
def insertNat (l : List Nat) (v : Nat) : List Nat :=
  match l with
  | [] => [v]
  | a :: r => if v < a then v :: a :: r else if v = a then a :: r else a :: insertNat r v

/-- USED_UNITS (R314): WRITE and WRITE_ZEROES touch units; a TRIM that covers a unit wholly takes it away. -/
def noteUsed (s : State) (p first len : Nat) (trim : Bool) : State :=
  let sp := unitSpan first len
  let us := (List.range sp.2).map (sp.1 + ·)
  let f := fun (l : List Nat) =>
    if trim then l.filter (fun u => !(decide (first ≤ u * 4096) && decide (u * 4096 + 4096 ≤ first + len)))
    else us.foldl insertNat l
  { s with parts := tmod s.parts p (fun q => { q with used := f q.used }) }

/-- Logical block size of a command's partition. -/
def State.lbsOf (s : State) (p : Nat) : Nat := ((tget s.parts p).map Part.lbs).getD 512

/-- A fetched WRITE becomes visible (R333, R335). -/
def placeWrite (s : State) (j : Job) : State :=
  let e := j.bytes
  let p := ePart e
  let first := eLba e * s.lbsOf p
  makeVisible (noteUsed s p first j.data.length false) { j with result := j.data.length, data := [] } p
    (ackOnMedia j) (eLba e) (eLen e) (writePieces s p first j.data)

/-- A WRITE_ZEROES or TRIM takes its place (R333, R337). -/
def placeZero (s : State) (j : Job) (trim : Bool) : State :=
  let e := j.bytes
  let p := ePart e
  let first := eLba e * s.lbsOf p
  let len := eLen e * s.lbsOf p
  makeVisible (noteUsed s p first len trim) { j with result := eLen e } p (ackOnMedia j) (eLba e) (eLen e)
    (zeroPieces s p first len)

/-- A fetched STREAM_APPEND becomes visible: it receives its offset and is sealed, unless its expected offset differs from the
stream end (R51, R67, R279, R303). -/
def placeAppend (s : State) (j : Job) : State :=
  let key := j.mark
  match s.strm? key with
  | none => complete s j { status := scStreamClosed }
  | some t =>
    if t.cond ≠ .opened then complete s j { status := scStreamClosed }
    else if eLba j.bytes ≠ 0xFFFFFFFFFFFFFFFF ∧ eLba j.bytes ≠ t.endOff then
      complete s j { status := scOutOfRange, cr0 := t.endOff }
    else
      let foot := s.inFootingService
      let s1 := appendData s key (eTime j.bytes) foot j.data
      let q := ((s1.strm? key).map Strm.coveringSeq).getD 0
      makeVisible s1 { j with result := t.endOff, ashlar := q, data := [] } (sPart key) (ackOnMedia j) 0 0
        (appendPieces key (j.data.length + 1) t.endOff j.data.length)

/-- Number of the Ashlar a mark or close ends (R353). -/
def Strm.endedSeq (t : Strm) : Nat :=
  match t.running with
  | some r => r.seq
  | none => t.maxSeq + 1

/-- A STREAM_MARK takes its place: it ends the running Ashlar, with a Capstone where asked for; both records are its writes (R281, R288,
R353, R374). -/
def placeMark (s : State) (j : Job) : State :=
  let key := j.mark
  match s.strm? key with
  | none => complete s j { status := scStreamClosed }
  | some t =>
    if t.cond ≠ .opened then complete s j { status := scStreamClosed }
    else
      let q := t.endedSeq
      let s1 := endOrEmpty s key t afMark (eAttr j.bytes) (if fOpt j.bytes then cfMark else 0) (eTime j.bytes)
      makeVisible s1 { j with result := t.endOff, ashlar := q } (sPart key) (ackOnMedia j) 0 0
        ([(.record key q, false)] ++ if fOpt j.bytes then [(.record key (q + 1), false)] else [])

/-- A fetched write or append becomes visible; other jobs are left alone. -/
def placeFetched (s : State) (j : Job) : State :=
  if j.phase ≠ .fetched then s
  else if j.op == opWrite then placeWrite s j
  else if j.op == opStreamAppend then placeAppend s j
  else s

end Sys2Proof.Machine
end

