-- ==== Sys2Proof/Machine/Stops.lean ====
section
/-! DEFINITION. What stops or resets the device: HALTED and FAILED (R254 to R257, R694), the power-fail sequence (R390 to R396),
host-facing resets and Orphan (Table 4-4, R116 to R118, R748), and a power loss or RESET_N (R104). -/

namespace Sys2Proof.Machine

/-! ## HALTED and FAILED -/

/-- A span command that writes and whose data is all fetched (R255, R631). -/
def spanFetched (s : State) (j : Job) : Bool :=
  j.phase == .span && j.op != opRead && j.op != opStreamRead && j.op != opFlush &&
  s.cas.spanOps.any (fun o => o.job == some j.order && o.stage != .data)

/-- A consumed entry that the stop aborts (R255, R267): everything but visible writes, writes to a span whose data is all fetched, and
what only waits for a commit. In FAILED no member can answer. -/
def stopAborts (s : State) (j : Job) : Bool :=
  match j.phase with
  | .visible _ => false
  | .record _ => false
  | _ => s.gbl.failed || !spanFetched s j

/-- The request to end running routines that read, on every channel in service (R530). -/
def requestAbort (pfail : Bool) (s : State) : State :=
  s.serviceChs.foldl (fun s c =>
    setMason s c { s.mason c with abortReq := true, pfailReq := (s.mason c).pfailReq || pfail }) s

/-- A COMPL that answers an ENTRY packet with a status and no more (R617, R623). -/
def answerEntry (s : State) (p : Packet) (status : Nat) : State :=
  sendPkt s ⟨5, 2, true, p.src, s.srcId, p.txn, 0, leBytes 48 status⟩

/-- Every held ENTRY packet is answered with SC_ABORTED (R257, R623). -/
def answerHeld (s : State) : State := s.cas.entries.foldl (fun s x => answerEntry s x.2 scAborted) s

/-- R255 and R256: scans end, fetched writes become visible, other entries end (held ENTRY packets too, R623), movers abort, open streams are sealed, and
coalescing waits end. `hash` false: appends whose bytes cannot be hashed are aborted (R694). -/
def stopBody (s : State) (aflag cflag : Nat) (sealing hash : Bool) : State :=
  let s1 := { s with
    queues := { s.queues with qs := tmap s.queues.qs (fun _ k => { k.endScan with enabled := false, pend := false }) }
    adm := { s.adm with en := false } }
  let s2 := s1.queues.jobs.foldl (fun s j => if hash || j.op == opWrite then placeFetched s j else s) s1
  let s3 := settleJobs s2
  let s4 := (s3.queues.jobs.filter (stopAborts s3)).foldl abortEntry s3
  let s5 := requestAbort false (eachMov movAbort
    { answerHeld s4 with cas := { (answerHeld s4).cas with
        enumerating := none, transfers := [], fwds := [], entries := []
        spanOps := s4.cas.spanOps.filter (fun o => s4.queues.jobs.any (fun j => o.job == some j.order)) } })
  let s6 := if sealing then sealOpen s5 aflag cflag else s5
  let s7 := s6.queues.qs.foldl (fun s k => if 0 < k.2.unsignalled then signalQueue s k.1 else s) s6
  settle s7

/-- Enter HALTED with a cause (R168, R255, R256, R406). -/
def enterHalted (s : State) (cause : BitVec 8) (detail : Nat) : State :=
  let s1 := recordCause s cause detail
  let first := !s.stopped && !s.energy.pfSeq
  let s2 := refresh { s1 with gbl := { s1.gbl with halted := true } }
  if first then stopBody s2 afHalt cfHalt true true else s2

/-- A port without a link: its numbering, credit and packets start anew. -/
def Port.down (t : Port) : Port :=
  { resetPort with blockLock := t.blockLock, roleLogged := t.roleLogged, lostAt := t.lostAt, presentAt := t.presentAt }

/-- Every cascade port goes down; a member that loses its U link is no longer enumerated (R633, R635). -/
def portsDown (s : State) : State :=
  { s with cas := { s.cas with ports := Vector.ofFn (fun i => (s.cas.ports[i]).down), enumerated := s.cas.enumerated && s.keystone } }

/-- Enter FAILED with a cause: the register file answers once the core runs; R255 applies, and R256 where the signer and
the engines passed (R168, R635, R694, R695). -/
def enterFailed (s : State) (cause : BitVec 8) (detail : Nat) (hash : Bool := true) : State :=
  let s1 := recordCause s cause detail
  let first := !s.stopped && !s.energy.pfSeq && s.gbl.coreOn
  let s2 := portsDown (refresh { s1 with gbl := { s1.gbl with failed := true, up := s1.gbl.up || s1.gbl.coreOn }
                                         pcie := { s1.pcie with crs := s1.pcie.crs && !s1.gbl.coreOn } })
  if first then stopBody s2 afFailed cfFailed (!s2.gbl.sealFault) hash else s2

/-! ## The power-fail sequence -/

/-- Acknowledged data that is not committed, in bytes of U: stream bytes beyond the committed end too, which R44 discards (R397). -/
def State.shortBytes (s : State) : Nat := s.uBytes

/-- Blocks of acknowledged writes that no committed version holds: partition, first LBA, count (R41, R42). -/
def State.lostExtents (s : State) : List (Nat × Nat × Nat) :=
  (s.stage.writes.filter (fun w => w.acked && !w.onMedia)).flatMap (fun w =>
    let lbs := s.lbsOf w.part
    w.pieces.filterMap (fun p =>
      match p.1 with
      | .unit u _ _ =>
        let lo := max w.firstLba (u * 4096 / lbs)
        let hi := min (w.firstLba + w.blocks) ((u + 1) * 4096 / lbs)
        let newer := match s.unitCommitted w.part u with
          | some v => decide (w.order ≤ v.1)
          | none => false
        if p.2 || newer || hi ≤ lo then none else some (w.part, lo, hi - lo)
      | _ => none))

/-- Whether a power loss now finds the stream open: its close does not stand before all of it is committed (Table 9-3). -/
def Strm.openAtLoss (t : Strm) : Bool :=
  t.cond == .opened || (t.cond == .closed &&
    (t.recs.any (fun r => r.kind != 4 && !r.committed) || !t.due.isEmpty || t.running.isSome))

/-- The last-gasp summary (R393): for each open stream its highest assigned and acknowledged offsets and sequence number. What an
earlier summary says stands until its replay is over (R68). -/
def State.makeSummary (s : State) (start : Nat) : Summary :=
  let mine := (s.streams.tbl.filter (fun p => p.2.openAtLoss && !p.2.replay)).map (fun p =>
    (p.1, p.2.endOff, p.2.ackEnd, p.2.maxSeq))
  let old := match s.energy.summary with
    | some x => if s.gbl.recovered then ([], []) else (x.streams, x.extents)
    | none => ([], [])
  { boot := if s.gbl.recovered then s.bootNow.toNat else s.sys.lostBoot
    start := start, vhMv := s.vhMv, h := s.energy.h, u := s.uBytes, streams := old.1 ++ mine
    extents := old.2 ++ s.lostExtents, short := 0
    blind := !s.gbl.recovered && (match s.energy.summary with
      | some x => x.blind
      | none => true) }

/-- Suspend the erases whose profile allows it (Table 12-4, R521). -/
def suspendErases (s : State) : State :=
  modMedia s (fun m => { m with luns := tmap m.luns (fun k l =>
    match l.op with
    | .erase _ => if bitOf (pfFeatures (s.profOf k)) 1 then { l with suspended := true } else l
    | _ => l) })

/-- The pin HOLD_CAL_PIN names goes low when a hold-up run is abandoned (R408, R572). -/
def dropCal (s0 : State) : State :=
  let s := noteGen s0 7
  let s1 := { s with cal := { s.cal with hold := .idle, req0 := [], req1 := [] } }
  match s.calPin with
  | some p => if s.cal.hold == .idle then s1 else { s1 with pins := { s1.pins with evtOut := putBit s1.pins.evtOut p.val false } }
  | none => s1

/-- Step 1 of the power-fail sequence, with the summary it will program: 1 PFAIL_N, 2 VDD_CORE, 3 VHOLD_TRIP, 4 SYSCLK, 5 the
critical step (R390 to R393, R412, R548, R635). Every gated domain wakes, with what is parked at it (R111, R159). Before t6 it programs
nothing. -/
def startPowerFail (s : State) (start : Nat) : State :=
  if !s.gbl.coreOn || s.energy.pfSeq then s
  else
    let own := s.sys.t6 && !s.media.foreign
    let s1 := setIrq s irqPfail
    let s2 := { s1 with
      energy := { s1.energy with
        pfSeq := true, pfStart := start, summaryLeft := if own then 2 else 0, summaryDone := 0, pfTried := [], pfLost := []
        gasp := if own then some (s1.makeSummary start) else none }
      pins := { s1.pins with pwrSafe := false, wake := s1.pins.wake || !s1.phb }
      micro := { s1.micro with withdrawn := [] } }
    let s3 := (List.range 22).foldl wakeDomain (s2.serviceChs.foldl (fun s c => withdrawSwitch s c 2) s2)
    dropCal (suspendErases (portsDown (requestAbort true (eachMov movPowerFail s3))))

/-! ## Host-facing resets and Orphan -/

/-- A partly fetched command, or one that reads, is abandoned (R116). -/
def abandons (s : State) (j : Job) : Bool :=
  match j.phase with
  | .crcWait => true
  | .roomWait => true
  | .ready => hasData s j.bytes
  | .forwarded => hasData s j.bytes
  | .sending => hasData s j.bytes
  | _ => false

/-- Commands already accepted finish without completion records: what is fetched becomes visible and is committed, what was
only partly fetched and every read is abandoned (R106, R116, R117, R232). Answers the number abandoned. -/
def abandonCommands (s : State) : State × Nat :=
  let own := fun (j : Job) => if j.origin.isNone then { j with detached := true } else j
  let s0 := { s with queues := { s.queues with jobs := s.queues.jobs.map own } }
  let s1 := s0.queues.jobs.foldl placeFetched s0
  let gone := s1.queues.jobs.filter (fun j => j.origin.isNone && abandons s1 j)
  let keep := s1.queues.jobs.filter (fun j => !(j.origin.isNone && abandons s1 j))
  let s2 := { s1 with
    queues := { s1.queues with jobs := keep }
    stage := { s1.stage with writes := s1.stage.writes.map (fun w => { w with onMedia := w.onMedia || !w.acked }) }
    pcie := { s1.pcie with holdIo := true, holdMark := s1.stage.nextOrder } }
  (s2, gone.length)

/-- The host-facing reset of Table 4-4 and R748: 0 link loss, 1 FLR, 2 soft reset. Signals still owed are destroyed with the interrupt
state (R271). -/
def hostReset (s : State) (kind : Fin 3) : State :=
  let s1 := if kind == 0 then s else (abandonCommands s).1
  let p := s1.pcie
  let p1 := { resetPcie with
    link := p.link, crs := p.crs, orphan := p.orphan, orphanTick := p.orphanTick, abandoned := p.abandoned
    orphanTags := p.orphanTags, holdIo := p.holdIo, holdMark := p.holdMark, lanes := p.lanes, gen := p.gen, sent := p.sent }
  let s2 := detachMap { s1 with
    gbl := { s1.gbl with irqEn := false, irqStatus := 0, irqMask := 0x1FFF, scratch := 0 }
    prot := { s1.prot with qpartSel := 0 }
    adm := resetAdm
    mover := if kind == 0 then { s1.mover with sel := 0 } else resetMover
    micro := { s1.micro with chSel := 0, oneCh := false }
    queues := { s1.queues with qs := resetQueues.qs, lastVisited := 0 }
    pcie := if kind == 2 then { p with pba := [], msiPending := 0 } else p1 }
  settle s2

/-- Queue and TAG of the newest entry each queue had consumed (R118). -/
def newestTags (s : State) : List (Nat × DWord) := (s.queues.qs.filter (fun p => p.1 < 4096)).filterMap (fun p => p.2.newestTag.map (fun t => (p.1, t)))

/-- Link loss: the device enters Orphan (R115 to R117); in PHB mode, before the core runs, with no link to lose and in Orphan nothing
changes. -/
def enterOrphan (s : State) : State :=
  if s.phb || !s.gbl.coreOn || s.pcie.orphan || s.pcie.link == .down then s
  else
    let tags := newestTags s
    let r := abandonCommands s
    let s1 := r.1
    let s2 := { s1 with
      queues := { s1.queues with qs := tmap s1.queues.qs (fun _ k => { k.endScan with pend := false, unsignalled := 0 }) }
      pcie := { s1.pcie with link := .down, training := false, orphan := true, orphanTick := s.gbl.tick, abandoned := r.2
                             orphanTags := tags, lanes := 0, gen := 0 }
      pins := { s1.pins with wake := true }
      log := { s1.log with health := { s1.log.health with orphans := sat64 (s1.log.health.orphans + 1) } } }
    settle (requestAbort false (eachMov movOrphan (detachMap s2)))

/-- PE_WAKE_N is released (R115). -/
def releaseWake (s : State) : State := { s with pins := { s.pins with wake := false } }

/-! ## Power loss and RESET_N (R104) -/

/-- Number of the wordline pairing group of a member's row. -/
def Course.groupOf (c : Course) (m r : Nat) : Nat := r / c.groupAt m

/-- Groups of a Course that were begun and are not complete: member and group. -/
def openGroups (s : State) (id : Nat) (c : Course) : List (Nat × Nat) :=
  let part := (c.pages.filter (fun g => !c.groupDone g.1 g.2.1)).map (fun g => (g.1, c.groupOf g.1 g.2.1))
  let run := s.media.luns.filterMap (fun l => match l.2.op with
    | .program i m r _ _ => if i == id then some (m, c.groupOf m r) else none
    | _ => none)
  (part ++ run).eraseDups

/-- INTERRUPTED entries of a group (Table 9-9b). -/
def tornEntries (s : State) (block firstPage pages : Nat) (refs : List Ref) : List (List Byte) :=
  let l := blkLun block
  let addr := l / 32 * 2 ^ 45 + l / 4 % 8 * 2 ^ 42 + l % 4 * 2 ^ 40 + block % 1048576 * 2 ^ 20 + firstPage * 16
  let ps := (List.range 32).filter (fun p => (refs.filterMap refPart).contains p)
  (if ps.isEmpty then [0xFFFF] else ps).map (fun p =>
    leBytes 8 addr ++ leBytes 2 p ++ leBytes 2 pages ++ leBytes 4 (s.sys.boot.toNat % 2 ^ 32))

/-- Every group the loss interrupts: block, first page, pages, and what it was to hold. -/
def State.tornNow (s : State) : List (Nat × Nat × Nat × List Ref) :=
  (s.media.courses.flatMap (fun c => (openGroups s c.1 c.2).map (fun g =>
    let n := c.2.groupAt g.1
    let here := (c.2.pages.filter (fun x => x.1 == g.1 && c.2.groupOf x.1 x.2.1 == g.2)).flatMap (fun x => x.2.2)
    let run := s.media.luns.flatMap (fun l => match l.2.op with
      | .program i m r _ refs => if i == c.1 && m == g.1 && c.2.groupOf m r == g.2 then refs else []
      | _ => [])
    ((c.2.blocks[g.1]?).getD 0, g.2 * n, n, here ++ run)))) ++
  s.media.luns.flatMap (fun l => match l.2.op with
    | .program 0 m r _ _ => [(blkKey l.1 m, r, 1, [])]
    | _ => [])

/-- A stream after the loss, in a boot with a counter and a write-stage capacity: open streams wait for their replay, a close that was not committed did not happen, and a stream
whose existence was not committed is gone (R43, R280, Table 9-3). -/
def lossStream (boot cap : Nat) (t : Strm) : Option Strm :=
  if (t.cond == .opened || t.cond == .closed) && t.src.isNone && !t.recs.any (·.committed) then none
  else if t.openAtLoss then
    some { t with cond := .opened, handle := none, replay := true, thisBoot := false
                  lostBoot := if t.replay then t.lostBoot else boot, lostCap := if t.replay then t.lostCap else cap }
  else some { t with handle := none, thisBoot := false }

/-- Whether the stream with this number existed and is lost: its opening Ashlar was not committed (R351). -/
def streamLost (s : State) (p n : Nat) : Bool :=
  match s.strm? (sKey p n) with
  | some t => (lossStream 0 0 t).isNone
  | none => false

/-- The reference names a stream that is lost. -/
def lostRef (s : State) : Ref → Bool
  | .bytes k _ _ => streamLost s (sPart k) (sNum k)
  | .record k _ => streamLost s (sPart k) (sNum k)
  | _ => false

/-- What the media hold after the loss: interrupted groups are no longer mapped and are not programmed again before an erase, so a
Course with one is closed (R70); an erase that ran is still to be done. Their codewords stay as they are (R49). -/
def lossMedia (s : State) : Media :=
  { blankMedia with
    blocks := s.media.blocks
    courses := tmap (purgeRefs s.media (lostRef s)).courses (fun i c => { c with
      pages := c.pages.filter (fun g => c.groupDone g.1 g.2.1), isOpen := c.isOpen && (openGroups s i c).isEmpty, closedAt := 0 })
    cells := s.media.cells
    leafGen := s.media.leafGen
    tornGroups := s.media.tornGroups ++ s.tornNow.map (fun t => (t.1, t.2.1, t.2.2.1))
    nextCourse := s.media.nextCourse, rubbleLuns := s.media.rubbleLuns, interrupted := s.media.interrupted
    torn := s.media.torn ++ (if s.sys.t6 then s.tornNow.flatMap (fun t => tornEntries s t.1 t.2.1 t.2.2.1 t.2.2.2) else [])
    fractures := s.media.fractures
    lostSeen := s.media.lostSeen
    pace := { resetOver with totalMs := s.media.pace.totalMs, episodes := s.media.pace.episodes
                             history := (endEpisode s.media.pace s.gbl.tick.toNat).history } }

/-- Highest stream number assigned, without the numbers at the top whose streams are lost (R351). -/
def lossMaxStream (s : State) (p : Nat) : Nat → Nat
  | 0 => 0
  | n + 1 => if streamLost s p (n + 1) then lossMaxStream s p n else n + 1

/-- USED_UNITS of units whose newest version is lost, and the stream numbers that are no longer assigned (R314, R351). -/
def lossUsed (s : State) (p : Nat) (q : Part) : Part :=
  let lost := (s.stage.writes.filter (fun w => w.part == p)).flatMap (fun w => w.pieces.filterMap (fun x =>
    match x.1 with | .unit u _ _ => if x.2 then none else some u | _ => none))
  let kept := lost.filter (fun u => match tget q.units u with | some v => !v.2.isEmpty | none => false)
  let top := lossMaxStream s p q.maxStream
  let gone := (s.streams.tbl.filter (fun x => sPart x.1 == p && (lossStream 0 0 x.2).isNone)).map (fun x => sNum x.1)
  { q with used := kept.foldl insertNat (q.used.filter (fun u => !lost.contains u)), maxStream := top
           lostNums := (q.lostNums ++ gone).filter (fun n => decide (n < top)) }

/-- What is left of the last-gasp summary: the new one if a copy is committed, else the earlier one while its replay is not over. -/
def lossSummary (s : State) : Option Summary :=
  if !s.sys.t6 || s.media.foreign then s.energy.summary
  else if s.energy.pfSeq && 0 < s.energy.summaryDone then
    s.energy.gasp.map (fun g =>
      let old := match s.energy.summary with
        | some x => if s.gbl.recovered then [] else x.extents
        | none => []
      { g with extents := old ++ s.lostExtents, short := s.shortBytes })
  else if s.gbl.recovered then none else s.energy.summary

/-- The log after the loss: committed entries and the health page as last committed (R687, R690, R705). -/
def lossLog (l : Log) : Log := { l with held := [], health := l.saved, adcRefBad := false }

/-- What calibration keeps in the system area (R558, R563, R569). -/
def lossCal (c : Cal) : Cal :=
  { resetCal with trims := tmap c.trims (fun _ t => { t with accepted := false, consec := 0, holdOff := 0 })
                  tracks := tmap c.tracks (fun _ t => { t with consec := 0, holdOff := 0 })
                  holdMeas := c.holdMeas, holdTref := c.holdTref, recs := c.recs }

/-- Everything outside the always-on logic resets, and what was not committed is lost (Table 4-4, R104). The balls, the
always-on logic and what the RESET_N rise loads are the caller's. -/
def coreReset (s : State) : State :=
  let own := s.sys.t6 && !s.media.foreign
  { s with
    gbl := resetGbl, prot := resetProt s.aon.setRec, adm := resetAdm, pwr := resetPwr, doms := resetDomains, pcie := resetPcie
    log := lossLog s.log, queues := resetQueues
    parts := tmap s.parts (fun k q => lossUsed s k q)
    stage := { resetStage with nextOrder := s.stage.nextOrder }
    streams := { resetStreams with tbl := s.streams.tbl.filterMap (fun p => (lossStream s.sys.boot.toNat s.stageBytes p.2).map (fun t => (p.1, t))) }
    energy := { resetEnergy with
      cap := s.energy.cap, needCal := s.energy.needCal, summary := lossSummary s
      pfRan := if own then s.energy.pfSeq || (s.energy.pfRan && !s.gbl.recovered) else s.energy.pfRan
      pfCap := if own && s.energy.pfSeq then s.energy.cap else s.energy.pfCap
      pfStart := s.energy.pfStart }
    sys := { s.sys with t6 := false, boot := 0, replayRepeat := s.sys.replayRepeat || (own && !s.gbl.recovered)
                        lostBoot := if own && s.gbl.recovered then s.sys.boot.toNat else s.sys.lostBoot }
    media := lossMedia s
    hmap := { resetHmap with key := s.hmap.key }
    cal := lossCal s.cal
    micro := { resetMicro with withdrawn := if own && s.energy.pfSeq && 0 < s.energy.summaryDone then s.micro.withdrawn else [] }
    mover := resetMover
    cas := { resetCas with roster := tmap s.cas.roster (fun _ r => { r with present := false }), 
                             spans := tmap s.cas.spans (fun _ x => { x with missing := List.range x.members.length, recheck := x.dirty }) } }

/-! ## The Footing and the system area -/

/-- A Footing Course without data ends; its blocks stay erased blocks of the Footing. -/
def emptyFooting (s : State) (id : Nat) : State :=
  match tget s.media.courses id with
  | none => s
  | some c =>
    let s1 := c.blocks.foldl (fun s k => if s.blkUse k == .course then setBlk s k .footing else s) s
    modMedia s1 (fun m => { m with courses := tdel m.courses id })

/-- R434: every Footing block that holds data becomes a block of its partition, in one committed step; nothing is copied. A block the
check dropped is to be erased from then on (R428). -/
def absorbFooting (s : State) : State :=
  let empty := (s.media.courses.filter (fun c => c.2.role == .footing && c.2.pages.isEmpty)).map (·.1)
  let s0 := s.media.footDropped.foldl (fun s k => if s.blkUse k == .footing then setBlk s k .freed else s) (empty.foldl emptyFooting s)
  let s1 := modMedia s0 (fun m => { m with footDropped := [] })
  { s1 with
    media := { s1.media with courses := tmap s1.media.courses (fun _ c =>
      if c.role == .footing then { c with role := .cold, isOpen := false, closedAt := s.gbl.tick } else c) }
    streams := { s1.streams with tbl := tmap s1.streams.tbl (fun _ t => { t with inFooting := false }) } }

/-- Blocks on responding LUNs that are not on the Rubble list. -/
def State.goodBlocks (s : State) : Nat := (s.liveLuns.map (fun l => pfBlocks (s.profOf l))).sum - s.rubble

/-- A new system area: this device owns the media, and the figures of R472 are fixed. Y_sys is ⌊G ÷ 100⌋ (DESIGN CHOICE). -/
def newSystemArea (s : State) : State :=
  let g := s.goodBlocks
  let w := s.width
  let ySys := g / 100
  let ps := ceilDiv (g * s.sparePct) 100
  let sixteenth := (g - ySys) * s.bblk * (w - 1) / w / 16
  let f := if 16384 * 1048576 ≤ sixteenth then 16384 else max 256 (sixteenth / (256 * 1048576) * 256)
  let none_ := s.slcBlk * (w - 1) == 0 || decide (g - ySys < s.footBlocksFor 256 + ps + s.qFloor + s.nOpen * w)
  let fMax := if none_ then 0 else f
  let y := ySys + (if none_ then 0 else s.footBlocksFor fMax)
  { s with
    sys := { s.sys with present := true, owner := s.serial, bootStored := 1, boot := 1, good := g, yBlocks := y, ySys := ySys, spare := ps
                        usableUnits := (g - y - ps) * s.bblk * (w - 1) / w / 4096, fMax := fMax, eol := false }
    parts := [], streams := { s.streams with tbl := [] } }

end Sys2Proof.Machine
end

