-- ==== Sys2Proof/Machine/Calibration.lean ====
section
/-! DEFINITION. Calibration: requests by register, trim, tracking and hold-up runs, and their repeats (R556 to R568, R192). -/

namespace Sys2Proof.Machine

/-! ## The end of a run (R561) -/

/-- A run ends, accepted or disagreeing: DISAGREE, DEGRADED where it agreed, GBL_IRQ_STATUS.CAL, and the commands that wait. -/
def endRun (s : State) (kind : Nat) (agreed : Bool) : State :=
  let s1 := { s with cal := { s.cal with
    disagree := putBit s.cal.disagree kind (!agreed)
    degraded := if agreed then putBit s.cal.degraded kind false else s.cal.degraded } }
  settle (refresh (setIrq s1 irqCal))

/-- A unit's third consecutive disagreement: the kind is marked CAL_DEGRADED (R561). -/
def degrade (s : State) (kind unit consec : Nat) : State :=
  let s1 := refresh { s with cal := { s.cal with degraded := putBit s.cal.degraded kind true } }
  if consec == 3 then logEvent s1 logCalDegraded [(0, 1, kind), (4, 4, unit)] else s1

/-- Change one kind record. -/
def modRec (s : State) (kind : Nat) (f : CalRec → CalRec) : State :=
  { s with cal := { s.cal with recs := s.cal.recs.setIfInBounds kind (f ((s.cal.recs[kind]?).getD resetCalRec)) } }

/-- Note an acceptance in the kind record (Table 17-7). -/
def noteAccept (s : State) (kind value : Nat) : State :=
  modRec s kind (fun r => { r with accTj := some s.gbl.tj.toInt, accBoot := s.bootNow.toNat % 2 ^ 32
                                   accTick := s.gbl.tick.toNat, accValue := value })

/-- Note a rejection in the kind record (Table 17-7). -/
def noteReject (s : State) (kind unit a b : Nat) : State :=
  modRec s kind (fun r => { r with rejBoot := s.bootNow.toNat % 2 ^ 32, rejTick := s.gbl.tick.toNat
                                   rejUnit := unit, rejA := a, rejB := b })

/-- Tick 10 minutes from now (R559). -/
def State.tenMinutes (s : State) : DWord := s.gbl.tick + 600000000

/-- The run of a set of units ends: the units not accepted are repeated 1 s later unless one of them reached three (R561). -/
def closeRun (s : State) (kind accepted : Nat) (rejected : List Nat) (stop : Bool) : State :=
  let s1 := if accepted == 0 then s else noteAccept s kind accepted
  let at_ := s.gbl.tick + 1000000
  let s2 := if rejected.isEmpty || stop then s1
    else if kind == 0 then { s1 with cal := { s1.cal with rep0 := mergeUnits s1.cal.rep0 rejected, rep0At := at_ } }
    else { s1 with cal := { s1.cal with rep1 := mergeUnits s1.cal.rep1 rejected, rep1At := at_ } }
  endRun s2 kind rejected.isEmpty

/-- A run of requested units may execute: not in FAILED or the power-fail sequence (R567). -/
def State.calRuns (s : State) : Bool := s.gbl.coreOn && !s.gbl.failed && !s.energy.pfSeq

/-! ## Interface timing trim (R562, R563) -/

/-- Two numbers differ by at most `n`. -/
def within (n a b : Nat) : Bool := decide (a ≤ b + n) && decide (b ≤ a + n)

/-- Both sweeps pass and agree (Table 17-4). -/
def trimAgrees (a b : Sweep) : Bool :=
  [a.rdWin, a.wrWin, b.rdWin, b.wrWin].all (fun w => decide (16 ≤ w)) && within 3 a.rd b.rd && within 3 a.wr b.wr

/-- A target no result is stored for. -/
def newTrim : Trim :=
  { rd := 64, wr := 64, rdWin := 0, wrWin := 0, has := false, tref := 0, profile := 0, accepted := false, consec := 0
    holdOff := 0 }

/-- Judge one target: the state, and whether it was accepted. The windows recorded are those of the second sweep (log 36). -/
def trimUnit (s : State) (u : Nat) (a b : Sweep) : State × Bool :=
  let t := (tget s.cal.trims u).getD newTrim
  if trimAgrees a b then
    let t' : Trim := { rd := (a.rd + b.rd) / 2, wr := (a.wr + b.wr) / 2, rdWin := b.rdWin, wrWin := b.wrWin, has := true
                       tref := s.gbl.tj.toInt, profile := pfId ((tget s.media.bound (u / 8)).getD []), accepted := true
                       consec := 0, holdOff := 0 }
    ({ s with cal := { s.cal with trims := tput s.cal.trims u t' } }, true)
  else
    let t' : Trim := { t with consec := t.consec + 1, holdOff := s.tenMinutes }
    let unit := u / 8 * 256 + u % 8
    let s1 := noteReject { s with cal := { s.cal with trims := tput s.cal.trims u t' } } 0 unit (a.rd + a.wr * 65536)
      (if 16 ≤ b.rdWin && 16 ≤ b.wrWin then b.rd + b.wr * 65536 else 0xFFFFFFFF)
    (if 3 ≤ t'.consec then degrade s1 0 unit t'.consec else s1, false)

/-- Judge the targets of a run: the state, the number accepted, the targets that were not. -/
def trimAll (rs : List (Nat × Sweep × Sweep)) : List Nat → State → State × Nat × List Nat
  | [], s => (s, 0, [])
  | u :: us, s =>
    match tget rs u with
    | none => trimAll rs us s
    | some (a, b) =>
      let r := trimUnit s u a b
      let q := trimAll rs us r.1
      if r.2 then (q.1, q.2.1 + 1, q.2.2) else (q.1, q.2.1, u :: q.2.2)

/-- A target's or block group's count of disagreements has reached three. -/
def trimStopped (s : State) (u : Nat) : Bool := ((tget s.cal.trims u).map (fun t => decide (3 ≤ t.consec))).getD false
def trackStopped (s : State) (g : Nat) : Bool := ((tget s.cal.tracks g).map (fun t => decide (3 ≤ t.consec))).getD false

/-- CAL_TRIM_RUN: the requested targets are swept twice; each is accepted or keeps its value (R560 to R563). `results`: the
two sweeps of every requested target; without all of them the run has not ended. -/
def execCalTrimRun (results : List (Nat × Sweep × Sweep)) (s : State) : Host.Outcome State Fault Refusal :=
  if !s.calRuns || s.cal.req0.isEmpty || !s.cal.req0.all (fun u => (tget results u).isSome) then .next s
  else
    let r := trimAll results s.cal.req0 { s with cal := { s.cal with req0 := [] } }
    .next (closeRun r.1 0 r.2.1 r.2.2 (r.2.2.any (trimStopped r.1)))

/-! ## Read-threshold tracking (R564) -/

/-- Both searches decode and each component differs by at most 1 (Table 17-4). -/
def trackAgrees (a b : Search) : Bool :=
  a.decoded && b.decoded && (List.range 4).all (fun k => decide ((((a.p[k]?).getD 0) - ((b.p[k]?).getD 0)).natAbs ≤ 1))

/-- P1 to P4 as signed bytes. -/
def packP (p : List Int) : Nat := leVal ((List.range 4).map (fun k => BitVec.ofInt 8 ((p[k]?).getD 0)))

/-- Judge one block group. -/
def trackUnit (s : State) (g : Nat) (a b : Search) : State × Bool :=
  let t := (tget s.cal.tracks g).getD { p := [0, 0, 0, 0], has := false, tref := 0, retry := 0, consec := 0, holdOff := 0 }
  if trackAgrees a b then
    let p := (List.range 4).map (fun k => (((a.p[k]?).getD 0) + ((b.p[k]?).getD 0)).tdiv 2)
    let t' : Track := { t with p := p, has := true, tref := s.gbl.tj.toInt, consec := 0, holdOff := 0 }
    ({ s with cal := { s.cal with tracks := tput s.cal.tracks g t' } }, true)
  else
    let t' : Track := { t with consec := t.consec + 1, holdOff := s.tenMinutes }
    let unit := g / 4096 * 65536 + g % 4096
    let s1 := noteReject { s with cal := { s.cal with tracks := tput s.cal.tracks g t' } } 1 unit (packP a.p)
      (if b.decoded then packP b.p else 0xFFFFFFFF)
    (if 3 ≤ t'.consec then degrade s1 1 unit t'.consec else s1, false)

/-- Judge the block groups of a run. -/
def trackAll (rs : List (Nat × Search × Search)) : List Nat → State → State × Nat × List Nat
  | [], s => (s, 0, [])
  | u :: us, s =>
    match tget rs u with
    | none => trackAll rs us s
    | some (a, b) =>
      let r := trackUnit s u a b
      let q := trackAll rs us r.1
      if r.2 then (q.1, q.2.1 + 1, q.2.2) else (q.1, q.2.1, u :: q.2.2)

/-- CAL_TRACK_RUN: the requested block groups are searched on two samples each, from RECOVERED on, after a trim run (R192, R560,
R561, R564, R568). -/
def execCalTrackRun (results : List (Nat × Search × Search)) (s : State) : Host.Outcome State Fault Refusal :=
  if !s.calRuns || !s.gbl.recovered || s.media.foreign || !s.cal.req0.isEmpty || s.cal.req1.isEmpty ||
    !s.cal.req1.all (fun u => (tget results u).isSome) then .next s
  else
    let r := trackAll results s.cal.req1 { s with cal := { s.cal with req1 := [] } }
    .next (closeRun r.1 1 r.2.1 r.2.2 (r.2.2.any (trackStopped r.1)))

/-! ## Hold-up capacitance (R565, R566) -/

/-- The conditions for a discharge (R565), and the order of the kinds (R192). -/
def State.holdCond (s : State) : Bool :=
  let u := s.uBytes
  s.calPin.isSome && s.pins.pfailN && !s.energy.pfSeq && s.cal.req0.isEmpty && (s.cal.req1.isEmpty || !s.gbl.recovered) &&
  decide (s.vholdMin * 12 * 40960000 ≤ s.vhNum * 10000) && s.energy.samples.length == 4 &&
  decide (maxOf s.energy.samples * 99 ≤ minOf s.energy.samples * 100) &&
  (u == 0 || decide ((u : Int) ≤ (s.horizonOf (s.vhNum * 95 / 100) : Int) - (marginM : Int)))

/-- The level of the calibration pin. -/
def setCalPin (s : State) (v : Bool) : State :=
  match s.calPin with
  | some p => { s with pins := { s.pins with evtOut := putBit s.pins.evtOut p.val v } }
  | none => s

/-- Begin a discharge. -/
def startDischarge (s : State) (second : Bool) (v0 : Nat) (first : Option Nat) : State :=
  setCalPin { s with cal := { s.cal with hold := .discharging second s.gbl.tick none v0 first } } true

/-- ln(k0 ÷ k1) by its odd series in (k0 − k1) ÷ (k0 + k1), to eight terms. -/
def lnRatio (k0 k1 : Nat) : Rat :=
  let z : Rat := ((k0 - k1 : Nat) : Rat) / ((k0 + k1 : Nat) : Rat)
  2 * ((List.range 8).map (fun i => z ^ (2 * i + 1) / ((2 * i + 1 : Nat) : Rat))).sum

/-- C in 0.01 mF from a discharge of `t` µs from code `k0`, rounded to nearest (R565; log 37); none outside 1 ms to 50 ms. -/
def capOf (mohm k0 t : Nat) : Option Nat :=
  let k1 := 95 * k0 / 100
  if t < 1000 || 50000 < t || k1 == 0 then none
  else some (((t * 100 : Nat) : Rat) / ((mohm : Rat) * lnRatio k0 k1) + 1 / 2).floor.toNat

/-- Two capacitances differ by at most 2 % of the larger. -/
def capsAgree (a b : Nat) : Bool := decide ((max a b - min a b) * 100 ≤ 2 * max a b)

/-- The run ends with its two measurements (R560, R561, R566). A capacitance that a failed first measurement lacks is a free
value in REJ_A (log 2). -/
def concludeHold (s0 : State) (a b : Option Nat) : State :=
  let s := setCalPin { s0 with cal := { s0.cal with hold := .idle } } false
  let reject := fun (s : State) =>
    let n := s.cal.holdConsec + 1
    let s1 := noteReject { s with free := s.free + 1 } 2 0 (a.getD ((Config.freeWord s.free).toNat % 2 ^ 32)) (b.getD 0xFFFFFFFF)
    let s2 := { s1 with cal := { s1.cal with holdConsec := n, holdOff := s.tenMinutes, holdRep := decide (n < 3) } }
    endRun (if 3 ≤ n then degrade s2 2 0 n else s2) 2 false
  match a, b with
  | some x, some y =>
    if capsAgree x y then
      let s1 := setCap { s with
        cal := { s.cal with holdMeas := some (min x y), holdTref := s.gbl.tj.toInt, holdConsec := 0, holdOff := 0, holdRep := false }
        energy := { s.energy with needCal := false } }
      endRun (noteAccept s1 2 s1.energy.cap) 2 true
    else reject s
  | _, _ => reject s

/-- A discharge ends. -/
def endDischarge (s0 : State) (second : Bool) (v0 : Nat) (first c : Option Nat) : State :=
  let s := setCalPin s0 false
  if second then concludeHold s first c
  else { s with cal := { s.cal with hold := .recharging s.gbl.tick v0 c } }

/-- V_h lies within 1 % of a value. -/
def nearV (s : State) (v0 : Nat) : Bool := decide (s.vhNum * 100 ≤ v0 * 101) && decide (v0 * 99 ≤ s.vhNum * 100)

/-- What a sample does to a hold-up run (R565). -/
def holdSample (s : State) (code : Nat) : State :=
  match s.cal.hold with
  | .discharging second since none v0 first =>
    if 100 ≤ (s.gbl.tick - since).toNat
    then { s with cal := { s.cal with hold := .discharging second since (some (code, s.gbl.tick)) v0 first } } else s
  | .discharging second _ (some (k0, t0)) v0 first =>
    if code ≤ 95 * k0 / 100 then endDischarge s second v0 first (capOf s.loadMohm k0 (s.gbl.tick - t0).toNat) else s
  | .recharging _ v0 first => if nearV s v0 && s.holdCond then startDischarge s true v0 first else s
  | _ => s

/-- CAL_HOLDUP_RUN: once the conditions hold, the first discharge begins (R565). -/
def execCalHoldupRun (s : State) : Host.Outcome State Fault Refusal :=
  match s.cal.hold with
  | .waiting _ => if s.calRuns && s.holdCond then .next (startDischarge s false s.vhNum none) else .next s
  | _ => .next s

/-- HOLDUP_DISCHARGE_TIMEOUT: the code has not reached k1 within 50 ms, so the measurement fails (R565). -/
def execHoldupDischargeTimeout (s : State) : Host.Outcome State Fault Refusal :=
  match s.cal.hold with
  | .discharging second _ _ v0 first => .next (endDischarge s second v0 first none)
  | _ => .next s

/-- HOLDUP_RECHARGE_TIMEOUT: V_h has not returned within HOLD_RECHARGE_MS, so the second measurement fails (R565). -/
def execHoldupRechargeTimeout (s : State) : Host.Outcome State Fault Refusal :=
  match s.cal.hold with
  | .recharging _ _ first => .next (concludeHold s first none)
  | _ => .next s

/-- HOLDUP_CONDITION_TIMEOUT: 60 s after the request the run ends without being accepted (R565). -/
def execHoldupConditionTimeout (s : State) : Host.Outcome State Fault Refusal :=
  match s.cal.hold with
  | .waiting _ => .next (concludeHold s none none)
  | _ => .next s

/-- CAL_REPEAT: a disagreeing run is repeated for the units that were not accepted; for kind 2 once its conditions hold again
(R561, R567). -/
def execCalRepeat (kind : Fin 3) (s : State) : Host.Outcome State Fault Refusal :=
  if !s.calRuns || s.stopped then .next s
  else if kind == 0 then .next (requestCal { s with cal := { s.cal with rep0 := [] } } 0 (s.cal.rep0.filter s.trimUnits.contains))
  else if kind == 1 then .next (requestCal { s with cal := { s.cal with rep1 := [] } } 1 (s.cal.rep1.filter s.trackUnits.contains))
  else if s.cal.holdRep && s.holdCond && s.cal.hold == .idle
    then .next (requestCal { s with cal := { s.cal with holdRep := false } } 2 [0])
  else .next s

/-! ## CAL_CTRL (Table 6-23) -/

/-- A write of CAL_CTRL: TEMP_DELTA with its feature, AUTO_EN, and the kinds requested in bit order (R192). -/
def calCtrlWrite (s : State) (v : Word) : State :=
  let d := bitsOf v.toNat 15 8
  let s1 := noteGen { s with sys := { s.sys with calDelta := max 1 d }, cal := { s.cal with autoEn := bitOf v.toNat 3 } } 7
  (bitList 3 v.toNat).foldl requestKind s1

/-- A CAL_CTRL write that reaches a register file that takes writes (R180, R417). -/
def calReq (s : State) (v : Word) : State := if !s.hostAccess || s.limited then s else calCtrlWrite s v

/-- CAL_REQ_TRIM: a CAL_CTRL write with REQ bit 0 (R559). -/
def execCalReqTrim (value : Word) (s : State) : Host.Outcome State Fault Refusal := .next (calReq s (value ||| 1))

/-- CAL_REQ_TRACK: a CAL_CTRL write with REQ bit 1 (R559). -/
def execCalReqTrack (value : Word) (s : State) : Host.Outcome State Fault Refusal := .next (calReq s (value ||| 2))

/-- CAL_REQ_HOLDUP: a CAL_CTRL write with REQ bit 2 (R559). -/
def execCalReqHoldup (value : Word) (s : State) : Host.Outcome State Fault Refusal := .next (calReq s (value ||| 4))

end Sys2Proof.Machine
end

