-- ==== Sys2Proof/Machine/HealthPage.lean ====
section
/-! DEFINITION. The HEALTH page (Table 21-5a). -/

namespace Sys2Proof.Machine

/-- Blocks the wear figures count: listed, not on the Rubble list, on LUNs in service. -/
def State.wearBlocks (s : State) : List Nat :=
  (s.media.blocks.filter (fun b => b.2.use != .rubble && s.liveLuns.contains (blkLun b.1))).map (fun b => b.2.erases)

/-- G, less the blocks retired since (R472). -/
def State.goodNow (s : State) : Nat := s.sys.good - s.rubble

/-- The 1,280 bytes of the HEALTH page from the counters and gauges as they stand (Table 21-5a). -/
def State.healthPage (s : State) : List Byte :=
  let h := s.log.health
  let hi := maxOf s.wearBlocks
  let e := minOf (s.profs.map pfEndurance)
  leBytes 8 s.spareLeft ++ leBytes 8 s.sys.spare ++ leBytes 2 s.sparePermille ++
  leBytes 2 (if e == 0 then 0 else satTo 0xFFFF (1000 * hi / e)) ++ leBytes 4 (satTo 0xFFFFFFFF hi) ++
  leBytes 4 (s.wearBlocks.sum / max 1 s.goodNow) ++ leBytes 4 s.goodNow ++
  leBytes 8 h.hostBytes ++ leBytes 8 h.mediaBytes ++
  ([h.retryOk, h.soft2Ok, h.soft3Ok, h.rebuilt, h.uncorrectable, h.programFails, h.eraseFails, h.timeouts, h.mcParity,
    h.mcScrub, h.crcMismatch, h.busErrors, h.lostAckEvents, h.holdupShorts, h.powerFails, h.orphans,
    s.bootNow.toNat].flatMap (leBytes 8)) ++
  leBytes 2 (BitVec.ofInt 16 h.tjMax).toNat ++
  leBytes 1 (s.aon.rails.vselMismatch.toNat + 16 * b2n s.aon.testEnSeen + 32 * b2n (!s.factoryOk)) ++ [0] ++
  bytesAt (h.tempMin.flatMap (leBytes 4)) 0 48 ++ leBytes 8 h.overdriveMs ++ leBytes 8 h.coreOnS ++ leBytes 4 s.rubble ++
  (List.range 512).flatMap (fun l => leBytes 2 (satTo 0xFFFF (s.rubbleOf l)))

end Sys2Proof.Machine
end

