-- ==== Sys2Proof/Machine/Msp.lean ====
section
/-! DEFINITION. The Management Serial Port, the orders and the OTP burns (chapter 20). -/

namespace Sys2Proof.Machine

/-! ## FSTAT (Table 20-3) and policy bits (Table 6-13) -/
def fstatOk : Nat := 0
def fstatCoreOff : Nat := 1
def fstatDenied : Nat := 2
def fstatBadArg : Nat := 3
def fstatBadCrc : Nat := 4
def fstatBadOp : Nat := 6
def fstatBurnFail : Nat := 7
def fstatNotBlank : Nat := 8

/-- POLICY as the MSP applies it (R657). -/
def State.mspPolicy (s : State) : BitVec 11 := s.aon.policy.getD s.policyInit

/-- R654: no capture is possible. -/
def State.coreOff (s : State) : Bool :=
  !s.pins.vddCore || !s.pins.resetN || s.aon.policy.isNone || (s.gbl.clockLost && s.energy.parked)

/-- HCRC over OPCODE, ARG and payload (R650). -/
def hcrcOk (op : Nat) (arg : BitVec 16) (payload : List Byte) (hcrc : BitVec 16) : Bool :=
  crc16 (leBytes 1 op ++ leBytes 2 arg.toNat ++ payload) == hcrc

/-- A burn stops or ends: which bits it left programmed (R672, R673). `clocks` counts turnaround clocks given, `failing` the
bits that do not read 1 at the margin reference; bits a cut leaves weak are free values. -/
def endBurn (s : State) (word : Nat) (v : DWord) (clocks : Nat) (failing : DWord) : State :=
  let old := (s.aon.otp[word]?).getD 0
  let prog : DWord :=
    if clocks == 0 then 0
    else if clocks < 1792 then v &&& Config.freeWord s.free
    else v &&& ~~~failing
  let new := old ||| prog
  let full := decide (2048 ≤ clocks)
  { s with
    aon := { s.aon with
      otp := s.aon.otp.setIfInBounds word new
      shadow := s.aon.shadow.setIfInBounds word new
      frame := some ⟨none, if full && new &&& v ≠ v then fstatBurnFail else fstatOk, []⟩ }
    free := s.free + (if 0 < clocks && clocks < 1792 then 1 else 0) }

/-- MSP_CS_N rises after a complete frame: a burn that ran its turnaround has ended (R672). -/
def endFrame (s : State) : State :=
  match s.aon.frame with
  | some ⟨some (w, v), _, _⟩ => endBurn s w v 2048 0
  | _ => s

/-- Answer a frame (R651): with FSTAT not OK every data byte is 0. -/
def answer (s : State) (fstat : Nat) (d : Nat) (data : List Byte) : State :=
  { s with aon := { s.aon with frame := some ⟨none, fstat, if fstat == fstatOk then data else List.replicate d 0⟩ } }

/-- Answer DENIED and count it in REFUSED (R658). -/
def deny (s : State) (d : Nat) : State :=
  let s1 := answer s fstatDenied d []
  { s1 with aon := { s1.aon with refused := if s.aon.refused = 0xFFFFFFFF then s.aon.refused else s.aon.refused + 1 } }

/-- SET_IN_FORCE and SET_NEWEST as bytes: 0xFF for none (Table 20-5). -/
def slotByte : Option (Fin 4) → Nat
  | some k => k.val
  | none => 0xFF

/-- ACK_PENDING (Table 20-7). -/
def Aon.ackPending (a : Aon) : Bool := decide (a.ackGen < a.reqGen)

/-- READ_STATUS data (Table 20-5). BURN_BUSY reads 0: the device's own burns are whole within a command (log 8). -/
def State.mspStatus (s : State) : List Byte :=
  let observe := s.mspPolicy.getLsbD 0
  let off := s.coreOff
  [BitVec.ofNat 8 (b2n off + b2n s.pins.pwrSafe * 2 + b2n (!s.pins.pfailN) * 4 + b2n s.aon.disagree * 8 +
      b2n s.aon.ackPending * 16 + b2n (observe && !off && s.pcie.orphan) * 64),
   BitVec.ofNat 8 (if !observe then 0xFF else if off then (if s.pins.resetN then 1 else 0) else s.gbl.state.code),
   BitVec.ofNat 8 (slotByte s.aon.setInForce), BitVec.ofNat 8 (slotByte (newestSlot s.aon.shadow))] ++
  leBytes 2 s.mspPolicy.toNat ++ leBytes 2 (s.aon.reqGen.toNat % 65536)

/-- READ_ID data (Table 20-4). -/
def State.mspId (s : State) : List Byte :=
  leBytes 4 0x70400E51 ++ [0xB1, s.aon.straps, 0, 0] ++ s.serial

/-- The mirror (Table 20-7). -/
def State.mirror (s : State) (coreOff : Bool) : List Byte :=
  leBytes 2 s.aon.reqCh.toNat ++ leBytes 2 s.aon.effCh.toNat ++ [s.aon.reqFlags, s.aon.effFlags,
    BitVec.ofNat 8 (b2n s.aon.disagree + b2n coreOff * 2 + b2n s.aon.ackPending * 4), 0] ++
  leBytes 4 s.aon.reqGen.toNat ++ leBytes 4 s.aon.ackGen.toNat ++ leBytes 4 s.aon.effGen.toNat ++
  leBytes 4 s.aon.refused.toNat ++ leBytes 8 s.aon.disTick.toNat

/-- Snapshot pages (Table 20-6). -/
def State.snapshot (s : State) (page : Nat) : List Byte :=
  if page == 0 then
    leBytes 4 s.regStatus ++ leBytes 4 s.regHalt ++ leBytes 4 s.regTemp ++ leBytes 4 s.regPwr1 ++
    leBytes 4 s.regHorizon ++ leBytes 4 s.regHold ++ leBytes 8 s.gbl.tick.toNat
  else if page == 1 then
    leBytes 4 s.regCalStatus ++ leBytes 4 s.regMcCheck ++ leBytes 4 s.regSeal ++ leBytes 4 s.regCasStatus ++
    leBytes 4 s.regHmap ++ leBytes 4 s.media.pace.sustain ++ leBytes 4 s.media.pace.headroom ++
    leBytes 2 s.sparePermille ++ [BitVec.ofNat 8 (b2n s.pcie.orphan), 0]
  else if page == 2 then s.mirror s.coreOff
  else
    leBytes 4 s.regPwr0 ++ leBytes 2 s.media.chPresent.toNat ++ leBytes 2 s.media.offline.toNat ++
    leBytes 4 s.regCap0 ++ leBytes 4 s.regCap1 ++ leBytes 16 0

/-- One OTP word as READ_OTP shows it: zeros for the protected key area and the reserved words (R664, R665). -/
def State.otpShown (s : State) (w : Nat) : DWord :=
  if (0x20 ≤ w && w < 0x28) || 0x62 ≤ w then 0 else (s.aon.shadow[w]?).getD 0

/-- MSP_READ_STATUS: AFLAGS, STATE, the Settings slots, POLICY and REQ_GEN (R653, R655). -/
def execMspReadStatus (arg hcrc : BitVec 16) (s : State) : Host.Outcome State Fault Refusal :=
  if !s.pins.vaon then .next s
  else
    let s := endFrame s
    if !hcrcOk 0x01 arg [] hcrc then .next (answer s fstatBadCrc 8 [])
    else if arg ≠ 0 then .next (answer s fstatBadArg 8 [])
    else .next (answer s fstatOk 8 s.mspStatus)

/-- MSP_READ_ID: identity, straps and serial number (R655). -/
def execMspReadId (arg hcrc : BitVec 16) (s : State) : Host.Outcome State Fault Refusal :=
  if !s.pins.vaon then .next s
  else
    let s := endFrame s
    if !hcrcOk 0x02 arg [] hcrc then .next (answer s fstatBadCrc 24 [])
    else if arg ≠ 0 then .next (answer s fstatBadArg 24 [])
    else .next (answer s fstatOk 24 s.mspId)

/-- READ_OTP: eight words from the shadow (R664). -/
def execReadOtp (arg hcrc : BitVec 16) (s : State) : Host.Outcome State Fault Refusal :=
  if !s.pins.vaon then .next s
  else
    let s := endFrame s
    if !hcrcOk 0x03 arg [] hcrc then .next (answer s fstatBadCrc 64 [])
    else if arg.toNat % 8 != 0 || 0xF8 < arg.toNat then .next (answer s fstatBadArg 64 [])
    else .next (answer s fstatOk 64 ((List.range 8).flatMap (fun i => leBytes 8 (s.otpShown (arg.toNat + i)).toNat)))

/-- READ_SNAPSHOT: a page, DENIED without MSP_OBSERVE, or CORE_OFF (R656, R654). -/
def execReadSnapshot (arg hcrc : BitVec 16) (s : State) : Host.Outcome State Fault Refusal :=
  if !s.pins.vaon then .next s
  else
    let s := endFrame s
    if !hcrcOk 0x10 arg [] hcrc then .next (answer s fstatBadCrc 32 [])
    else if 3 < arg.toNat then .next (answer s fstatBadArg 32 [])
    else if arg ≠ 2 && !s.mspPolicy.getLsbD 0 then .next (deny s 32)
    else if arg ≠ 2 && s.coreOff then .next (answer s fstatCoreOff 32 [])
    else .next (answer s fstatOk 32 (s.snapshot arg.toNat))

/-! ## Orders (R659 to R663) -/

/-- The data path disagrees (R663). -/
def State.disagrees (s : State) : Bool :=
  s.aon.ackGen == s.aon.reqGen && !s.coreOff &&
  (s.aon.effGen != s.aon.reqGen || s.aon.effCh != s.aon.reqCh || s.aon.effFlags != s.aon.reqFlags)

/-- DISAGREE clears when disagreement ends or while CORE_OFF holds, and its timing starts anew (R663, R685). -/
def syncDisagree (s : State) : State :=
  if s.disagrees then
    { s with aon := { s.aon with disSince := some (s.aon.disSince.getD s.gbl.tick) } }
  else { s with aon := { s.aon with disagree := false, disSince := none } }

/-- An order's payload: CH_MASK, OFLAGS, and whether its range is right and it names something (R659). -/
def orderArgs (p : Word) : BitVec 16 × BitVec 8 × Bool :=
  let ch := BitVec.ofNat 16 (p.toNat % 65536)
  let fl := BitVec.ofNat 8 (p.toNat / 65536 % 256)
  (ch, fl, p.toNat / 2 ^ 24 == 0 && fl.toNat / 4 == 0 && (ch != 0 || fl != 0))

/-- POLICY permits every kind the order names (R659). -/
def orderAllowed (pol : BitVec 11) (ch : BitVec 16) (fl : BitVec 8) : Bool :=
  (ch == 0 || pol.getLsbD 1) && (!fl.getLsbD 0 || pol.getLsbD 2) && (!fl.getLsbD 1 || pol.getLsbD 3)

/-- REQUESTED takes new values; REQ_GEN advances when they differ (R659). -/
def setRequested (s : State) (ch : BitVec 16) (fl : BitVec 8) : State :=
  if ch = s.aon.reqCh ∧ fl = s.aon.reqFlags then s
  else syncDisagree { s with aon := { s.aon with reqCh := ch, reqFlags := fl, reqGen := s.aon.reqGen + 1 } }

/-- An order frame: judged for its CRC, its policy and its range, then taken (R650, R657 to R659). -/
def orderFrame (op : Nat) (setting : Bool) (arg : BitVec 16) (payload : Word) (hcrc : BitVec 16) (s0 : State) : State :=
  let s := endFrame s0
  let o := orderArgs payload
  if !hcrcOk op arg (leBytes 4 payload.toNat) hcrc then answer s fstatBadCrc 0 []
  else if !orderAllowed s.mspPolicy o.1 o.2.1 then deny s 0
  else if arg ≠ 0 || !o.2.2 then answer s fstatBadArg 0 []
  else if setting then answer (setRequested s (s.aon.reqCh ||| o.1) (s.aon.reqFlags ||| o.2.1)) fstatOk 0 []
  else answer (setRequested s (s.aon.reqCh &&& ~~~o.1) (s.aon.reqFlags &&& ~~~o.2.1)) fstatOk 0 []

/-- ORDER_SET: the named kinds join REQUESTED (R659). -/
def execOrderSet (arg : BitVec 16) (payload : Word) (hcrc : BitVec 16) (s : State) : Host.Outcome State Fault Refusal :=
  if s.pins.vaon then .next (orderFrame 0x40 true arg payload hcrc s) else .next s

/-- ORDER_CLEAR: the named kinds leave REQUESTED (R659). -/
def execOrderClear (arg : BitVec 16) (payload : Word) (hcrc : BitVec 16) (s : State) : Host.Outcome State Fault Refusal :=
  if s.pins.vaon then .next (orderFrame 0x41 false arg payload hcrc s) else .next s

/-- The core takes the posted orders and applies those the data path does not hold yet; EFFECTIVE and EFF_GEN follow
(R660). `heldCh` and `heldFl` are what the data path held before. -/
def applyOrders (s : State) (heldCh : BitVec 16) (heldFl : BitVec 8) : State :=
  let ch := s.aon.reqCh
  let fl := s.aon.reqFlags
  let s0 := { s with aon := { s.aon with ackGen := s.aon.reqGen } }
  let s1 := (List.range 16).foldl (fun s c =>
    if ch.getLsbD c && !heldCh.getLsbD c then takeOffline s c 2 else s) s0
  let s2 := if fl.getLsbD 0 && !heldFl.getLsbD 0 then refresh { s1 with gbl := { s1.gbl with roReq := true } } else s1
  let s3 := if fl.getLsbD 1 && !heldFl.getLsbD 1 then enterHalted s2 causeMspHalt 0 else s2
  let s4 := { s3 with aon := { s3.aon with effCh := ch, effFlags := fl, effGen := s3.aon.ackGen } }
  let s5 := if ch = heldCh ∧ fl = heldFl then s4
    else logEvent s4 logMspOrder [(0, 2, ch.toNat), (2, 2, ch.toNat), (4, 1, fl.toNat), (5, 1, fl.toNat),
      (8, 4, s4.aon.reqGen.toNat)]
  syncDisagree s5

/-- ORDER_APPLY: the posted orders reach the core, which applies them and publishes EFFECTIVE (R660); not in the power-fail
sequence or the park (R662), nor before t5. -/
def execOrderApply (s : State) : Host.Outcome State Fault Refusal :=
  if s.coreOff || s.energy.pfSeq || s.aon.ackGen == s.aon.reqGen then .next s
  else .next (applyOrders s s.aon.effCh s.aon.effFlags)

/-- DISAGREE_TIMEOUT: disagreement has held for 50 ms (R663). -/
def execDisagreeTimeout (s : State) : Host.Outcome State Fault Refusal :=
  if s.disagrees then .next { s with aon := { s.aon with disagree := true, disTick := s.gbl.tick } } else .next s

/-! ## Burning (R671 to R673) and thermometers (R669) -/

/-- BURN: the checks of R671 in order; an accepted burn runs over the turnaround (R672). -/
def execBurn (arg : BitVec 16) (payload : DWord) (hcrc : BitVec 16) (s : State) : Host.Outcome State Fault Refusal :=
  if !s.pins.vaon then .next s
  else
    let s := endFrame s
    let w := arg.toNat
    if !hcrcOk 0x60 arg (leBytes 8 payload.toNat) hcrc then .next (answer s fstatBadCrc 0 [])
    else if !s.mspPolicy.getLsbD 4 then .next (deny s 0)
    else if w < 0x48 || 0x5F < w then .next (answer s fstatBadArg 0 [])
    else if (s.aon.shadow[w]?).getD 0 &&& ~~~payload ≠ 0 then .next (answer s fstatNotBlank 0 [])
    else .next { s with aon := { s.aon with frame := some ⟨some (w, payload), fstatOk, []⟩ } }

/-- The opcodes of Table 20-2. -/
def mspOps : List Nat := [0x01, 0x02, 0x03, 0x10, 0x40, 0x41, 0x60]

/-- MSP_BAD_OP: an unassigned opcode, taken with no payload and no data (R650). -/
def execMspBadOp (op : Byte) (arg hcrc : BitVec 16) (s : State) : Host.Outcome State Fault Refusal :=
  if !s.pins.vaon || mspOps.contains op.toNat then .next s
  else
    let s := endFrame s
    if !hcrcOk op.toNat arg [] hcrc then .next (answer s fstatBadCrc 0 []) else .next (answer s fstatBadOp 0 [])

/-- MSP_CS_RISE: the frame ends; a burn with fewer than 2,048 turnaround clocks stops at once (R650, R673). -/
def execMspCsRise (clocks : Nat) (failing : DWord) (s : State) : Host.Outcome State Fault Refusal :=
  if !s.pins.vaon then .next s
  else
    match s.aon.frame with
    | some ⟨some (w, v), _, _⟩ => .next (endBurn s w v clocks failing)
    | _ => .next s

/-- Level a thermometer is raised to: the stored microcode image's, or that of the newest firmware full service has begun
on (R669, R542). -/
def State.thermTarget (s : State) (firmware : Bool) : Nat :=
  if firmware then s.sys.fwLevel
  else ((s.sys.stored.map (·.level)).getD 0)

/-- Burn a thermometer word up to its target (R669). -/
def raiseTherm (s : State) (firmware : Bool) : State :=
  let w := if firmware then 0x61 else 0x60
  let v := (s.aon.otp[w]?).getD 0 ||| thermWord (s.thermTarget firmware)
  { s with aon := { s.aon with otp := s.aon.otp.setIfInBounds w v, shadow := s.aon.shadow.setIfInBounds w v
                               thermDue := putBit s.aon.thermDue (b2n firmware) false } }

/-- THERMOMETER_BURN: a due raise, while PFAIL_N is deasserted, no power-fail sequence runs and no MSP burn runs (R669, R682). -/
def execThermometerBurn (firmware : Bool) (s : State) : Host.Outcome State Fault Refusal :=
  let busy := match s.aon.frame with
    | some ⟨some _, _, _⟩ => true
    | _ => false
  if s.gbl.coreOn && s.aon.thermDue.getLsbD (b2n firmware) && s.pins.pfailN && !s.energy.pfSeq && !busy
  then .next (raiseTherm s firmware) else .next s

end Sys2Proof.Machine
end

