-- ==== Sys2Proof/Machine/Queues.lean ====
section
/-! DEFINITION. The Queue Engine: doorbells, scans, arbitration, the judgement of each consumed entry, CRC re-reads, visibility,
shadow writes and coalescing (chapters 7 and 8; R272 to R297, R424 to R430). -/

namespace Sys2Proof.Machine

/-! ## Slots and the entry cache (R202 to R209) -/

/-- Slot `slot` holds an entry in flight. -/
def slotInFlight (s : State) (q depth slot : Nat) : Bool :=
  (s.jobsOf q).any (fun j => j.count.toNat % depth == slot)

/-- Slots from HEAD up to the first that holds an entry in flight (R202). -/
def runCap (s : State) (q : Nat) (k : Queue) : Nat :=
  ((List.range k.depth).takeWhile (fun i => !slotInFlight s q k.depth ((k.head.toNat + i) % k.depth))).length

/-- The cached copy of a slot. -/
def Queue.copy? (k : Queue) (slot : Nat) : Option CacheCopy := k.cache.find? (fun c => c.slot == slot)

/-- Address of a slot. -/
def Queue.slotAddr (k : Queue) (slot : Nat) : Nat := k.p.base + 64 * slot

/-- The 64 bytes read for a slot outside a scan: in CACHE mode bytes 0 to 55 come from a copy (R209). -/
def slotBytes (s : State) (b : Bus) (k : Queue) (slot : Nat) : Option (List Byte) :=
  match (if k.p.cacheMode then k.copy? slot else none) with
  | some c => (shReadN s b (k.slotAddr slot + 56) 8).map (c.bytes ++ ·)
  | none => shReadN s b (k.slotAddr slot) 64

/-- The copy of a slot that an earlier scan cached (R209). -/
def Queue.older? (k : Queue) (slot : Nat) : Option CacheCopy :=
  if k.p.cacheMode then k.cache.find? (fun c => c.slot == slot && decide (c.age < k.scanAge)) else none

/-- Slots of one full read from `slot` on: at most 32, not across the ring's end, none that an older copy is kept of (R205, R209). -/
def Queue.readLen (k : Queue) (n slot : Nat) : Nat :=
  max 1 ((List.range (min (min n 32) (k.depth - slot))).takeWhile (fun i => (k.older? (slot + i)).isNone)).length

/-- Fetch the next `n` slots from `slot` on, read after read (R205, R209): the slots read, and the address of the read that failed and
ended the fetch, if one did. -/
def fetchSlots (s : State) (b : Bus) (k : Queue) : Nat → Nat → Nat → List ScanCopy × Option Nat
  | 0, _, _ => ([], none)
  | fuel + 1, n, slot0 =>
    let slot := slot0 % k.depth
    if n == 0 then ([], none)
    else
      match k.older? slot with
      | some c =>
        let a := k.slotAddr slot + 56
        (match shReadN s b a 8 with
         | none => ([], some a)
         | some x => let r := fetchSlots s b k fuel (n - 1) (slot + 1); (⟨slot, c.bytes ++ x, true⟩ :: r.1, r.2))
      | none =>
        let m := k.readLen n slot
        let a := k.slotAddr slot
        (match shReadN s b a (64 * m) with
         | none => ([], some a)
         | some x =>
           let r := fetchSlots s b k fuel (n - m) (slot + m)
           ((List.range m).map (fun i => ⟨slot + i, bytesAt x (64 * i) 64, false⟩) ++ r.1, r.2))

/-- Copies in the entry cache, over all queues. -/
def cacheCount (s : State) : Nat := (s.queues.qs.map (fun k => k.2.cache.length)).sum

/-- Evict the copy fetched longest ago (R209). -/
def evictOldest (s : State) : State :=
  let age := minOf (s.queues.qs.flatMap (fun k => k.2.cache.map (·.age)))
  { s with queues := { s.queues with qs := tmap s.queues.qs (fun _ k => { k with cache := k.cache.filter (fun c => c.age != age) }) } }

/-- In CACHE mode a fetched copy whose byte 63 read 0x00 or 0x80 is kept, and every other one is discarded (R209). -/
def keepCopy (q : Nat) (s : State) (c : ScanCopy) : State :=
  if !(eOwn c.bytes == 0x00 || eOwn c.bytes == 0x80) then
    modQueue s q (fun k => { k with cache := k.cache.filter (fun x => x.slot != c.slot) })
  else if c.older then s
  else
    let s1 := if 16384 ≤ cacheCount s then evictOldest s else s
    let s2 := modQueue s1 q (fun k => { k with
      cache := k.cache.filter (fun x => x.slot != c.slot) ++ [⟨c.slot, c.bytes.take 56, s1.queues.nextAge⟩] })
    { s2 with queues := { s2.queues with nextAge := s2.queues.nextAge + 1 } }

/-- The running scan of a queue fetches `n` slots from `slot` on (R202, R203). A failed read is dealt with when the scan has done with what
was read before it (R207, log 15). -/
def fetch (b : Bus) (q n slot : Nat) (s : State) : State :=
  match tget s.queues.qs q with
  | none => s
  | some k =>
    let r := fetchSlots s b k (n + 1) n slot
    let s1 := modQueue s q (fun k => { k with copies := k.copies ++ r.1, fetchFail := if r.2.isSome then r.2 else k.fetchFail })
    if k.p.cacheMode then r.1.foldl (keepCopy q) s1 else s1

/-! ## Faults of the ring (R207) -/

/-- Disable a queue as DISABLE_QUEUE STOP does (R191, R236). -/
def disableQueue (s : State) (q : Nat) : State :=
  let s1 := modQueue s q (fun k => { k.endScan with enabled := false, pend := false })
  if q == 0 then { s1 with adm := { s1.adm with en := false } } else s1

/-- Under FAULT_POLICY HALT the device enters HALTED (R254). -/
def faultPolicy (s : State) (q : Nat) : State :=
  match tget s.queues.qs q with
  | some k => if k.p.faultHalt then enterHalted s causeFaultHalt q else s
  | none => s

/-- A failed ring read (1) or TAIL_HINT read (2) (R207). -/
def queueFault (s : State) (q what addr : Nat) : State :=
  match tget s.queues.qs q with
  | none => s
  | some k =>
    let s1 := countBus (modQueue (disableQueue s q) q (fun k => { k with busFault := true }))
    faultPolicy (logEvent s1 logQueueFault [(0, 2, q), (2, 1, what), (4, 4, k.head.toNat), (8, 8, addr)]) q

/-! ## Judging an entry (R252 to R254, R294 to R297, R424) -/

/-- A command named by a stream handle. -/
def byHandleOp (op : Nat) : Bool := op == opStreamAppend || op == opStreamMark || op == opStreamClose

/-- Key of the stream a handle names: a local one, or a span stream of the Keystone (R631). -/
def State.handleKey (s : State) (h : Nat) : Option Nat :=
  match s.byHandle h with
  | some (k, _) => some k
  | none => (tget s.cas.spanHandles h).map (·.1)

/-- The stream a handle stands for at consumption; none where it is not open or its close was consumed before the entry at this place of
the order (R302). -/
def handleStream (s : State) (order : Nat) (e : List Byte) : Nat :=
  match s.handleKey (eHandle e) with
  | some k =>
    if s.queues.jobs.any (fun j => j.op == opStreamClose && j.mark == k && j.phase != .crcWait && decide (j.order < order)) then 0 else k
  | none => 0

/-- The Keystone executes this entry on the members of a span (R628, R631). -/
def spanEntry (s : State) (e : List Byte) : Bool :=
  let op := eOp e
  !fwdAway s e &&
  (if byHandleOp op then (s.byHandle (eHandle e)).isNone && (tget s.cas.spanHandles (eHandle e)).isSome
   else [opRead, opWrite, opWriteZeroes, opTrim, opFlush, opStreamOpen, opStreamRead].contains op && (s.span? (ePart e)).isSome &&
     !(op == opFlush && bitOf (eAttr e) 0))

/-- A FLUSH has sub-commands on members (R631). -/
def flushSpans (s : State) (e : List Byte) : Bool :=
  !fwdAway s e && (if bitOf (eAttr e) 0 then s.cas.spans.any (fun x => (s.span? x.1).isSome) else (s.span? (ePart e)).isSome)

/-- The partitions an I/O entry names, as far as this device knows them. -/
def namedParts (s : State) (e : List Byte) : List Nat :=
  let op := eOp e
  if op == opFence then []
  else if op == opFlush && bitOf (eAttr e) 0 then s.parts.map (·.1) ++ s.cas.spans.map (·.1)
  else if byHandleOp op then
    (if fwdAway s e then [] else match s.handleKey (eHandle e) with
      | some k => [sPart k]
      | none => [])
  else [ePart e]

/-- The partition's XTS key is destroyed (R319). -/
def State.keyGone (s : State) (p : Nat) : Bool :=
  match tget s.parts p with
  | some q => q.xts && q.keyDev.isNone && !s.media.foreign
  | none => false

/-- SC_ACCESS_DENIED of an I/O entry (R172, R283, R297, R319, R320): the mask of its queue, foreign media, a destroyed key,
PROT_POLICY.RAW_READ. -/
def ioDenied (s : State) (q : Nat) (e : List Byte) : Bool :=
  let ps := namedParts s e
  let m := s.qmask (if q == 4096 then 0 else q)
  ps.any (fun p => !m.getLsbD p) ||
  (!fwdAway s e && s.media.foreign && ps.any (fun p => (tget s.parts p).isSome)) ||
  (!fwdAway s e && [opWrite, opWriteZeroes, opTrim].contains (eOp e) && s.keyGone (ePart e)) ||
  (!fwdAway s e && eOp e == opRawRead && !s.prot.policy.getLsbD 7)

/-- Table 13-4 serves this I/O entry in Footing service, once the Footing is open (R424). -/
def footingServes (s : State) (e : List Byte) : Bool :=
  let op := eOp e
  if fFwd e then false
  else if op == opStreamOpen then
    eStream e == 0 && (match tget s.parts (ePart e) with | some p => p.isStream | none => false)
  else if op == opStreamRead then
    (match s.strm? (sKey (ePart e) (eStream e)) with | some t => t.thisBoot | none => false)
  else byHandleOp op || op == opFlush || op == opFence

/-- Steps 2 and 3 of R295 for an I/O entry: SC_ACCESS_DENIED, SC_READ_ONLY, SC_FOOTING_ONLY. -/
def ioEarly (s : State) (q : Nat) (e : List Byte) : Option Nat :=
  let serves := if q == 4096 then false else footingServes s e
  if ioDenied s q e then some scAccessDenied
  else if !fwdAway s e && s.readOnlyCond && mediaOps.contains (eOp e) then some scReadOnly
  else if !s.gbl.fullService && (!serves || (s.media.footDecided && !s.gbl.footingOpen)) then some scFootingOnly
  else none

/-- The data pieces of a consumed entry (R214, R215). Where the logical block size is not known here, the sum of the SGL is not
judged. -/
def judgePointers (s : State) (b : Bus) (j : Job) : SglResult :=
  let e := j.bytes
  let d := dataOf s e
  let blind := (eOp e == opRead || eOp e == opWrite) && (fwdAway s e || ((tget s.parts (ePart e)).isNone && (s.span? (ePart e)).isNone))
  if d.1 == .none || j.origin.isSome then .ok []
  else if !blind then pointers s b e (d.1 != .toHost) d.2
  else if !fSgl e then .ok [⟨false, false, eD0 e, 0x10000000000⟩]
  else sglFetch s b (d.1 != .toHost) 1025 (eD1 e) false (16 * firstSegLen s b (eD1 e) 1024 0) 0 []

/-- A malformed entry: its completion, then the queue's FAULT_POLICY (R253, R254). -/
def malformed (s : State) (j : Job) (status detail : Nat) : State :=
  faultPolicy (complete s j { status := status } detail) j.q

/-- SET_TIME acts at its consumption (R293): RESULT is the estimate before it. -/
def consumeSetTime (s : State) (j : Job) : State :=
  let s1 := setJob s { j with result := utcAt s.streams.utc s.gbl.tick.toNat }
  { s1 with streams := { s1.streams with utc := some ⟨eTime j.bytes, s.gbl.tick.toNat, eAttr j.bytes⟩ } }

/-- Host bytes admitted for writing: counted for the Overdrive rates and the health log (R475, R690). -/
def countAdmitted (s : State) (e : List Byte) : State :=
  let n := (dataOf s e).2
  if (eOp e != opWrite && eOp e != opStreamAppend) || spanEntry s e then s
  else
    modHealth (modMedia s (fun m => { m with pace := { m.pace with
      nowAll := m.pace.nowAll + n, nowBlock := m.pace.nowBlock + (if eOp e == opWrite then n else 0) } }))
      (fun h => { h with hostBytes := sat64 (h.hostBytes + n) })

/-- The partition a FLUSH names exists (R312). -/
def flushNames (s : State) (e : List Byte) : Bool := bitOf (eAttr e) 0 || (tget s.parts (ePart e)).isSome || (s.span? (ePart e)).isSome

/-- A judged I/O entry that this device executes starts waiting for its own command. -/
def startLocal (s : State) (j : Job) : State :=
  let e := j.bytes
  let s1 := if !s.gbl.fullService && eOp e == opStreamAppend
    then modMedia s (fun m => { m with footFree := m.footFree - j.need }) else s
  let s2 := countAdmitted s1 e
  let p := if byHandleOp j.op then sPart (handleStream s j.order e) else ePart e
  let j := { j with policy := ((tget s.parts p).map (·.feat.ackPolicy)).getD 0 == 1 }
  if j.op == opFlush then
    (if flushNames s e then setJob s2 { j with phase := if flushSpans s e then .ready else .running, mark := s.stage.nextOrder }
     else complete s2 j { status := scOutOfRange })
  else if j.op == opFence then setJob s2 { j with phase := .running }
  else if byHandleOp j.op then setJob s2 { j with mark := handleStream s j.order e }
  else setJob s2 j

/-- An entry of an I/O queue after the conditions of Table 8-3: refused, forwarded, or ready to execute (R295, R297). -/
def routeIo (s : State) (j : Job) : State :=
  match ioEarly s j.q j.bytes with
  | some st => complete s j { status := st }
  | none =>
    if !fwdAway s j.bytes then startLocal s j
    else if waits s j then setJob s { j with phase := .sending, need := 0 }
    else forward s j

/-- Judge a consumed entry whose bytes are settled (R252, R295). -/
def judge (b : Bus) (s : State) (j : Job) : State :=
  match malformedAt s (j.q == 0) j.bytes with
  | some off => malformed s { j with need := 0 } scMalformed off
  | none =>
    match judgePointers s b j with
    | .malformed => malformed s { j with need := 0 } scMalformed 32
    | r =>
      let j1 := { j with phase := .ready, sglErr := r == .busError
                         segs := match r with | .ok x => x | _ => [] }
      let s1 := if r == .busError then countBus (setJob s j1) else setJob s j1
      if j.q == 0 then (if j.op == opSetTime then consumeSetTime s1 j1 else s1) else routeIo s1 j1

/-! ## Admission (R239, R242, R332, R356, R388, R418, R429, R430, R461, R473) -/

/-- Sequence number of the newest committed record of a stream. -/
def Strm.newestCommitted (t : Strm) : Nat :=
  t.recs.foldl (fun a r => if r.kind != 4 && r.committed then max a r.seq else a) 0

/-- A stream as an append, a mark or a close will leave its numbers. -/
def sealAhead (k : Nat) (s : State) (e : List Byte) : State :=
  if eOp e == opStreamAppend then appendSpans s k 0 false (eLen e + 1) (eLen e)
  else
    match s.strm? k with
    | none => s
    | some t => endOrEmpty s k t (if eOp e == opStreamClose then afClose else afMark) 0
        (if eOp e == opStreamClose then cfClose else if fOpt e then cfMark else 0) 0

/-- The entry's records stay to come: it is consumed and has not taken its place. -/
def Job.unsealed (j : Job) : Bool :=
  match j.phase with
  | .visible _ => false
  | .record _ => false
  | .forwarded => false
  | .sending => false
  | .span => false
  | _ => true

/-- An append, a mark or a close keeps its Ashlars within 4,096 of the newest committed record, behind what is consumed and still to be
sealed in its stream (R356). -/
def seqRoom (s : State) (e : List Byte) : Bool :=
  if !byHandleOp (eOp e) then true
  else
    match s.byHandle (eHandle e) with
    | none => true
    | some (k, t) =>
      let ahead := (s.queues.jobs.filter (fun j => byHandleOp j.op && j.mark == k && j.unsealed)).foldl (fun s j => sealAhead k s j.bytes) s
      match (sealAhead k ahead e).strm? k with
      | some t' => decide (t'.coveringSeq ≤ t.newestCommitted + 4096)
      | none => true

/-- Resources a write needs: stage room, a Quarry above its floor or Footing room, and nothing that withholds admission. -/
def writeRoom (s : State) (e : List Byte) : Bool :=
  let n := entryNeed s e
  let op := eOp e
  if !placeOps.contains op || ((op == opWriteZeroes || op == opTrim) && n == 0) then true
  else
    decide (s.stageUsed + n ≤ s.stageBytes) && decide (s.gbl.thermStep.val < 4) && !s.energy.catchUp && !s.eolDue &&
    (if s.gbl.fullService then decide (s.qFloor ≤ s.quarry) else decide (n ≤ s.media.footFree))

/-- The entry at the head may be consumed (R239, R242). Malformed entries, and those this device refuses, need no resource. -/
def admits (s : State) (q : Nat) (e : List Byte) : Bool :=
  if 8192 ≤ s.queues.jobs.length then false
  else if (malformedAt s (q == 0) e).isSome then true
  else if q == 0 then !(eOp e == opIdentify || eOp e == opAttest) || s.sys.t6
  else if !s.gbl.fullService && !s.media.footDecided && q != 4096 && footingServes s e then false
  else if (ioEarly s q e).isSome || fwdAway s e || spanEntry s e then true
  else writeRoom s e && seqRoom s e

/-! ## Consumption (R203, R211) -/

/-- A fresh job for an entry. -/
def newJob (s : State) (q : Nat) (count : BitVec 32) (e : List Byte) : Job :=
  { q := q, count := count, bytes := e, order := s.queues.nextOrder, phase := .ready, need := 0, segs := [], data := []
    window := s.gbl.up && !s.gbl.lock, policy := false, result := 0, ashlar := 0, mark := 0, origin := none, sglErr := false, detached := false }

/-- Add a job in the order of consumption. -/
def addJob (s : State) (j : Job) : State :=
  { s with queues := { s.queues with jobs := s.queues.jobs ++ [j], nextOrder := s.queues.nextOrder + 1 } }

/-- Stage need of an entry executed here; one that goes to another member or is refused here needs none (R332). -/
def localNeed (s : State) (q : Nat) (e : List Byte) : Nat :=
  if q == 0 || (malformedAt s false e).isSome || (ioEarly s q e).isSome || fwdAway s e || spanEntry s e then 0 else entryNeed s e

/-- Consume the slot at HEAD and judge its entry (R203, R210, R211). -/
def consumeSlot (b : Bus) (q slot : Nat) (e : List Byte) (s : State) : State :=
  match tget s.queues.qs q with
  | none => s
  | some k =>
    let j := { newJob s q k.head e with need := localNeed s q e }
    let s1 := modQueue s q (fun k => { k with
      head := k.head + 1, shadowDue := true, newestTag := some (BitVec.ofNat 64 (eTag e))
      cache := k.cache.filter (fun c => c.slot != slot), copies := k.copies.filter (fun c => c.slot != slot), credit := k.credit - 1 })
    let s2 := addJob s1 j
    if eOwn e != 0x80 then malformed s2 { j with need := 0 } scMalformed 63
    else if k.p.crcReq && eCrc e != (crc16 (bytesAt e 0 60)).toNat then
      modHealth (setJob s2 { j with phase := .crcWait }) (fun h => { h with crcMismatch := sat64 (h.crcMismatch + 1) })
    else judge b s2 j

/-- Where the scan of a queue stands. -/
def setScan (s : State) (q : Nat) (x : ScanState) : State := modQueue s q (fun k => { k with scan := x })

/-- The visit ends and the scan goes on later: in SPEC mode only copies whose byte 63 read 0x80 are kept, in CACHE mode those that read
0x00 too (R208, R209). -/
def leaveScan (s : State) (q : Nat) (x : ScanState) : State :=
  modQueue s q (fun k => { k with
    scan := x
    copies := k.copies.filter (fun c => eOwn c.bytes == 0x80 || (k.p.cacheMode && eOwn c.bytes == 0x00)) })

/-- The scan ends at a slot with OWN = 0 (R203); a read that failed behind it is dealt with now (R207). -/
def stopScan (s : State) (q : Nat) : State :=
  match (tget s.queues.qs q).bind (·.fetchFail) with
  | some a => queueFault s q 1 a
  | none => modQueue s q Queue.endScan

/-- A FENCE of the queue waits: its scan pauses (R245). -/
def fenceHolds (s : State) (q : Nat) : Bool := s.queues.jobs.any (fun j => j.q == q && j.op == opFence && j.phase == .running)

/-- One visit: consume under R202 and R203 until `left` entries are taken, the scan stops at OWN = 0, pauses, or the next entry
cannot be admitted (R240). Fetched copies are used first; when they have run out, further slots are fetched in a batch of up to 32, and a
slot whose copy was dropped meanwhile is read by itself (R203, R209). The scan goes on past a consumed entry that awaits its CRC re-read
(R211, R243; DESIGN CHOICE, log 15). -/
def visit (b : Bus) (q : Nat) : Nat → Nat → State → State
  | 0, _, s => s
  | fuel + 1, left, s =>
    match tget s.queues.qs q with
    | none => s
    | some k =>
      let slot := k.head.toNat % k.depth
      if !k.enabled || s.limited then s
      else if left == 0 then leaveScan s q .turn
      else if slotInFlight s q k.depth slot then leaveScan s q .paused
      else
        match k.copies.find? (fun c => c.slot == slot) with
        | none =>
          if k.copies.isEmpty then
            (match k.fetchFail with
             | some a => queueFault s q 1 a
             | none => visit b q fuel left (fetch b q (min 32 (runCap s q k)) slot s))
          else
            (match (fetchSlots s b k 2 1 slot).2 with
             | some a => queueFault s q 1 a
             | none => visit b q fuel left (fetch b q 1 slot s))
        | some c =>
          if !bitOf (eOwn c.bytes) 7 then stopScan s q
          else if !admits s q c.bytes then leaveScan s q .turn
          else
            let s1 := settleJobs (consumeSlot b q slot c.bytes s)
            if fenceHolds s1 q then leaveScan s1 q (.fenced k.head) else visit b q fuel (left - 1) s1

/-- Begin a scan: the pending bit clears, TAIL_HINT is read and sizes the first fetch, which is made at once (R146, R202). -/
def beginScan (b : Bus) (q left : Nat) (s : State) : State :=
  match tget s.queues.qs q with
  | none => s
  | some k =>
    if k.scan != .ended then visit b q 20000 left s
    else
      let s1 := modQueue s q (fun k => { k.endScan with pend := false, scanAge := s.queues.nextAge })
      match shReadN s1 b k.p.shadow 4 with
      | none => queueFault s1 q 2 k.p.shadow
      | some t =>
        let d := (leVal t + 2 ^ 32 - k.head.toNat) % 2 ^ 32
        let n := if 2 ^ 31 ≤ d then 0 else min d k.depth
        let f := if k.p.cacheMode then max n 1 else max (n + k.p.prefetch) 1
        visit b q 20000 left (fetch b q (min f (runCap s1 q k)) (k.head.toNat % k.depth) s1)

/-! ## The cascade queue (R623) -/

/-- Cumulative freed totals once a packet's space is freed (R612). -/
def Port.freed_ (t : Port) (p : Packet) : Vector (BitVec 16) 3 :=
  t.rxFreed.setIfInBounds p.cls ((t.rxFreed[p.cls]?).getD 0 + BitVec.ofNat 16 (pktUnits p))

/-- Free a packet's receive buffer and return the credit in a CREDIT block (R612). -/
def freeRx (s : State) (port : Fin 3) (p : Packet) : State :=
  { s with cas := { s.cas with ports := s.cas.ports.set port { s.cas.ports[port] with
      rxFreed := ((s.cas.ports[port]).freed_ p), credSent := (s.cas.ports[port]).freed_ p } } }

/-- Consume ENTRY packets in arrival order (R623); the origin made the checks of Table 8-3 (R297). -/
def visitCascade : Nat → State → State
  | 0, s => s
  | left + 1, s =>
    match s.cas.entries with
    | [] => s
    | (port, p) :: rest =>
      let e := bytesAt p.payload 0 64
      if 256 ≤ s.inflight 4096 || s.limited then s
      else if !admits s 4096 e then s
      else
        let count := BitVec.ofNat 32 s.queues.nextOrder
        let j := { newJob s 4096 count e with
          origin := some (p.src, p.txn, fieldAt p.payload 64 2, fieldAt p.payload 66 4), need := localNeed s 4096 e }
        let s1 := addJob (freeRx { s with cas := { s.cas with entries := rest } } port p) j
        visitCascade left (settleJobs (routeIo (modQueue s1 4096 (fun k => { k with credit := k.credit - 1 })) j))

/-! ## Arbitration (R240, R241, R270) -/

/-- The rings may be read: not in Orphan in PCIe mode (R116). -/
def State.ringsOn (s : State) : Bool := s.phb || !s.pcie.orphan

/-- The queue's scan could go on, or begin, at a visit: a paused one once its slot is free (R203), and none while a FENCE holds it. -/
def visitable (s : State) (q : Nat) (k : Queue) : Bool :=
  k.enabled && !fenceHolds s q &&
  (match k.scan with
   | .turn => true
   | .ended => k.pend
   | .paused => !slotInFlight s q k.depth (k.head.toNat % k.depth)
   | .fenced _ => false)

/-- Queues a visit could go to. -/
def candidates (s : State) : List Nat :=
  (s.queues.qs.filter (fun p =>
    if p.1 == 0 then false
    else if p.1 == 4096 then !s.cas.entries.isEmpty && decide (s.inflight 4096 < 256)
    else s.ringsOn && !s.pcie.holdIo && visitable s p.1 p.2)).map (·.1)

/-- Queues eligible under R240, paused ones included. -/
def eligible (s : State) (q : Nat) (k : Queue) : Bool :=
  if q == 0 then false else if q == 4096 then !s.cas.entries.isEmpty else k.enabled && (k.pend || k.scan != .ended)

/-- Give credit to the eligible queues that have none of this round; with `fresh`, begin a new round. -/
def giveCredit (s : State) (fresh : Bool) : State :=
  { s with queues := { s.queues with qs := tmap s.queues.qs (fun q k =>
      if eligible s q k then (if fresh || !k.inRound then { k with credit := k.p.weight, inRound := true } else k)
      else if fresh then { k with credit := 0, inRound := false } else k) } }

/-- The queue's next entry is known and cannot be admitted now (R240, R242). -/
def headBlocked (s : State) (q : Nat) (k : Queue) : Bool :=
  if q == 4096 then (match s.cas.entries with | (_, p) :: _ => !admits s 4096 (bytesAt p.payload 0 64) | [] => true)
  else
    match k.copies.find? (fun c => c.slot == k.head.toNat % k.depth) with
    | some c => bitOf (eOwn c.bytes) 7 && !admits s q c.bytes
    | none => false

/-- Candidates that can take the next visit of the round: credit left, and the next entry not known to be inadmissible (R240). -/
def withCredit (s : State) : List Nat :=
  (candidates s).filter (fun q => match tget s.queues.qs q with | some k => 0 < k.credit && !headBlocked s q k | none => false)

/-- The next queue in ascending number after the last visited, wrapping. The cascade queue, which has no number in the spec, stands after
queue 4,095 (DESIGN CHOICE, log 15). -/
def nextQueue (s : State) (l : List Nat) : Option Nat :=
  match l.find? (fun q => decide (s.queues.lastVisited < q)) with
  | some q => some q
  | none => l.head?

/-- The next I/O visit. -/
def visitIo (b : Bus) (s : State) : State :=
  let s1 := giveCredit s false
  let s2 := if (withCredit s1).isEmpty then giveCredit s1 true else s1
  match nextQueue s2 (withCredit s2) with
  | none => s
  | some q =>
    let s3 := { s2 with queues := { s2.queues with lastVisited := q } }
    match tget s3.queues.qs q with
    | none => s3
    | some k => if q == 4096 then visitCascade (min k.p.burst k.credit) s3 else beginScan b q (min k.p.burst k.credit) s3

/-- The admin queue is to be visited: its pending bit is set, or its scan is paused or not over (R241, R270). -/
def adminDue (s : State) : Bool :=
  s.ringsOn && (match tget s.queues.qs 0 with | some k => k.enabled && (k.pend || k.scan != .ended) | none => false)

/-- QUEUE_SCAN: the engine makes its next visit, of the admin queue where it is due, else of the I/O queue whose turn it is
(R146, R202, R203, R240, R241). -/
def execQueueScan (bus : Bus) (s : State) : Host.Outcome State Fault Refusal :=
  if !s.gbl.up || s.limited || s.energy.pfSeq then .next s
  else
    let s1 := absorbBus s bus
    .next (settle (if adminDue s1 then beginScan bus 0 100000 s1 else visitIo bus s1))

/-- SCAN_RESUME: a scan paused at a slot goes on once that slot's entry has completed (R203). -/
def execScanResume (q : Fin 4096) (s : State) : Host.Outcome State Fault Refusal :=
  match tget s.queues.qs q.val with
  | none => .next s
  | some k =>
    if k.scan == .paused && k.enabled && !slotInFlight s q.val k.depth (k.head.toNat % k.depth)
    then .next (setScan s q.val .turn) else .next s

/-- DOORBELL: an aligned 32-bit write rings the queue (R164); in PHB mode it also acknowledges the queue's signal, in every
state (R250). -/
def execDoorbell (n : Fin 4096) (be : BitVec 4) (s : State) : Host.Outcome State Fault Refusal :=
  if !s.hostAccess || be != 0xF then .next s
  else
    let s1 := if s.phb then modQueue s n.val (fun k => { k with phbSignal := false }) else s
    .next (ringQueue s1 n.val)

/-! ## The re-read of R211 -/

/-- The entry as read the second time executes once its stage need is reserved (R211). -/
def settleRoom (s : State) (j : Job) : State :=
  let n := localNeed s j.q j.bytes
  if n ≤ j.need then setJob s { j with need := n }
  else if s.stageUsed - j.need + n ≤ s.stageBytes then setJob s { j with need := n }
  else setJob s { j with phase := .roomWait }

/-- ENTRY_CRC_REREAD: the slot is read once more and judged as read then (R211). The record of SC_CRC_MISMATCH or SC_BUS_ERROR, and its
CMD_ERROR entry, carry TAG and OPCODE of the first read; those of SC_MALFORMED the second read (DESIGN CHOICE, log 15). -/
def execEntryCrcReread (q : Fin 4096) (count : Word) (bus : Bus) (s : State) : Host.Outcome State Fault Refusal :=
  match s.job? q.val count, tget s.queues.qs q.val with
  | some j, some k =>
    if j.phase != .crcWait || j.detached || s.energy.pfSeq || !s.ringsOn then .next s
    else
      let s0 := absorbBus s bus
      let a := k.slotAddr (count.toNat % k.depth)
      match shReadN s0 bus a 64 with
      | none => .next (settle (queueFault (complete (countBus s0) j { status := scBusError }) q.val 1 a))
      | some e =>
        let j1 := { j with bytes := e }
        if bitOf (eOwn e) 7 && eOwn e != 0x80 then .next (settle (malformed s0 { j1 with need := 0 } scMalformed 63))
        else if eOwn e != 0x80 || eCrc e != (crc16 (bytesAt e 0 60)).toNat then
          .next (settle (malformed s0 j scCrcMismatch 0))
        else
          let s1 := judge bus (setJob s0 j1) j1
          match s1.queues.jobs.find? (fun x => x.order == j.order && x.phase == .ready) with
          | some x => .next (settle (settleRoom s1 x))
          | none => .next (settle (if fenceHolds s1 q.val && k.scan != .ended then setScan s1 q.val (.fenced count) else s1))
  | _, _ => .next s

/-! ## Visibility, shadow, coalescing -/

/-- WRITE_VISIBLE: a write or append whose data is all fetched takes its place and becomes visible, after every earlier
conflicting entry of its queue (R33, R243, R333). -/
def execWriteVisible (q : Fin 4097) (count : Word) (s : State) : Host.Outcome State Fault Refusal :=
  match s.job? q.val count with
  | none => .next s
  | some j => if j.phase != .fetched || waits s j || s.energy.pfSeq then .next s else .next (settle (placeFetched s j))

/-- SHADOW_WRITE: the shadow's device half follows HEAD and DONE (R197, R199). -/
def execShadowWrite (q : Fin 4096) (s : State) : Host.Outcome State Fault Refusal :=
  match tget s.queues.qs q.val with
  | none => .next s
  | some k => if k.shadowDue && s.mayWriteShared then .next (writeShadow s q.val) else .next s

/-- COAL_TIMEOUT: the coalescing time of the oldest unsignalled completion expires (R247, R269). -/
def execCoalTimeout (q : Fin 4096) (s : State) : Host.Outcome State Fault Refusal :=
  match tget s.queues.qs q.val with
  | none => .next s
  | some k => if k.p.irqEn && 0 < k.unsignalled && s.mayWriteShared then .next (signalQueue s q.val) else .next s

end Sys2Proof.Machine
end

