-- ==== Sys2Proof/Machine/CommandOps.lean ====
section
/-! DEFINITION. What the commands of consumed entries share: readiness, completion, data in and out, handles (R33, R213, R216,
R302, R624). -/

namespace Sys2Proof.Machine

/-! ## Shared by the commands of consumed entries -/

/-- The entry with a count that is ready to execute as `op`; none while the power-fail sequence runs or an earlier conflicting
entry of its queue has not taken effect (R243, R392). -/
def readyJob (s : State) (q : Nat) (count : Word) (op : Nat) : Option Job :=
  match s.job? q count with
  | none => none
  | some j => if j.phase != .ready || j.op != op || s.energy.pfSeq || waits s j then none else some j

/-- Complete an entry and do what follows (R212). -/
def finish (s : State) (j : Job) (c : Compl) : State := settle (complete s j c)

/-- Complete an entry with a status and no more. -/
def finishWith (s : State) (j : Job) (status : Nat) : State := finish s j { status := status }

/-- A failed access to shared memory or DRAM ends the command; read buffers are left undefined (Table 9-11). -/
def finishBus (s : State) (j : Job) : State :=
  finishWith (spoil (countBus s) (if (dataOf s j.bytes).1 == .toDevice then [] else j.segs)) j scBusError

/-- Cut bytes into packets' payloads. -/
def chunks4k : Nat → List Byte → List (List Byte)
  | 0, _ => []
  | n + 1, bs => if bs.isEmpty then [] else bs.take 4096 :: chunks4k n (bs.drop 4096)

/-- Send bytes to a member as segments of one transaction (Table 19-3). -/
def sendSegs (s : State) (type cls dest txn : Nat) (cs : List (List Byte)) : State :=
  (cs.mapIdx (fun i c => (i, c))).foldl (fun s x =>
    sendPkt s ⟨type, cls, x.1 + 1 == cs.length, dest, s.srcId, txn, x.1, x.2⟩) s

/-- RESULT of a command that reads into buffers counts the bytes written to them (Table 9-3). -/
def countBuffers (j : Job) (n : Nat) (c : Compl) : Compl :=
  if j.op == opRead || j.op == opStreamRead || j.op == opRawRead then { c with result := bufferBytes j.segs n } else c

/-- Deliver read data and complete (R213, R216, R624): `n` is how many of the bytes lie before the event that decides the
status. -/
def deliver (s : State) (j : Job) (data : List Byte) (n : Nat) (c : Compl) : State :=
  match j.origin with
  | some o => finish (sendSegs s 4 1 o.1 o.2.1 (chunks4k (data.length + 1) data)) j c
  | none =>
    if s.pcie.orphan && !s.phb then finish s j c
    else if (scatter s j.segs (data.take n)).2 then finish (scatter s j.segs data).1 j (countBuffers j n c)
    else finishBus s j

/-- Segment numbers of the PULL packets that ask an origin for `n` bytes (R624). -/
def sendPulls (s : State) (j : Job) (n : Nat) : State :=
  match j.origin with
  | none => s
  | some o =>
    let k := (n + 4095) / 4096
    (List.range k).foldl (fun s i =>
      sendPkt s ⟨2, 1, i + 1 == k, o.1, s.srcId, o.2.1, i,
        leBytes 8 (4096 * i) ++ leBytes 4 (min 4096 (n - 4096 * i)) ++ leBytes 4 i⟩) s

/-- Fetch the data of a write or append: all of it from shared memory, or by pulls from the origin (R33, R216, R624). -/
def fetchData (s : State) (b : Bus) (j : Job) (n : Nat) : State :=
  if j.origin.isSome then sendPulls (setJob s { j with phase := .running, data := [] }) j n
  else if j.sglErr then finishBus s j
  else
    match gather s b j.segs with
    | none => finishBus s j
    | some d => settle (setJob s { j with phase := .fetched, data := d })

/-! ## Stream handles (R302) -/

/-- Handles in use: held by open streams, or named by entries consumed and not completed (R302). -/
def handlesUsed (s : State) : List Nat :=
  s.streams.tbl.filterMap (fun t => t.2.handle) ++ s.cas.spanHandles.map (·.1) ++
  (s.queues.jobs.filter (fun j => j.phase == .span && j.op == opStreamOpen)).map (·.mark) ++
  (s.queues.jobs.filter (fun j => byHandleOp j.op && !fwdAway s j.bytes)).map (fun j => eHandle j.bytes)

/-- The lowest free handle. -/
def freeHandle (s : State) : Option Nat := (List.range 1024).find? (fun h => !(handlesUsed s).contains h)

/-- Answer for a stream that is open. -/
def openResult (n h : Nat) : Nat := n % 65536 + h * 65536

/-- An earlier append or mark of the stream, on any queue, has not completed; one whose bytes are read again may be such an entry (R302). -/
def closeWaits (s : State) (j : Job) : Bool :=
  s.queues.jobs.any (fun k => decide (k.order < j.order) && (k.phase == .crcWait ||
    (k.stream == some j.mark && (k.op == opStreamAppend || k.op == opStreamMark))))

end Sys2Proof.Machine
end

