-- ==== Sys2Proof/Machine/Spans.lean ====
section
/-! DEFINITION. Span partitions on the Keystone: layouts, sub-commands, parity, resynchronization (R628 to R632, R646). -/

namespace Sys2Proof.Machine

/-! ## Layouts (R629, R630) -/

/-- Bytes of a stripe unit. -/
def stripeBytes : Nat := 1048576

/-- Widen with member parity (Table 19-6). -/
def Span.parity (x : Span) : Bool := !x.isStream && decide (3 ≤ x.members.length)

/-- Widen of two members. -/
def Span.widen2 (x : Span) : Bool := !x.isStream && x.members.length == 2

/-- S of R629. -/
def Span.small (x : Span) : Nat := minOf x.caps / 256 * 256

/-- Capacity in map units (Table 19-6). -/
def Span.units (x : Span) : Nat :=
  if x.widen2 then 2 * x.small else if x.parity then (x.members.length - 1) * x.small else x.caps.sum

/-- Logical block size. -/
def Span.lbs (x : Span) : Nat := if x.lbs4k then 4096 else 512

/-- Ordinal and member unit of a concatenated span. -/
def deepLoc : List Nat → Nat → Nat → Nat × Nat
  | [], k, u => (k, u)
  | c :: cs, k, u => if u < c then (k, u) else deepLoc cs (k + 1) (u - c)

/-- Ordinal and member map unit of a span map unit (R630). -/
def Span.loc (x : Span) (u : Nat) : Nat × Nat :=
  let t := u / 256
  let n := x.members.length
  if x.widen2 then (t % 2, t / 2 * 256 + u % 256)
  else if x.parity then
    let r := t / (n - 1)
    let j := t % (n - 1)
    (if j < r % n then j else j + 1, r * 256 + u % 256)
  else deepLoc x.caps 0 u

/-- A part of a command's range that lies on one member: where it begins in the command, its ordinal, the first byte in the member's
partition and its length. -/
structure SpanPiece where
  pos : Nat
  ordinal : Nat
  first : Nat
  len : Nat
  deriving DecidableEq, Repr

/-- Bytes from a byte of the span to the end of what lies with it on one member. -/
def Span.room (x : Span) (first : Nat) : Nat :=
  if x.widen2 || x.parity then stripeBytes - first % stripeBytes
  else ((x.caps[(x.loc (first / 4096)).1]?).getD 0 - (x.loc (first / 4096)).2) * 4096 - first % 4096

/-- The pieces of a byte range. -/
def Span.pieces (x : Span) : Nat → Nat → Nat → Nat → List SpanPiece
  | 0, _, _, _ => []
  | fuel + 1, first, len, pos =>
    if len == 0 then []
    else
      let l := x.loc (first / 4096)
      let k := min len (max 1 (x.room first))
      ⟨pos, l.1, l.2 * 4096 + first % 4096, k⟩ :: x.pieces fuel (first + k) (len - k) (pos + k)

/-- The pieces of a block command. -/
def Span.cut (x : Span) (e : List Byte) : List SpanPiece :=
  x.pieces (eLen e * x.lbs / stripeBytes + x.members.length + 2) (eLba e * x.lbs) (eLen e * x.lbs) 0

/-- Stripe row of a piece. -/
def SpanPiece.row (p : SpanPiece) : Nat := p.first / stripeBytes

/-- Stripe rows of pieces. -/
def rowsOf (ps : List SpanPiece) : List Nat := (ps.map (·.row)).eraseDups

/-! ## Members -/

/-- The ordinal of a member in a span, by serial number and KEY_ID. -/
def Span.ordinal (x : Span) (r : RosterE) : Option Nat := x.members.findIdx? (fun m => m.1 == r.serial && m.2 == r.keyId)

/-- The member that stands at an ordinal now and can be reached. -/
def State.memberOf (s : State) (x : Span) (k : Nat) : Option Nat :=
  (s.cas.roster.find? (fun r => r.2.state == 1 && r.2.present && x.ordinal r.2 == some k && (entryPort s r.1).isSome)).map (·.1)

/-- The member whose units at an ordinal are served: present and resynchronized (R632). -/
def State.serves (s : State) (x : Span) (k : Nat) : Option Nat := if x.missing.contains k then none else s.memberOf x k

/-- Ordinals that are not served. -/
def State.absent (s : State) (x : Span) : List Nat := (List.range x.members.length).filter (fun k => (s.serves x k).isNone)

/-- Change the record of a span. -/
def modSpan (s : State) (p : Nat) (f : Span → Span) : State := { s with cas := { s.cas with spans := tmod s.cas.spans p f } }

/-! ## Sub-commands (R622, R631) -/

/-- A sub-command to send. -/
structure SubReq where
  ordinal : Nat
  member : Nat
  pos : Nat
  op : Nat
  first : Nat
  len : Nat
  wdata : List Byte
  entry : List Byte
  deriving DecidableEq, Repr

/-- The entry of a sub-command: the span command's, addressed to the member, without data pointers. -/
def subEntry (e : List Byte) (member op ps lba len attr : Nat) (media : Bool) : List Byte :=
  let flags := 2 + (if media && ackMediaOps.contains op then 4 else 0) + (if fOpt e && optOps.contains op then 8 else 0)
  bytesPut e 0 (leBytes 1 op ++ leBytes 1 flags ++ leBytes 2 ps ++ leBytes 2 member ++ [0, 0] ++ leBytes 8 lba ++ leBytes 4 len ++
    leBytes 4 attr ++ leBytes 16 0)

/-- A sub-command on blocks; none where the ordinal is not served. -/
def blockReq (s : State) (x : Span) (p : Nat) (e : List Byte) (media : Bool) (op ordinal pos first len : Nat) (wdata : List Byte) :
    Option SubReq :=
  (s.serves x ordinal).map (fun m => ⟨ordinal, m, pos, op, first, len, wdata, subEntry e m op p (first / x.lbs) (len / x.lbs) 0 media⟩)

/-- Send sub-commands as ENTRY packets of the command's queue and count. -/
def issueSubs (s : State) (q : Nat) (c : Word) (rs : List SubReq) : State × List SpanSub :=
  rs.foldl (fun a r =>
    let txn := a.1.cas.nextTxn
    (sendPkt { a.1 with cas := { a.1.cas with nextTxn := txn + 1 } }
      ⟨1, 0, true, r.member, a.1.srcId, txn, 0, r.entry ++ leBytes 2 q ++ leBytes 4 c.toNat⟩,
     a.2 ++ [⟨txn, r.ordinal, r.member, r.pos, r.op, r.first, r.len, r.wdata, [], none⟩])) (s, [])

/-- Store a span command in progress. -/
def setOp (s : State) (o : SpanOp) : State :=
  { s with cas := { s.cas with spanOps := s.cas.spanOps.map (fun y => if y.id == o.id then o else y) } }

/-- Forget a span command. -/
def dropOp (s : State) (o : SpanOp) : State := { s with cas := { s.cas with spanOps := s.cas.spanOps.filter (fun y => y.id != o.id) } }

/-- The entry a span command serves. -/
def State.opJob (s : State) (o : SpanOp) : Option Job := o.job.bind (fun n => s.queues.jobs.find? (fun j => j.order == n))

/-- Another span command holds one of the rows: rows are written, rebuilt and recomputed one command at a time. -/
def rowsBusy (s : State) (p : Nat) (rows : List Nat) : Bool :=
  s.cas.spanOps.any (fun o => o.part == p && (o.job.bind (fun n => s.queues.jobs.find? (fun j => j.order == n))).all (fun j => j.op != opFlush) &&
    o.rows.any (fun r => rows.contains r))

/-- Begin a span command. -/
def addOp (s : State) (j : Option Job) (goal p : Nat) (stage : SpanStage) (rows : List Nat) : State × SpanOp :=
  let o : SpanOp := { id := s.cas.nextTxn, job := j.map (·.order), goal := goal, part := p, stage := stage, rows := rows, data := [], subs := [] }
  ({ s with cas := { s.cas with spanOps := s.cas.spanOps ++ [o], nextTxn := s.cas.nextTxn + 1 } }, o)

/-- Send a command's sub-commands and wait for their results. -/
def runSubs (s : State) (o : SpanOp) (stage : SpanStage) (rs : List SubReq) : State :=
  let j := s.opJob o
  let r := issueSubs s ((j.map (·.q)).getD 0) ((j.map (·.count)).getD 0) rs
  let s1 := setOp r.1 { o with stage := stage, subs := r.2 }
  match j with
  | some j => if j.op == opFlush then s1 else setJob s1 { j with phase := .span }
  | none => s1

/-! ## Parity -/

/-- Exclusive or of byte strings of a length. -/
def xorAll (n : Nat) (l : List (List Byte)) : List Byte := l.foldl xorBytes (List.replicate n 0)

/-- What a group of reads gives for an ordinal: its own bytes, or those of all the others combined (R632). -/
def readOf (subs : List SpanSub) (pos ordinal n : Nat) : List Byte :=
  let g := subs.filter (fun y => y.pos == pos)
  match g.find? (fun y => y.ordinal == ordinal) with
  | some y => bytesAt y.rdata 0 n
  | none => xorAll n (g.map (fun y => bytesAt y.rdata 0 n))

/-- Offsets in the stripe unit the pieces of a row reach. -/
def rowHull (ps : List SpanPiece) : Nat × Nat :=
  (minOf (ps.map (fun y => y.first % stripeBytes)), ps.foldl (fun a y => max a (y.first % stripeBytes + y.len)) 0)

/-- The pieces cover a whole stripe row. -/
def rowFull (x : Span) (ps : List SpanPiece) : Bool := ps.length + 1 == x.members.length && ps.all (fun y => y.len == stripeBytes)

/-- What a piece writes. -/
def pieceData (j : Job) (data : List Byte) (y : SpanPiece) : List Byte :=
  if j.op == opWrite then bytesAt data y.pos y.len else List.replicate y.len 0

/-- Reads that the partial write of a row needs: the old data and the old parity, or the rest of the row where the old data is absent. -/
def rowReads (s : State) (x : Span) (p : Nat) (j : Job) (r : Nat) (ps : List SpanPiece) : List SubReq :=
  let n := x.members.length
  let h := rowHull ps
  if rowFull x ps || (s.serves x (r % n)).isNone then []
  else
    let away := s.absent x
    let os := if ps.any (fun y => away.contains y.ordinal) then (List.range n).filter (fun k => !away.contains k)
      else ps.map (·.ordinal) ++ [r % n]
    os.filterMap (fun k => blockReq s x p j.bytes false opRead k r (r * stripeBytes + h.1) (h.2 - h.1) [])

/-- The new parity over the hull of a row. -/
def rowParity (x : Span) (j : Job) (o : SpanOp) (r : Nat) (ps : List SpanPiece) : List Byte :=
  let h := rowHull ps
  let n := h.2 - h.1
  if rowFull x ps then xorAll n (ps.map (pieceData j o.data))
  else
    ps.foldl (fun acc y =>
      let at_ := y.first % stripeBytes - h.1
      let old := bytesAt (readOf o.subs r y.ordinal n) at_ y.len
      xorBytes acc (List.replicate at_ 0 ++ xorBytes old (pieceData j o.data y) ++ List.replicate (n - at_ - y.len) 0))
      (readOf o.subs r (r % x.members.length) n)

/-- Sub-writes of a row: the served pieces, and the parity. -/
def rowWrites (s : State) (x : Span) (p : Nat) (j : Job) (o : SpanOp) (r : Nat) (ps : List SpanPiece) : List SubReq :=
  let media := fMedia j.bytes
  let h := rowHull ps
  let op := if j.op != opWrite && rowFull x ps then j.op else opWrite
  ps.filterMap (fun y => blockReq s x p j.bytes media j.op y.ordinal y.pos y.first y.len (if j.op == opWrite then pieceData j o.data y else [])) ++
  (blockReq s x p j.bytes media op (r % x.members.length) 0 (r * stripeBytes + h.1) (h.2 - h.1)
    (if op == opWrite then rowParity x j o r ps else [])).toList

/-- Record rows as dirty, and as logged against absent members, before their sub-writes are issued (R631, R632). -/
def recordRows (s : State) (x : Span) (p : Nat) (rows : List Nat) : State :=
  let away := s.absent x
  let s1 := modSpan s p (fun y => { y with
    dirty := (y.dirty ++ rows).eraseDups
    missing := (y.missing ++ away).eraseDups
    logged := (y.logged ++ away.flatMap (fun k => rows.map (fun r => (k, r)))).eraseDups })
  { s1 with cas := { s1.cas with spanOps := s1.cas.spanOps.map (fun o =>
      if o.part == p && (s1.opJob o).any (fun j => j.op == opFlush) then { o with rows := o.rows.filter (fun r => !rows.contains r) } else o) } }

/-! ## Block commands -/

/-- The block range of a span command (Table 9-3, R629). -/
def spanRange (x : Span) (e : List Byte) : Bool :=
  !x.isStream && 1 ≤ eLen e && decide ((eLba e + eLen e) * x.lbs ≤ x.units * 4096)

/-- A command that needs an absent member: without parity where a piece lies on it; with parity once two are absent (R632). -/
def spanGone (s : State) (x : Span) (ps : List SpanPiece) : Bool :=
  if x.parity then decide (2 ≤ (s.absent x).length) else ps.any (fun y => (s.absent x).contains y.ordinal)

/-- READ of a span: one sub-command per piece; the pieces of an absent member are rebuilt from the others (R632). -/
def spanRead (s : State) (x : Span) (p : Nat) (j : Job) : State :=
  let e := j.bytes
  let ps := x.cut e
  let rebuilt := ps.filter (fun y => (s.absent x).contains y.ordinal)
  if !spanRange x e || maxXfer < eLen e * x.lbs then finishWith s j scOutOfRange
  else if j.sglErr then finishBus s j
  else if spanGone s x ps then finishWith s j scMemberGone
  else if x.parity && rowsBusy s p (rowsOf ps) then s
  else
    let a := addOp s (some j) 0 p .effect (if x.parity then rowsOf rebuilt else [])
    runSubs a.1 a.2 .effect (ps.flatMap (fun y =>
      ((if rebuilt.contains y then (List.range x.members.length).filter (· != y.ordinal) else [y.ordinal]).filterMap (fun k =>
        blockReq s x p e false opRead k y.pos y.first y.len []))))

/-- Issue the sub-writes of a span write whose data, old data and old parity are here (R631). -/
def spanEffect (s : State) (x : Span) (o : SpanOp) (j : Job) : State :=
  let ps := x.cut j.bytes
  if spanGone s x ps then finishWith (dropOp s o) j scMemberGone
  else if x.parity then
    let rs := (rowsOf ps).flatMap (fun r => rowWrites s x o.part j o r (ps.filter (fun y => y.row == r)))
    runSubs (recordRows s x o.part (rowsOf ps)) o .effect rs
  else
    runSubs s o .effect (ps.filterMap (fun y => blockReq s x o.part j.bytes (fMedia j.bytes) j.op y.ordinal y.pos y.first y.len
      (if j.op == opWrite then pieceData j o.data y else [])))

/-! ## Stream commands (R631) -/

/-- The sub-command of a stream command whose stream lies at ordinal `k` of its span. -/
def streamReq (s : State) (x : Span) (e : List Byte) (k ps attr : Nat) (wdata : List Byte) : Option SubReq :=
  (s.serves x k).map (fun m => ⟨k, m, 0, eOp e, 0, 0, wdata, subEntry e m (eOp e) ps (eLba e) (eLen e) attr (fMedia e)⟩)

/-- Send the one sub-command of a stream command, or end it where the member is absent. -/
def passOn (s : State) (o : SpanOp) (j : Job) (r : Option SubReq) : State :=
  match r with
  | some r => runSubs s o .effect [r]
  | none => finishWith (dropOp s o) j scMemberGone

/-- ATTR with another stream number. -/
def withStream (e : List Byte) (n : Nat) : Nat := eAttr e / 65536 * 65536 + n

/-- The Keystone handle of a span stream. -/
def State.spanHandleOf (s : State) (key : Nat) : Option (Nat × Nat) := (s.cas.spanHandles.find? (fun h => h.2.1 == key)).map (fun h => (h.1, h.2.2))

/-- The ordinal a new stream goes to: the present member with the most free capacity (R631). -/
def newOrdinal (s : State) (x : Span) : Option Nat :=
  let ks := (List.range x.members.length).filter (fun k => (s.serves x k).isSome)
  let best := ks.foldl (fun a k => max a (Config.memberFree s.free k)) 0
  ks.find? (fun k => Config.memberFree s.free k == best)

/-- STREAM_OPEN of a span stream (R280, R631). -/
def spanOpen (s : State) (x : Span) (p : Nat) (j : Job) : State :=
  let e := j.bytes
  let n := eStream e
  if !x.isStream || 65535 < eLen e || x.maxStream < n then finishWith s j scOutOfRange
  else
    let h := match s.spanHandleOf (sKey p n) with
      | some h => some h.1
      | none => freeHandle s
    let place := if n == 0 then (newOrdinal s x).map (fun k => (k, 0)) else tget x.streams n
    let j1 := { j with mark := h.getD 0 }
    let a := addOp (setJob { s with free := s.free + 1 } j1) (some j1) 0 p .effect []
    if (n == 0 && x.maxStream == 65535) || h.isNone then finishWith s j scNoSpace
    else
      match place with
      | some l => passOn a.1 a.2 j1 (streamReq s x e l.1 p (withStream e l.2) [])
      | none => finishWith s j (if n == 0 then scMemberGone else scStreamClosed)

/-- STREAM_READ of a span stream (R282, R631). -/
def spanStreamRead (s : State) (x : Span) (p : Nat) (j : Job) : State :=
  let e := j.bytes
  match (if !x.isStream || eLen e == 0 || maxXfer < eLen e then none else tget x.streams (eStream e)) with
  | none => finishWith s j scOutOfRange
  | some l =>
    if j.sglErr then finishBus s j
    else
      let a := addOp s (some j) 0 p .effect []
      passOn a.1 a.2 j (streamReq s x e l.1 p (withStream e l.2) [])

/-- Append, mark or close of a span stream: it goes to the member under the member's handle (R631). -/
def spanByHandle (s : State) (x : Span) (o : SpanOp) (j : Job) : State :=
  match tget x.streams (sNum j.mark), s.spanHandleOf j.mark with
  | some l, some h => passOn s o j (streamReq s x j.bytes l.1 h.2 (eAttr j.bytes) o.data)
  | _, _ => finishWith (dropOp s o) j scStreamClosed

/-! ## Starting -/

/-- All data of a span command is here: its first sub-commands go out. -/
def spanGo (s : State) (j : Job) (d : List Byte) : State :=
  match s.cas.spanOps.find? (fun o => o.job == some j.order) with
  | none => s
  | some o =>
    let o := { o with data := d }
    match s.span? o.part with
    | none => finishWith (dropOp s o) j scOutOfRange
    | some x =>
      if byHandleOp j.op then spanByHandle s x o j
      else
        let ps := x.cut j.bytes
        let rs := if x.parity then (rowsOf ps).flatMap (fun r => rowReads s x o.part j r (ps.filter (fun y => y.row == r))) else []
        if spanGone s x ps then finishWith (dropOp s o) j scMemberGone
        else if rs.isEmpty then spanEffect s x o j else runSubs s o .before rs

/-- Begin a span command whose data is fetched first (R33, R631). -/
def spanFetch (s : State) (b : Bus) (j : Job) (p : Nat) (rows : List Nat) (n : Nat) : State :=
  let a := addOp s (some j) 0 p .data rows
  if n == 0 then spanGo a.1 j []
  else if j.origin.isSome then sendPulls (setJob a.1 { j with phase := .running, data := [] }) j n
  else if j.sglErr then finishBus (dropOp a.1 a.2) j
  else
    match gather s b j.segs with
    | none => finishBus (dropOp a.1 a.2) j
    | some d => spanGo a.1 j d

/-- WRITE, WRITE_ZEROES or TRIM of a span. -/
def spanWrite (s : State) (b : Bus) (x : Span) (p : Nat) (j : Job) : State :=
  let e := j.bytes
  let ps := x.cut e
  if !spanRange x e || (j.op == opWrite && decide (maxXfer < eLen e * x.lbs)) then finishWith s j scOutOfRange
  else if spanGone s x ps then finishWith s j scMemberGone
  else if x.parity && rowsBusy s p (rowsOf ps) then s
  else spanFetch (absorbBus s b) b j p (if x.parity then rowsOf ps else []) (if j.op == opWrite then eLen e * x.lbs else 0)

/-- FLUSH on the members of a span: all of them are needed without parity (R632). -/
def spanFlushOne (s : State) (j : Job) (p : Nat) (x : Span) : State :=
  let away := s.absent x
  if (s.queues.jobs.all (fun k => k.order != j.order)) then s
  else if (if x.parity then decide (2 ≤ away.length) else !away.isEmpty) then
    finishWith { s with cas := { s.cas with spanOps := s.cas.spanOps.filter (fun o => o.job != some j.order) } } j scMemberGone
  else
    let used := (s.cas.spanOps.filter (fun o => o.part == p)).flatMap (·.rows)
    let a := addOp s (some j) 0 p .effect (if away.isEmpty then x.dirty.filter (fun r => !used.contains r) else [])
    runSubs a.1 a.2 .effect ((List.range x.members.length).filterMap (fun k =>
      (s.serves x k).map (fun m => ⟨k, m, 0, opFlush, 0, 0, [], subEntry j.bytes m opFlush p 0 0 0 false⟩)))

/-- FLUSH of a span, or of every partition on a Keystone with spans. -/
def spanFlush (s : State) (j : Job) : State :=
  let all := bitOf (eAttr j.bytes) 0
  let xs := s.cas.spans.filter (fun x => (s.span? x.1).isSome && (all || x.1 == ePart j.bytes))
  settle (xs.foldl (fun s x => spanFlushOne s j x.1 x.2) (setJob s { j with phase := .running }))

/-- The command of this entry runs on a span's members. -/
def isSpanJob (s : State) (j : Job) : Bool :=
  if byHandleOp j.op then j.mark != 0 && (s.strm? j.mark).isNone && (s.span? (sPart j.mark)).isSome else spanEntry s j.bytes

/-- Start a span command; none while an enumeration is in progress. -/
def spanStart (s : State) (b : Bus) (j : Job) : State :=
  let p := if byHandleOp j.op then sPart j.mark else ePart j.bytes
  match s.span? p with
  | none => finishWith s j scOutOfRange
  | some x =>
    if s.cas.enumerating.isSome then s
    else if j.op == opRead then spanRead s x p j
    else if j.op == opStreamOpen then spanOpen s x p j
    else if j.op == opStreamRead then spanStreamRead s x p j
    else if j.op == opStreamAppend then
      (if eLen j.bytes == 0 || maxXfer < eLen j.bytes then finishWith s j scOutOfRange
       else spanFetch (absorbBus s b) b j p [] (eLen j.bytes))
    else if j.op == opStreamMark then spanFetch s b j p [] 0
    else if j.op == opStreamClose then (if closeWaits s j then s else spanFetch s b j p [] 0)
    else spanWrite s b x p j

/-! ## Resynchronization (R631, R632) -/

/-- The next row to rewrite: a row logged against a member that is present again, or a dirty row with every member served. -/
def nextResync (s : State) (x : Span) : Option (Nat × Nat) :=
  let others := fun (k : Nat) => (List.range x.members.length).all (fun i => i == k || (s.serves x i).isSome)
  match x.logged.find? (fun l => (s.memberOf x l.1).isSome && others l.1) with
  | some l => some l
  | none => if (s.absent x).isEmpty then (x.recheck.head?).map (fun r => (r % x.members.length, r)) else none

/-- Start the rewriting of a row, one at a time in a span. -/
def resyncNext (s : State) (p : Nat) : State :=
  match s.span? p with
  | none => s
  | some x =>
    if !x.parity || s.cas.enumerating.isSome || s.cas.spanOps.any (fun o => o.part == p && o.job.isNone) then s
    else
      match nextResync s x with
      | none => s
      | some (k, r) =>
        if rowsBusy s p [r] then s
        else
          let a := addOp s none k p .before [r]
          runSubs a.1 a.2 .before (((List.range x.members.length).filter (· != k)).filterMap (fun i =>
            blockReq s x p (List.replicate 63 0 ++ [0x80]) false opRead i r (r * stripeBytes) stripeBytes []))

/-- Start what waits on every span. -/
def resyncAll (s : State) : State := (s.cas.spans.map (·.1)).foldl resyncNext s

/-- A member's units are served again once none of its rows is logged; SPAN_RESTORED once every member is (R632). -/
def restoreMember (s : State) (p k id : Nat) : State :=
  match s.span? p with
  | none => s
  | some x =>
    if !x.missing.contains k || x.logged.any (fun l => l.1 == k) then s
    else
      let m := x.missing.filter (· != k)
      let s1 := modSpan s p (fun y => { y with missing := m })
      if m.isEmpty then logEvent s1 logCascade [(0, 1, 4), (2, 1, p), (4, 2, id)] else s1

/-- A step of a resynchronization whose sub-commands are answered: the unit is written, then the row is done. A row whose sub-command
failed stays recorded. -/
def resyncStep (s : State) (x : Span) (o : SpanOp) : State :=
  let r := o.rows.headD 0
  let ok := o.subs.all (fun y => y.answer.any (fun c => c.status == scOk))
  match ok, o.stage, s.memberOf x o.goal with
  | true, .before, some m =>
    runSubs s o .effect [⟨o.goal, m, 0, opWrite, r * stripeBytes, stripeBytes, xorAll stripeBytes (o.subs.map (·.rdata)),
      subEntry (List.replicate 63 0 ++ [0x80]) m opWrite o.part (r * stripeBytes / x.lbs) (stripeBytes / x.lbs) 0 true⟩]
  | true, .effect, some m =>
    let s1 := modSpan (dropOp s o) o.part (fun y => { y with
      logged := y.logged.filter (fun l => l != (o.goal, r))
      recheck := if o.goal == r % y.members.length then y.recheck.filter (· != r) else y.recheck })
    resyncNext (restoreMember s1 o.part o.goal m) o.part
  | _, _, _ => dropOp s o

/-! ## Results (R625, R631, R632, R646) -/

/-- A sub-command's failure. -/
def SpanSub.fails (y : SpanSub) : Bool := y.answer.any (fun c => c.status != scOk)

/-- What the first failing sub-command of a span read reports, in the command's terms. -/
def readFailure (x : Span) (j : Job) (y : SpanSub) (own : Bool) (c : Compl) : Compl :=
  let n := y.pos + (if own then c.result else 0)
  if c.status == scUncorrectable then { status := c.status, result := n, cr0 := (eLba j.bytes * x.lbs + n) / x.lbs }
  else { status := c.status }

/-- A span READ is answered: its data is put together and delivered. -/
def readDone (s : State) (x : Span) (o : SpanOp) (j : Job) : State :=
  let ps := x.cut j.bytes
  let data := ps.flatMap (fun y => readOf o.subs y.pos y.ordinal y.len)
  match o.subs.find? SpanSub.fails with
  | none => deliver (dropOp s o) j data data.length { status := scOk, result := data.length }
  | some y =>
    let c := readFailure x j y (ps.any (fun q => q.pos == y.pos && q.ordinal == y.ordinal)) (y.answer.getD { status := scAborted })
    if c.status == scUncorrectable then deliver (dropOp s o) j (data.take c.result) c.result c else finishWith (dropOp s o) j c.status

/-- A span write is answered (R631): ON_MEDIA only where every sub-write reported it; its rows are then no longer dirty. -/
def writeDone (s : State) (x : Span) (o : SpanOp) (j : Job) : State :=
  let media := o.subs.all (fun y => y.answer.any (·.onMedia))
  let n := if j.op == opWrite then eLen j.bytes * x.lbs else eLen j.bytes
  match o.subs.find? SpanSub.fails with
  | some y => finishWith (dropOp s o) j ((y.answer.map (·.status)).getD scAborted)
  | none =>
    let s1 := if media then modSpan s o.part (fun y => { y with dirty := y.dirty.filter (fun r => !o.rows.contains r) }) else s
    finish (dropOp s1 o) j { status := scOk, onMedia := media, result := n }

/-- The result of a stream command is the member's, under the span's stream number and the Keystone's handle. -/
def streamDone (s : State) (x : Span) (o : SpanOp) (j : Job) (y : SpanSub) (c : Compl) : State :=
  let s1 := dropOp s o
  if j.op == opStreamRead then deliver s1 j y.rdata c.result c
  else if c.status != scOk then finish s1 j c
  else if j.op == opStreamOpen then
    let n := if eStream j.bytes == 0 then x.maxStream + 1 else eStream j.bytes
    let s2 := if eStream j.bytes == 0 then modSpan s1 o.part (fun z => { z with
      maxStream := n, streams := tput z.streams n (y.ordinal, c.result % 65536) }) else s1
    finish { s2 with cas := { s2.cas with spanHandles := tput s2.cas.spanHandles j.mark (sKey o.part n, c.result / 65536) } } j
      { c with result := n % 65536 + j.mark * 65536 }
  else if j.op == opStreamClose then
    finish { s1 with cas := { s1.cas with spanHandles := s1.cas.spanHandles.filter (fun h => h.2.1 != j.mark) } } j c
  else finish s1 j c

/-- A FLUSH of a span is answered: the rows it covers are committed. -/
def flushAnswered (s : State) (o : SpanOp) (j : Job) : State :=
  match o.subs.find? SpanSub.fails with
  | some y =>
    finishWith { s with cas := { s.cas with spanOps := s.cas.spanOps.filter (fun z => z.job != some j.order) } } j
      ((y.answer.map (·.status)).getD scAborted)
  | none => settle (dropOp (modSpan s o.part (fun y => { y with dirty := y.dirty.filter (fun r => !o.rows.contains r) })) o)

/-- Every sub-command of a span command is answered: its next stage, or its end. -/
def spanStep (s : State) (o : SpanOp) : State :=
  if o.stage == .data || o.subs.any (fun y => y.answer.isNone) then s
  else
    match s.span? o.part, o.job, s.opJob o with
    | some x, none, _ => resyncStep s x o
    | some x, some _, some j =>
      if j.op == opFlush then flushAnswered s o j
      else if o.stage == .before then
        (match o.subs.find? SpanSub.fails with
         | some y => finishWith (dropOp s o) j ((y.answer.map (·.status)).getD scAborted)
         | none => spanEffect s x o j)
      else if j.op == opRead then readDone s x o j
      else if mediaOps.contains j.op && !byHandleOp j.op && j.op != opStreamOpen then resyncNext (writeDone s x o j) o.part
      else
        match o.subs.head? with
        | some y => streamDone s x o j y (y.answer.getD { status := scAborted })
        | none => s
    | none, _, some j => finishWith (dropOp s o) j scOutOfRange
    | _, _, none => dropOp s o

/-- The span command and sub-command a packet belongs to. -/
def State.spanSub? (s : State) (p : Packet) : Option (SpanOp × SpanSub) :=
  s.cas.spanOps.findSome? (fun o => (o.subs.find? (fun y => y.txn == p.txn && y.member == p.src && y.answer.isNone)).map (fun y => (o, y)))

/-- Replace a sub-command. -/
def SpanOp.setSub (o : SpanOp) (y : SpanSub) : SpanOp := { o with subs := o.subs.map (fun z => if z.txn == y.txn then y else z) }

/-- Read data of a sub-command arrives. -/
def spanData (s : State) (o : SpanOp) (y : SpanSub) (d : List Byte) : State := setOp s (o.setSub { y with rdata := y.rdata ++ d })

/-- A sub-command is answered. -/
def spanAnswer (s : State) (o : SpanOp) (y : SpanSub) (c : Compl) : State :=
  let o1 := o.setSub { y with answer := some c }
  spanStep (setOp s o1) o1

/-- Members have left (R632, R646): reads and the reads before a write start anew; a sub-write to a member that left counts as done where
the span has parity, and its row is logged. -/
def spanLeft (s : State) (left : Nat → Bool) (o : SpanOp) : State :=
  match s.span? o.part with
  | none => s
  | some x =>
    let hit := fun (y : SpanSub) => left y.member && y.answer.isNone
    if !o.subs.any hit then s
    else
      match s.opJob o with
      | none => dropOp s o
      | some j =>
        if j.op == opRead then spanRead (dropOp s o) x o.part j
        else if o.stage == .before then spanGo s j o.data
        else
          let safe := x.parity && (mediaOps.contains j.op || j.op == opFlush)
          let o1 := { o with
            rows := if j.op == opFlush then [] else o.rows
            subs := o.subs.map (fun y => if hit y then { y with answer := some { status := if safe then scOk else scMemberGone } } else y) }
          let s1 := if safe && j.op != opFlush then modSpan s o.part (fun z => { z with
              logged := (z.logged ++ (o.subs.filter hit).map (fun y => (y.ordinal, y.first / stripeBytes))).eraseDups
              missing := (z.missing ++ (o.subs.filter hit).map (·.ordinal)).eraseDups }) else s
          spanStep (setOp s1 o1) o1

/-- What the leave of members does to the span commands in progress. -/
def spansLeft (s : State) (left : Nat → Bool) : State := s.cas.spanOps.foldl (fun s o => spanLeft s left o) s

end Sys2Proof.Machine
end

