-- ==== Sys2Proof/Machine/FlashReads.lean ====
section
/-! DEFINITION. What every read of flash shares: counts, wakes, read-retry on a LUN and the reads that wait for it, rebuilds, pages that
nothing recovers (R147, R457 to R460, R466, R508, R519, R520). -/

namespace Sys2Proof.Machine

/-! ## Where the data lies -/

/-- The pages that hold the references: block key and page. -/
def refPages (s : State) (rs : List Ref) : List (Nat × Nat) :=
  (rs.filterMap (fun r => (locate s r).map (fun x => (memberBlock s x.1 x.2.1, x.2.2.1)))).eraseDups

/-- What a page of a block holds. -/
def pageRefs (s : State) (block page : Nat) : List Ref :=
  s.media.courses.flatMap (fun c => (c.2.pages.filter (fun g => c.2.blocks[g.1]? == some block && g.2.1 == page)).flatMap (fun g => g.2.2))

/-- The status of data that neither its own page nor a rebuild gives: its channel is offline, or it is lost with its die (R110, R459,
R460; log 42). -/
def deadRef (s : State) (r : Ref) : Option Nat :=
  match locate s r with
  | none => none
  | some (id, m, row, _) =>
    if blockReads s (memberBlock s id m) || rowRebuilds s id m row then none
    else some (if s.media.offline.getLsbD (keyCh (blkLun (memberBlock s id m))) ||
        s.domMode (6 + keyCh (blkLun (memberBlock s id m))) == .offUntilReset then scChannelFault else scUncorrectable)

/-! ## Counts and records -/

/-- Count what the flash answered (Table 21-5a). -/
def countRead (s : State) (fl : FlashRead) : State :=
  modHealth s (fun h => { h with
    retryOk := sat64 (h.retryOk + fl.retryOk), soft2Ok := sat64 (h.soft2Ok + fl.soft2Ok)
    soft3Ok := sat64 (h.soft3Ok + fl.soft3Ok), rebuilt := sat64 (h.rebuilt + fl.rebuilt.length)
    uncorrectable := sat64 (h.uncorrectable + fl.lost.length) })

/-- Count a read of each block that serves the references (R466). -/
def noteReads (s : State) (rs : List Ref) : State :=
  let ks := ((refPages s rs).map (·.1)).eraseDups
  modMedia s (fun m => { m with blocks := ks.foldl (fun t k => tmod t k (fun b => { b with reads := b.reads + 1 })) m.blocks })

/-- The retry entry that succeeded is recorded for the block group (R508). -/
def recordRetry (s : State) (g n : Nat) : State :=
  let t := (tget s.cal.tracks g).getD { p := [0, 0, 0, 0], has := false, tref := 0, retry := 0, consec := 0, holdOff := 0 }
  { s with cal := { s.cal with tracks := tput s.cal.tracks g { t with retry := n } } }

/-- Codewords decoded with an entry of the retry table, where no step of it was a command of its own: which of the groups read it was,
and which entry, is a free value; 0 stands for none (R508, log 2). -/
def noteRetry (s : State) (fl : FlashRead) (rs : List Ref) : State :=
  if fl.retryOk == 0 then s
  else
    (((refPages s rs).map (·.1)).eraseDups).foldl (fun s k =>
      let v := (Config.freeWord s.free).toNat % (pfRetrySteps (s.profOf (blkLun k)) + 1)
      let s1 := { s with free := s.free + 1 }
      if v == 0 then s1 else recordRetry s1 (groupOfBlock k) v) s

/-- A codeword of a healthy die had to be rebuilt: its block's valid units move to RELOC and the block joins the Rubble (R457). -/
def retireRebuilt (s : State) (rs : List Ref) : State :=
  rs.foldl (fun s r =>
    match locate s r with
    | some (id, m, _, _) =>
      if s.liveLuns.contains (blkLun (memberBlock s id m)) && s.blkUse (memberBlock s id m) == .course
      then retireBlock s id m true else s
    | none => s) s

/-- LOST_EXTENT, once for each lost extent (R460): KIND 0 blocks, 1 stream bytes, 2 seal records. -/
def logLost (s : State) (part kind stream first count : Nat) (r : Ref) : State :=
  if s.media.lostSeen.contains r then s
  else
    modMedia (logEvent s logLostExtent [(0, 1, part), (1, 1, kind), (2, 2, stream), (4, 8, first), (12, 8, count),
      (20, 8, refAddr s r)]) (fun m => { m with lostSeen := m.lostSeen ++ [r] })

/-! ## Read-retry (R508, R519, R520) -/

/-- The steps before a rebuild: the entries of the retry table, then the two soft reads unless SOFT_DELTA is 0 (R508). -/
def retrySteps (p : List Byte) : Nat := pfRetrySteps p + (if pfSoftDelta p == 0 then 0 else 2)

/-- Threshold offsets of a step: the tracked ones with the entry's added, clamped to the range of Table 17-1; the soft reads lie around
the tracked ones, which stand between their reads (R508, Table 15-5). -/
def retryOffsets (p : List Byte) (base : List Int) (n : Nat) : List Int :=
  if n == 0 || pfRetrySteps p < n then base
  else (List.range 4).map (fun k => clampInt (-64) 63 ((base[k]?).getD 0 + ((pfRetry p n)[k]?).getD 0))

/-- The retry of a LUN that runs for another read, which this one waits for (R519). -/
def retryElse (s : State) (j : Job) (k : Nat) : Option Retry :=
  match (tget s.media.luns k).bind (·.retry) with
  | some r => if r.job != j.order && s.queues.jobs.any (fun x => x.order == r.job) then some r else none
  | none => none

/-- A read waits for the retries that run for others on the LUNs it needs; the state with it among those waiting, or none. -/
def waitRetry (s : State) (j : Job) (luns : List Nat) : Option State :=
  let busy := luns.filter (fun k => (retryElse s j k).isSome)
  if busy.isEmpty then none
  else some (busy.foldl (fun s k => modLun s k (fun l => { l with retry := l.retry.map (fun r =>
    if r.waiters.contains j.order then r else { r with waiters := r.waiters ++ [j.order] }) })) s)

/-- A page that the read needs does not decode: the first step of its retry, or the next one (R508). -/
def retryStep (s : State) (j : Job) (g : FlashPage) : State :=
  let k := lunKey g.lun
  let b := blkKey k g.block.toNat
  let p := s.profOf k
  modLun s k (fun l =>
    let r : Retry := match l.retry with
      | some r =>
        if r.job == j.order && r.block == b && r.page == g.page then { r with step := min (retrySteps p) (r.step + 1) }
        else { job := j.order, block := b, page := g.page, base := s.thresholds (groupOfBlock b), step := min (retrySteps p) 1
               waiters := if r.job == j.order then r.waiters else [] }
      | none => { job := j.order, block := b, page := g.page, base := s.thresholds (groupOfBlock b), step := min (retrySteps p) 1, waiters := [] }
    { l with retry := some r, thr := retryOffsets p r.base r.step })

/-- The retry of a LUN ends with its read: the tracked thresholds as they now stand are restored, the entry that succeeded is recorded,
and the reads that waited take from it what lies in its page (R508, R519, R520). -/
def endRetry (s : State) (k : Nat) (r : Retry) (hit : Ref → Bool) (rebuilt : Bool) : State :=
  let lost := (pageRefs s r.block r.page).filter hit
  let g := groupOfBlock r.block
  let s1 := modLun s k (fun l => { l with retry := none, thr := s.thresholds g
                                          taken := l.taken ++ r.waiters.map (fun w => (w, r.block, r.page, lost)) })
  if lost.isEmpty && !rebuilt && 1 ≤ r.step && r.step ≤ pfRetrySteps (s.profOf k) then recordRetry s1 g r.step else s1

/-- The retries of a read on LUNs. -/
def ownRetries (s : State) (j : Job) : List (Nat × Retry) :=
  s.media.luns.filterMap (fun l => match l.2.retry with
    | some r => if r.job == j.order then some (l.1, r) else none
    | none => none)

/-- What finished retries found for a read that waited: block, page and what was lost there. -/
def takenOf (s : State) (j : Job) : List (Nat × Nat × List Ref) :=
  s.media.luns.flatMap (fun l => (l.2.taken.filter (fun t => t.1 == j.order)).map (·.2))

/-- Nothing is kept for a read that is over. -/
def dropTaken (s : State) (j : Job) : State :=
  modMedia s (fun m => { m with luns := tmap m.luns (fun _ l => { l with taken := l.taken.filter (fun t => t.1 != j.order) }) })

/-- A reference could not be recovered: a finished retry that the read waited for says so where it covered the page, else `hit`. -/
def refLost (s : State) (taken : List (Nat × Nat × List Ref)) (hit : Ref → Bool) (r : Ref) : Bool :=
  match locate s r with
  | some (id, m, row, _) =>
    (match taken.find? (fun t => t.1 == memberBlock s id m && t.2.1 == row) with
     | some t => t.2.2.contains r
     | none => hit r)
  | none => hit r

/-- The channels of a read are awake (R107, R147). -/
def wakeChannels (s : State) (luns : List Nat) : State := ((luns.map keyCh).eraseDups).foldl (fun s c => wakeDomain s (6 + c)) s

/-- A LUN that a read has used holds the tracked thresholds of the group read there last (R508). -/
def useThresholds (s : State) (blocks : List Nat) : State :=
  blocks.foldl (fun s b => modLun s (blkLun b) (fun l =>
    if l.retry.any (fun r => s.queues.jobs.any (fun x => x.order == r.job)) then l else { l with thr := s.thresholds (groupOfBlock b) })) s

/-- A read of pages goes to the flash: it waits for the retries of others, or it is the next step of its own, or it comes to its end,
where `some` answers the state and what finished retries give it (R508, R519). -/
def reachFlash (s : State) (j : Job) (pages : List (Nat × Nat)) (retry : Option FlashPage) : State ⊕ (State × List (Nat × Nat × List Ref)) :=
  let luns := ((pages.map (fun x => blkLun x.1)).eraseDups).filter (fun k => s.liveLuns.contains k)
  let s1 := wakeChannels s luns
  match waitRetry s1 j luns with
  | some s2 => .inl s2
  | none =>
    match retry with
    | some g =>
      if luns.contains (lunKey g.lun) && pages.contains (blkKey (lunKey g.lun) g.block.toNat, g.page) then .inl (retryStep s1 j g)
      else .inl s1
    | none => .inr (useThresholds (dropTaken s1 j) (pages.map (·.1)), takenOf s1 j)

/-- What the flash gives a read of references, at its end: its counts and what they bring with them, and, in the order of the data,
the numbers of the items that could not be recovered, each with its reference and status; or the state in which the read goes on
(R457 to R460, R508, R519). `hit` says of a reference that its data could not be recovered, `redo` that it had to be rebuilt. -/
def readFlash (s : State) (j : Job) (fl : FlashRead) (hit redo : Ref → Bool) (xs : List (Nat × Ref)) :
    State ⊕ (State × List (Nat × Ref × Nat)) :=
  let rs := xs.map (·.2)
  match reachFlash s j (refPages s rs) fl.retry with
  | .inl s1 => .inl s1
  | .inr (s1, taken) =>
    let own := ownRetries s1 j
    let s2 := noteReads (countRead s1 fl) rs
    let s3 := own.foldl (fun s x => endRetry s x.1 x.2 hit ((pageRefs s x.2.block x.2.page).any redo)) s2
    let s4 := if own.isEmpty then noteRetry s3 fl rs else s3
    let bad := xs.filterMap (fun x => match deadRef s4 x.2 with
      | some c => some (x.1, x.2, c)
      | none => if refLost s4 taken hit x.2 then some (x.1, x.2, scUncorrectable) else none)
    .inr (retireRebuilt s4 (rs.filter redo), bad)

end Sys2Proof.Machine
end

