-- ==== Sys2Proof/Machine/IoCommands.lean ====
section
/-! DEFINITION. The I/O commands of blocks and raw codewords, FLUSH and FENCE (R277 to R283, R33 to R50, R334 to R337). Steps 1 to 3
of R295 were judged at consumption; each command here makes the checks of steps 4 and 5 and then moves its data. -/

namespace Sys2Proof.Machine

/-! ## READ (R334, R457, R460) -/

/-- The newest visible bytes of a block range (R313, R334). -/
def rangeBytes (s : State) (p first len : Nat) : List Byte :=
  let sp := unitSpan first len
  let all := (List.range sp.2).flatMap (fun i => memReadN (unitNow s p (sp.1 + i)) 0 4096)
  (all.drop (first - sp.1 * 4096)).take len

/-- The flash reference that serves a unit; none where the newest visible version is in the stage or the unit is unmapped. -/
def unitRef (s : State) (p u : Nat) : Option Ref :=
  match stageVersion s.stage.writes p u, s.unitCommitted p u with
  | none, some (o, _) => some (.unit p u o)
  | some (a, _), some (o, _) => if a < o then some (.unit p u o) else none
  | _, none => none

/-- The units of a range that flash serves, with their references. -/
def rangeRefs (s : State) (p first len : Nat) : List (Nat × Ref) :=
  let sp := unitSpan first len
  (List.range sp.2).filterMap (fun i => (unitRef s p (sp.1 + i)).map (fun r => (sp.1 + i, r)))

/-- Log the lost units among those a command read (R460). -/
def logLostUnits (s : State) (p lbs : Nat) (us : List (Nat × Ref)) : State :=
  us.foldl (fun s x => logLost s p 0 0 (x.1 * 4096 / lbs) (4096 / lbs) x.2) s

/-- A unit of the partition is among those of a list. -/
def unitIn (p : Nat) (us : List Nat) : Ref → Bool
  | .unit a u _ => a == p && us.contains u
  | _ => false

/-- READ with its checks passed: the blocks from their newest visible versions, up to a unit that cannot be recovered (R334, R460). -/
def readBlocks (s : State) (j : Job) (fl : FlashRead) (p lbs first len : Nat) : State :=
  match readFlash s j fl (unitIn p fl.lost) (unitIn p fl.rebuilt) (rangeRefs s p first len) with
  | .inl s1 => s1
  | .inr (s1, bad) =>
    let data := rangeBytes s p first len
    match bad.head? with
    | none => deliver s1 j data len { status := scOk, result := len }
    | some (u, _, c) =>
      let n := max first (u * 4096) - first
      let s2 := logLostUnits s1 p lbs (bad.map (fun x => (x.1, x.2.1)))
      if c == scChannelFault then finishWith s2 j scChannelFault
      else deliver s2 j (data.take n) n { status := scUncorrectable, result := n, cr0 := (first + n) / lbs }

/-- READ: each block comes from its newest visible version (R334); a unit that cannot be recovered ends it (R460). -/
def execRead (q : Fin 4097) (count : Word) (bus : Bus) (fl : FlashRead) (s : State) : Host.Outcome State Fault Refusal :=
  match readyJob s q.val count opRead with
  | none => .next s
  | some j =>
    if isSpanJob s j then .next (spanStart (absorbBus s bus) bus j)
    else
    let e := j.bytes
    let p := ePart e
    let lbs := s.lbsOf p
    if !rangeOk s e || maxXfer < eLen e * lbs then .next (finishWith s j scOutOfRange)
    else if j.sglErr then .next (finishBus (absorbBus s bus) j)
    else .next (readBlocks (takeLeaves (absorbBus s bus) bus p (eLba e * lbs) (eLen e * lbs)) j fl p lbs (eLba e * lbs) (eLen e * lbs))

/-! ## Writes -/

/-- The map leaves of the range an entry names (R323, R345). -/
def rangeLeaves (s : State) (bus : Bus) (e : List Byte) : State :=
  takeLeaves s bus (ePart e) (eLba e * s.lbsOf (ePart e)) (eLen e * s.lbsOf (ePart e))

/-- WRITE: its data is fetched into the stage; it becomes visible with WRITE_VISIBLE and is acknowledged under R34 (R33, R216). -/
def execWrite (q : Fin 4097) (count : Word) (bus : Bus) (s : State) : Host.Outcome State Fault Refusal :=
  match s.job? q.val count with
  | none => .next s
  | some j =>
    if j.phase != .ready || j.op != opWrite || s.energy.pfSeq then .next s
    else if isSpanJob s j then .next (if waits s j then s else spanStart s bus j)
    else if !rangeOk s j.bytes || maxXfer < eLen j.bytes * s.lbsOf (ePart j.bytes) then .next (finishWith s j scOutOfRange)
    else .next (fetchData (rangeLeaves (absorbBus s bus) bus j.bytes) bus j (eLen j.bytes * s.lbsOf (ePart j.bytes)))

/-- WRITE_ZEROES: from its place in the visibility order on the blocks read 0x00 (R33, R333, R337). -/
def execWriteZeroes (q : Fin 4097) (count : Word) (bus : Bus) (s : State) : Host.Outcome State Fault Refusal :=
  match readyJob s q.val count opWriteZeroes with
  | none => .next s
  | some j =>
    .next (if isSpanJob s j then spanStart (absorbBus s bus) bus j
      else if rangeOk s j.bytes then settle (placeZero (rangeLeaves (absorbBus s bus) bus j.bytes) j false) else finishWith s j scOutOfRange)

/-- TRIM: as WRITE_ZEROES, but for USED_UNITS (R314, R337). -/
def execTrim (q : Fin 4097) (count : Word) (bus : Bus) (s : State) : Host.Outcome State Fault Refusal :=
  match readyJob s q.val count opTrim with
  | none => .next s
  | some j =>
    .next (if isSpanJob s j then spanStart (absorbBus s bus) bus j
      else if rangeOk s j.bytes then settle (placeZero (rangeLeaves (absorbBus s bus) bus j.bytes) j true) else finishWith s j scOutOfRange)

/-- FLUSH: it completes once every write in its scope that was visible at its consumption is committed (Table 9-3). -/
def execFlush (q : Fin 4097) (count : Word) (s : State) : Host.Outcome State Fault Refusal :=
  match s.job? q.val count with
  | none => .next s
  | some j =>
    if j.op != opFlush || s.energy.pfSeq then .next s
    else if j.phase == .ready && !waits s j && s.cas.enumerating.isNone then .next (spanFlush s j)
    else .next (if j.phase == .running then settle s else s)

/-- FENCE: it completes once its predecessors are visible or complete (R245). -/
def execFence (q : Fin 4097) (count : Word) (s : State) : Host.Outcome State Fault Refusal :=
  match s.job? q.val count with
  | none => .next s
  | some j => if j.phase != .running || j.op != opFence || s.energy.pfSeq then .next s else .next (settle s)

/-! ## RAW_READ (R49, R283, R309) -/

/-- The address names a populated block (R283). -/
def rawBlock (s : State) (a : Nat) : Bool :=
  (tget s.media.luns (paLun a)).isSome && decide (bitsOf a 39 20 < pfBlocks (s.profOf (paLun a)))

/-- The range lies in that block (R283). -/
def rawOk (s : State) (a n : Nat) : Bool :=
  let p := s.profOf (paLun a)
  let c := cwPerPage p
  rawBlock s a && 1 ≤ n && decide (paPage a < pfPages p) && decide (paCw a < c) && decide (paPage a * c + paCw a + n ≤ pfPages p * c)

/-- The page lies in a wordline pairing group that a power loss interrupted and no erase has cleared since (R49). -/
def tornAt (s : State) (block page : Nat) : Bool :=
  s.media.tornGroups.any (fun t => t.1 == block && decide (t.2.1 ≤ page) && decide (page < t.2.1 + t.2.2))

/-- The block belongs to the partition, or is listed for it on the INTERRUPTED page (R283). -/
def rawOwned (s : State) (block part : Nat) : Bool :=
  s.media.courses.any (fun c => c.2.pages.any (fun g => c.2.blocks[g.1]? == some block && g.2.2.any (fun r => refPart r == some part))) ||
  s.media.interrupted.any (fun t => paBlock (fieldAt t 0 8) == block && fieldAt t 8 2 == part)

/-- A program is writing the group of one of the pages (R309). -/
def rawBusy (s : State) (block first last : Nat) : Bool :=
  match tget s.media.luns (blkLun block) with
  | some l => (match l.op with
    | .program id m row _ _ =>
      let g := ((tget s.media.courses id).map (fun c => c.groupAt m)).getD 1
      memberBlock s id m == block && decide (row / g * g ≤ last) && decide (first ≤ row / g * g + g - 1)
    | _ => false)
  | none => false

/-- What one codeword returns: its bytes, and whether it is torn, or failed and not torn (R49, R283, R507). A good codeword returns what
is stored there, after derandomizing and before any XTS decryption; where the model stores none it is a free value (log 2). -/
def rawCw (s : State) (j : Job) (i : Nat) (r : CwResult) : List Byte × Bool × Bool :=
  let e := j.bytes
  let c := cwPerPage (s.profOf (paLun (eLba e)))
  let n := paPage (eLba e) * c + paCw (eLba e) + i
  let page := n / max 1 c
  let size := if fOpt e then 4128 else 4096
  match r with
  | .good => (((cellData s (paBlock (eLba e)) page (n % max 1 c)).map (fun d => bytesAt d 0 size)).getD (freeBytes (s.free + size * i) size),
      false, false)
  | .erased => (List.replicate size 0xFF, false, false)
  | .failed raw =>
    if !tornAt s (paBlock (eLba e)) page then (bytesAt raw 0 size, false, true)
    else (List.replicate size (((tget s.parts (ePart e)).map (·.tornFill)).getD 0), true, false)

/-- The reference's data lie in the codeword at an address of its page. -/
def refCovers (s : State) (r : Ref) (a : Nat) : Bool :=
  let x := refAddr s r
  decide (x ≤ a) && decide (a < x + (refSize s r + 4095) / 4096)

/-- A codeword whose die has failed is read by rebuild, or not at all (R457, R458). -/
def rawDead (s : State) (block page : Nat) : Bool :=
  !blockReads s block && !((s.media.courses.findSome? (fun c => (c.2.blocks.findIdx? (· == block)).map (fun m => (c.1, m)))).any
    (fun x => rowRebuilds s x.1 x.2 page))

/-- The outcome of a codeword: what a finished retry that the read waited for says of its page, else the flash's answer (R519). -/
def rawOutcome (s : State) (taken : List (Nat × Nat × List Ref)) (block page cw : Nat) (r : CwResult) : CwResult :=
  let bad := match r with
    | .failed raw => CwResult.failed raw
    | _ => .failed (freeBytes s.free 4128)
  if rawDead s block page then bad
  else
    match taken.find? (fun t => t.1 == block && t.2.1 == page) with
    | some t => if t.2.2.any (fun x => refCovers s x (physAddr block page cw)) then bad
      else (match r with | .failed _ => .good | x => x)
    | none => r

/-- RAW_READ with its checks passed: the codewords in order, up to one that is torn or fails (R49, R283, R507, R519). -/
def readRaw (s : State) (j : Job) (cws : List CwResult) (retry : Option FlashPage) : State :=
  let a := eLba j.bytes
  let n := eLen j.bytes
  let size := if fOpt j.bytes then 4128 else 4096
  let c := max 1 (cwPerPage (s.profOf (paLun a)))
  let start := paPage a * c + paCw a
  let place := fun (i : Nat) => ((start + i) / c, (start + i) % c)
  let pages := ((List.range n).map (fun i => (paBlock a, (place i).1))).eraseDups
  match reachFlash s j pages retry with
  | .inl s1 => s1
  | .inr (s1, taken) =>
    let out := (List.range n).map (fun i => rawOutcome s1 taken (paBlock a) (place i).1 (place i).2 ((cws[i]?).getD .good))
    let rs := out.mapIdx (fun i r => rawCw s1 j i r)
    let failed := (List.range n).filter (fun i => ((rs[i]?).map (·.2.2)).getD false)
    let hit := fun (r : Ref) => failed.any (fun i => refCovers s1 r (physAddr (paBlock a) (place i).1 (place i).2))
    let s2 := (ownRetries s1 j).foldl (fun s x => endRetry s x.1 x.2 hit false) s1
    let data := rs.flatMap (·.1)
    let s3 := { s2 with free := s2.free + 4128 * n }
    match rs.findIdx? (fun r => r.2.1 || r.2.2) with
    | none => deliver s3 j data data.length { status := scOk, result := data.length }
    | some i =>
      deliver s3 j data (size * i)
        (if ((rs[i]?).map (·.2.1)).getD false then { status := scTorn, result := size * i }
         else { status := scUncorrectable, result := size * i, cr0 := physAddr (paBlock a) (place i).1 (place i).2 })

/-- RAW_READ: decoded codewords by physical address; torn ones return TORN_FILL (R49, R283, R295, R309). -/
def execRawRead (q : Fin 4097) (count : Word) (bus : Bus) (cws : List CwResult) (retry : Option FlashPage) (s : State) :
    Host.Outcome State Fault Refusal :=
  match readyJob s q.val count opRawRead with
  | none => .next s
  | some j =>
    let e := j.bytes
    let a := eLba e
    let n := eLen e
    let c := cwPerPage (s.profOf (paLun a))
    if (tget s.parts (ePart e)).isNone then .next (finishWith s j scOutOfRange)
    else if rawBlock s a && !rawOwned s (paBlock a) (ePart e) then .next (finishWith s j scAccessDenied)
    else if maxXfer < n * (if fOpt e then 4128 else 4096) || !rawOk s a n then .next (finishWith s j scOutOfRange)
    else if s.media.offline.getLsbD (keyCh (paLun a)) || s.domMode (6 + keyCh (paLun a)) == .offUntilReset then
      .next (finishWith s j scChannelFault)
    else if rawBusy s (paBlock a) (paPage a) ((paPage a * c + paCw a + n - 1) / max 1 c) then .next s
    else if j.sglErr then .next (finishBus (absorbBus s bus) j)
    else .next (readRaw (absorbBus s bus) j cws retry)

end Sys2Proof.Machine
end

