-- ==== Sys2Proof/Machine/StreamCommands.lean ====
section
/-! DEFINITION. The stream commands, and what time does to streams: the Ashlar time limit, the signer, retention (R279 to R282,
R302, R351 to R366, R750). -/

namespace Sys2Proof.Machine

/-! ## Capacity (R314, R750) -/

/-- Map units a stream takes: its data and the units that hold its seal records. -/
def Strm.units (t : Strm) : Nat := (t.endOff + 4095) / 4096 + ((t.recs.map (·.bytes.length)).sum + 4095) / 4096

/-- Streams of a partition. -/
def State.streamsOf (s : State) (p : Nat) : List (Nat × Strm) := s.streams.tbl.filter (fun x => sPart x.1 == p)

/-- USED_UNITS of a partition (R314). -/
def State.usedUnits (s : State) (p : Nat) : Nat :=
  match tget s.parts p with
  | some q => if q.isStream then ((s.streamsOf p).map (fun x => x.2.units)).sum else q.used.length
  | none => 0

/-- Open streams of a partition: one unit stays in reserve for each (R750). -/
def State.openIn (s : State) (p : Nat) : Nat := ((s.streamsOf p).filter (fun x => x.2.cond == .opened)).length

/-- Capacity of a partition in units. -/
def State.capOf (s : State) (p : Nat) : Nat := ((tget s.parts p).map (·.capUnits)).getD 0

/-! ## STREAM_OPEN (R280, R351, R352) -/

/-- A stream as STREAM_OPEN creates it, before its opening Ashlar. -/
def newStrm (s : State) (p h days : Nat) (foot : Bool) : Strm :=
  { cond := .opened, handle := some h, endOff := 0, commEnd := 0, ackEnd := 0
    retain := if days == 0 then ((tget s.parts p).map (·.retainDays)).getD 0 else days
    holds := [], data := [], gaps := [], recs := [], due := [], running := none, cadence := 0
    capEvery := (s.featOf (sKey p 0)).capEvery, capHist := [(0, (s.featOf (sKey p 0)).capEvery)], maxSeq := 1, closeUtc := 0, thisBoot := true, inFooting := foot
    replay := false, lostBoot := 0, times := [], adoptFrom := none, src := none }

/-- The number the next stream of a partition takes: one above the highest assigned, then those that were not committed (R351). -/
def Part.nextStream (q : Part) : Nat := if q.maxStream < 65535 then q.maxStream + 1 else q.lostNums.headD 65536

/-- Create a stream with its opening Ashlar; the entry waits for that record's commit (R351, R352, R425). -/
def createStream (s : State) (j : Job) (p h : Nat) : State :=
  let n := ((tget s.parts p).map Part.nextStream).getD 1
  let key := sKey p n
  let tick := s.gbl.tick.toNat
  let t := newStrm s p h (eLen j.bytes) s.inFootingService
  let s1 := closeWith s key t
    (.ashlar afOpen 1 0 0 0 s.bootNow.toNat tick (utcAt s.streams.utc tick) (eTime j.bytes)) 0 0
  let s2 := { s1 with parts := tmod s1.parts p (fun q => { q with maxStream := max q.maxStream n, lostNums := q.lostNums.filter (· != n) }) }
  settle (setJob s2 { j with phase := .record 1, mark := key, result := openResult n h })

/-- A number counts as assigned once the opening Ashlar of its stream is committed (R351). -/
def unassigned (s : State) (p n : Nat) : Bool :=
  match s.strm? (sKey p n) with
  | some t => t.src.isNone && !t.recs.any (·.committed)
  | none => false

/-- STREAM_OPEN: a new stream, or a handle for an open one (R280, R351, R750). -/
def execStreamOpen (q : Fin 4097) (count : Word) (s : State) : Host.Outcome State Fault Refusal :=
  match readyJob s q.val count opStreamOpen with
  | none => .next s
  | some j =>
    if isSpanJob s j then .next (spanStart s noBus j)
    else
    let e := j.bytes
    let p := ePart e
    let n := eStream e
    match tget s.parts p with
    | none => .next (finishWith s j scOutOfRange)
    | some part =>
      if !part.isStream || 65535 < eLen e || part.maxStream < n || part.lostNums.contains n || unassigned s p n
      then .next (finishWith s j scOutOfRange)
      else if n == 0 then
        (if part.nextStream == 65536 || 1024 ≤ s.openStreams || part.capUnits < s.usedUnits p + s.openIn p + 2
         then .next (finishWith s j scNoSpace)
         else
           match freeHandle s with
           | none => .next (finishWith s j scNoSpace)
           | some h => .next (createStream s j p h))
      else
        match s.strm? (sKey p n) with
        | none => .next (finishWith s j scStreamClosed)
        | some t =>
          if t.cond ≠ .opened then .next (finishWith s j scStreamClosed)
          else
            match (match t.handle with | some h => some h | none => freeHandle s) with
            | none => .next (finishWith s j scNoSpace)
            | some h =>
              .next (finish (setStream s (sKey p n) { t with handle := some h }) j
                { status := scOk, onMedia := true, result := openResult n h, cr0 := t.endOff, cr1 := t.newestAshlar })

/-! ## Appends, marks, closes -/

/-- Units by which an append raises its stream's data units (R750). -/
def appendGrowth (t : Strm) (n : Nat) : Nat := (t.endOff + n + 4095) / 4096 - (t.endOff + 4095) / 4096

/-- Offset after the appends of a stream that are admitted and not yet visible. -/
def pendingEnd (s : State) (k : Nat) (t : Strm) : Nat :=
  t.endOff + ((s.queues.jobs.filter (fun j => j.op == opStreamAppend && j.mark == k && (j.phase == .fetched || j.phase == .running))).map
    (fun j => eLen j.bytes)).sum

/-- Units by which the appends admitted and not yet visible will raise a partition's data units (R750). -/
def pendingUnits (s : State) (p : Nat) : Nat :=
  ((s.streamsOf p).map (fun x => appendGrowth x.2 (pendingEnd s x.1 x.2 - x.2.endOff))).sum

/-- STREAM_APPEND: its data is fetched; it receives its offset and is sealed when it becomes visible (R33, R279, R750). -/
def execStreamAppend (q : Fin 4097) (count : Word) (bus : Bus) (s : State) : Host.Outcome State Fault Refusal :=
  match s.job? q.val count with
  | none => .next s
  | some j =>
    if j.phase != .ready || j.op != opStreamAppend || s.energy.pfSeq then .next s
    else if isSpanJob s j then .next (if waits s j then s else spanStart s bus j)
    else if eLen j.bytes == 0 || maxXfer < eLen j.bytes then .next (finishWith s j scOutOfRange)
    else
      match s.strm? j.mark with
      | none => .next (finishWith s j scStreamClosed)
      | some t =>
        let p := sPart j.mark
        if j.mark == 0 || t.cond ≠ .opened then .next (finishWith s j scStreamClosed)
        else if s.capOf p < appendGrowth { t with endOff := pendingEnd s j.mark t } (eLen j.bytes) + pendingUnits s p + s.usedUnits p + s.openIn p
        then .next (finishWith s j scNoSpace)
        else .next (fetchData (absorbBus s bus) bus j (eLen j.bytes))

/-- STREAM_MARK: it ends the running Ashlar with its mark code, with a Capstone where asked for (R281, R353, R357). -/
def execStreamMark (q : Fin 4097) (count : Word) (s : State) : Host.Outcome State Fault Refusal :=
  match readyJob s q.val count opStreamMark with
  | none => .next s
  | some j => .next (if isSpanJob s j then spanStart s noBus j else if j.mark == 0 then finishWith s j scStreamClosed else settle (placeMark s j))

/-- STREAM_CLOSE: it ends the Ashlar, writes the closing Capstone and releases the handle; it completes once that Capstone is
committed (R281, R302, R353, R357). -/
def execStreamClose (q : Fin 4097) (count : Word) (s : State) : Host.Outcome State Fault Refusal :=
  match readyJob s q.val count opStreamClose with
  | none => .next s
  | some j =>
    if isSpanJob s j then .next (spanStart s noBus j)
    else
    match s.strm? j.mark with
    | none => .next (finishWith s j scStreamClosed)
    | some t =>
      if j.mark == 0 || t.cond ≠ .opened then .next (finishWith s j scStreamClosed)
      else if closeWaits s j then .next s
      else
        let a := t.endedSeq
        let s1 := endOrEmpty s j.mark t afClose 0 cfClose (eTime j.bytes)
        let s2 := match s1.strm? j.mark with
          | some t1 => setStream s1 j.mark { t1 with cond := .closed, handle := none }
          | none => s1
        .next (settle (setJob s2 { j with phase := .record (a + 1), result := t.endOff, ashlar := a }))

/-! ## STREAM_READ (R46, R282, R363, R460) -/

/-- The record area in sequence order, provenance records included (R363). -/
def Strm.area (t : Strm) : List Byte := t.recs.flatMap (·.bytes)

/-- Record boundaries of the area: byte offsets at which a record begins. -/
def recStarts : List Rec → Nat → List Nat
  | [], _ => []
  | r :: rs, n => n :: recStarts rs (n + r.bytes.length)

/-- Whole records from `start` that fit in `len` bytes (R363). -/
def wholeRecs : List Rec → Nat → Nat → Nat → List Rec
  | [], _, _, _ => []
  | r :: rs, at_, start, len =>
    if at_ < start then wholeRecs rs (at_ + r.bytes.length) start len
    else if r.bytes.length ≤ len then r :: wholeRecs rs (at_ + r.bytes.length) start (len - r.bytes.length)
    else []

/-- A record of the stream is among those of a list. -/
def recordIn (key : Nat) (qs : List Nat) : Ref → Bool
  | .record k q => k == key && qs.contains q
  | _ => false

/-- STREAM_READ with RECORDS (R363, R379). -/
def readRecords (s : State) (j : Job) (key : Nat) (t : Strm) (fl : FlashRead) : State :=
  let start := eLba j.bytes * 128
  if eLen j.bytes % 128 != 0 || !(recStarts t.recs 0).contains start then finishWith s j scOutOfRange
  else
    let rs := wholeRecs t.recs 0 start (eLen j.bytes)
    let xs := (rs.filter (fun r => r.committed && r.kind != 4)).map (fun r => (r.seq, Ref.record key r.seq))
    match readFlash s j fl (recordIn key fl.lost) (recordIn key fl.rebuilt) xs with
    | .inl s1 => s1
    | .inr (s1, bad) =>
      match bad.head? with
      | none =>
        let d := rs.flatMap (·.bytes)
        deliver s1 j d d.length { status := scOk, result := d.length, cr0 := t.recs.length }
      | some (q, _, c) =>
        let d := (rs.takeWhile (fun r => r.seq != q || r.kind == 4)).flatMap (·.bytes)
        let s2 := bad.foldl (fun s x => logLost s (sPart key) 2 (sNum key) x.1 1 x.2.1) s1
        if c == scChannelFault then finishWith s2 j scChannelFault
        else deliver s2 j d d.length { status := scUncorrectable, result := d.length, cr0 := start + d.length }

/-- The first declared gap a range reaches or begins in (R46). -/
def firstGap (t : Strm) (start stop : Nat) : Option (Nat × Nat) :=
  t.gaps.find? (fun g => decide (g.1 < stop) && decide (start < g.1 + g.2) && decide (0 < g.2))

/-- The offset at which a reference of the stream first misses something in a range: the first offset of a list in it, or where the
range meets it. -/
def firstMiss (start stop : Nat) (os : List Nat) : Ref → Nat
  | .bytes _ f n =>
    (match os.filter (fun o => decide (max start f ≤ o) && decide (o < min stop (f + n))) with
     | [] => max start f
     | o :: r => r.foldl min o)
  | _ => start

/-- Bytes of the stream at offsets of a list lie in the reference. -/
def bytesIn (key : Nat) (os : List Nat) : Ref → Bool
  | .bytes k f n => k == key && os.any (fun o => decide (f ≤ o) && decide (o < f + n))
  | _ => false

/-- The references to committed bytes of a stream in a range. -/
def streamRefs (s : State) (key start stop : Nat) : List Ref :=
  (s.media.courses.flatMap (fun c => c.2.pages.flatMap (fun g => g.2.2))).filter (fun r => match r with
    | .bytes k f n => k == key && decide (f < stop) && decide (start < f + n)
    | _ => false)

/-- LOST_EXTENT for stream bytes. -/
def logLostBytes (s : State) (key : Nat) (r : Ref) : State :=
  match r with
  | .bytes _ f n => logLost s (sPart key) 1 (sNum key) f n r
  | _ => s

/-- STREAM_READ with RECORDS clear (R46, R282, R336, R460). -/
def readStream (s : State) (j : Job) (key : Nat) (t : Strm) (fl : FlashRead) : State :=
  let e := j.bytes
  let start := eLba e
  if t.endOff ≤ start then finishWith s j scOutOfRange
  else
    let stop := min (start + eLen e) t.endOff
    let gap := firstGap t start stop
    let dataEnd := match gap with
      | some g => max start g.1
      | none => stop
    let top := min dataEnd t.commEnd
    let d := memReadN t.data start (dataEnd - start)
    let xs := (streamRefs s key start top).map (fun r => (firstMiss start top fl.lost r, r))
    match readFlash s j fl (bytesIn key fl.lost) (bytesIn key fl.rebuilt) xs with
    | .inl s1 => s1
    | .inr (s1, bad) =>
      match bad with
      | x :: rest =>
        let first := rest.foldl (fun (a : Nat × Ref × Nat) b => if b.1 < a.1 then b else a) x
        let s2 := bad.foldl (fun s b => logLostBytes s key b.2.1) s1
        if first.2.2 == scChannelFault then finishWith s2 j scChannelFault
        else deliver s2 j (d.take (first.1 - start)) (first.1 - start)
          { status := scUncorrectable, result := first.1 - start, cr0 := first.1 }
      | [] =>
        match gap with
        | none => deliver s1 j d d.length { status := scOk, result := d.length }
        | some g =>
          let fill := List.replicate (min (start + eLen e) (g.1 + g.2) - dataEnd) (((tget s.parts (ePart e)).map (·.tornFill)).getD 0)
          deliver s1 j (d ++ fill) d.length { status := scTorn, result := d.length, cr0 := g.1 + g.2 }

/-- STREAM_READ (R282, R363). -/
def execStreamRead (q : Fin 4097) (count : Word) (bus : Bus) (fl : FlashRead) (s : State) : Host.Outcome State Fault Refusal :=
  match readyJob s q.val count opStreamRead with
  | none => .next s
  | some j =>
    if isSpanJob s j then .next (spanStart (absorbBus s bus) bus j)
    else
    let e := j.bytes
    let key := sKey (ePart e) (eStream e)
    if eLen e == 0 || maxXfer < eLen e || !((tget s.parts (ePart e)).any (·.isStream)) then .next (finishWith s j scOutOfRange)
    else
      match s.strm? key with
      | none => .next (finishWith s j scOutOfRange)
      | some t =>
        let s0 := absorbBus s bus
        if j.sglErr then .next (finishBus s0 j)
        else .next (if fOpt e then readRecords s0 j key t fl else readStream s0 j key t fl)

/-! ## Time -/

/-- ASHLAR_TIMEOUT: ASHLAR_SPAN_MS has elapsed since the running Ashlar's first byte became visible; it closes with TIMED (R353). -/
def execAshlarTimeout (part : Fin 32) (stream : BitVec 16) (s : State) : Host.Outcome State Fault Refusal :=
  let key := sKey part.val stream.toNat
  match s.strm? key with
  | none => .next s
  | some t =>
    match t.running with
    | none => .next s
    | some r => if s.energy.pfSeq then .next s else .next (settle (endRunning s key t r afTimed 0 0 0 false))

/-- CAPSTONE_SIGNED: the Capstone whose signature has been longest due is complete, and the records after it follow (R358 to R361).
Its UTC estimate is C of R364 where it closes the stream. -/
def execCapstoneSigned (s : State) : Host.Outcome State Fault Refusal :=
  match s.streams.sign with
  | [] => .next s
  | key :: rest =>
    if s.energy.pfSeq || s.gbl.sealFault then .next s
    else
      let s1 := wakeDomain { s with streams := { s.streams with sign := rest } } 4
      match s1.strm? key with
      | none => .next s1
      | some t =>
        match t.due with
        | .capstone f q h :: ds =>
          let t1 := { t with recs := t.recs ++ [t.settle s1 key (.capstone f q h)], due := ds
                             closeUtc := if bitOf f 0 then utcAt s1.streams.utc s1.gbl.tick.toNat else t.closeUtc }
          .next (settle (setStream s1 key (t1.flushDue s1 key ds)))
        | _ => .next s1

/-- A stream has expired (R364): UTC estimates in µs. -/
def expired (s : State) (t : Strm) : Bool :=
  let now := utcAt s.streams.utc s.gbl.tick.toNat
  (t.cond == .closed || t.cond == .transferred) && t.retain != 0 && t.closeUtc != 0 && now != 0 &&
  decide (t.closeUtc + max t.retain s.prot.retainMin.toNat * 86400000000 ≤ now)

/-- No hold on the stream or its partition keeps it, and no transfer out of it runs (R365, R377). -/
def unheld (s : State) (key : Nat) (t : Strm) : Bool :=
  t.holds.isEmpty && (((tget s.parts (sPart key)).map (·.holds.isEmpty)).getD true) && !s.streams.outgoing.any (fun x => x.1 == key)

/-- Release every expired stream that nothing keeps, freeing its blocks (R364, R463). -/
def releaseExpired (s : State) : State :=
  let gone := (s.streams.tbl.filter (fun x => expired s x.2 && unheld s x.1 x.2)).map (·.1)
  if gone.isEmpty then s
  else freeEmpty { s with streams := { s.streams with tbl := s.streams.tbl.filter (fun x => !gone.contains x.1) } }

/-- Expiry is evaluated on the device's own media once recovery is over; not in HALTED or FAILED, nor in the power-fail sequence (R364). -/
def State.mayRelease (s : State) : Bool :=
  s.gbl.recovered && s.sys.present && !s.media.foreign && !s.energy.pfSeq && !s.stopped

/-- RETENTION_CHECK: every 60 s of GBL_TICK the expired streams are released (R364). -/
def execRetentionCheck (s : State) : Host.Outcome State Fault Refusal :=
  if s.mayRelease then
    .next { releaseExpired s with streams := { (releaseExpired s).streams with lastCheck := s.gbl.tick } }
  else .next s

end Sys2Proof.Machine
end

