-- ==== Sys2Proof/Machine/LogPages.lean ====
section
/-! DEFINITION. The pages of GET_LOG (Table 9-9) and their generations (R290). -/

namespace Sys2Proof.Machine

/-! ## ERROR (R687, R688) -/

/-- The 64 bytes of an error-log entry (Table 21-2). -/
def entryBytes (e : LogEntry) : List Byte :=
  leBytes 8 e.seq ++ leBytes 8 e.tick.toNat ++ leBytes 8 e.boot.toNat ++ leBytes 2 e.type ++ leBytes 1 e.cls ++ [0] ++
  bytesAt e.param 0 36

/-- FIRST_SEQ: NEXT_SEQ where the page is empty (Table 21-1). -/
def Log.firstSeq (l : Log) : Nat := ((l.entries.head?).map (·.seq)).getD l.nextSeq

/-- Page 0x01. -/
def State.pageError (s : State) : List Byte :=
  leBytes 4 s.log.entries.length ++ leBytes 4 4096 ++ leBytes 8 s.log.firstSeq ++ leBytes 8 s.log.nextSeq ++
  leBytes 8 s.log.dropped ++ leBytes 32 0 ++ s.log.entries.flatMap entryBytes

/-! ## STREAMS, FRACTURES, INTERRUPTED (Tables 9-9a, 9-9b) -/

/-- One STREAMS entry (Table 9-9a). -/
def streamEntry (x : Nat × Strm) : List Byte :=
  leBytes 2 (x.2.handle.getD 0xFFFF) ++ leBytes 2 (sNum x.1) ++ leBytes 4 0 ++ leBytes 8 x.2.endOff ++ leBytes 8 x.2.commEnd ++
  leBytes 8 x.2.newestAshlar

/-- Page 0x03: the open streams of a partition; before RECOVERED those of this boot only (R424). -/
def State.pageStreams (s : State) (p : Nat) : List Byte :=
  ((s.streamsOf p).filter (fun x => x.2.cond == .opened && (s.gbl.recovered || x.2.thisBoot))).flatMap streamEntry

/-- Page 0x04: the Fractures of the last replay in a partition; none before RECOVERED (R424). -/
def State.pageFractures (s : State) (p : Nat) : List Byte :=
  if s.gbl.recovered then (s.media.fractures.filter (fun x => x.1 == p)).flatMap (·.2) else []

/-- Page 0x05 (R424). -/
def State.pageInterrupted (s : State) : List Byte := if s.gbl.recovered then s.media.interrupted.flatten else []

/-! ## OVERDRIVE (Tables 14-1, 14-2) -/

/-- Page 0x06. -/
def State.pageOverdrive (s : State) : List Byte :=
  let o := s.media.pace
  leBytes 4 o.sustain ++ leBytes 4 o.headroom ++ leBytes 4 ((o.periods.map (·.1)).sum * 2 / 1000000) ++ leBytes 4 o.waMilli ++
  leBytes 2 (o.victims.sum / max 1 o.victims.length) ++ leBytes 2 o.gcShareNow ++ leBytes 4 s.quarry ++ leBytes 4 s.qFloor ++
  leBytes 4 (b2n s.gbl.overdrive + 2 * b2n (decide (s.quarry ≤ s.qFloor)) + 4 * b2n s.energy.catchUp) ++
  leBytes 8 o.totalMs ++ leBytes 4 o.episodes ++ leBytes 4 o.history.length ++ leBytes 16 0 ++
  o.history.flatMap (fun h => leBytes 8 h.1 ++ leBytes 4 h.2.1 ++ leBytes 4 h.2.2)

/-! ## CALIBRATION (Tables 17-6 to 17-8) -/

/-- A T_ref in whole °C; 0x80 where there is none. -/
def wholeDeg (t : Option Int) : Nat :=
  match t with
  | some v => (BitVec.ofInt 8 (v / 4)).toNat
  | none => 0x80

/-- Highest count of consecutive disagreements among a kind's units. -/
def State.calConsec (s : State) (kind : Nat) : Nat :=
  if kind == 0 then maxOf (s.cal.trims.map (·.2.consec))
  else if kind == 1 then maxOf (s.cal.tracks.map (·.2.consec))
  else s.cal.holdConsec

/-- A kind record (Table 17-7). -/
def State.kindRec (s : State) (k : Nat) : List Byte :=
  let r := (s.cal.recs[k]?).getD resetCalRec
  leBytes 1 k ++
  leBytes 1 (b2n (s.cal.degraded.getLsbD k) + 2 * b2n (s.cal.disagree.getLsbD k) + 4 * b2n (bitOf s.calBusy k)) ++
  leBytes 1 (satTo 255 (s.calConsec k)) ++ leBytes 1 (wholeDeg r.accTj) ++ leBytes 4 r.accBoot ++ leBytes 8 r.accTick ++
  leBytes 4 r.accValue ++ leBytes 4 r.rejBoot ++ leBytes 8 r.rejTick ++ leBytes 4 r.rejUnit ++ leBytes 4 r.rejA ++
  leBytes 4 r.rejB ++ leBytes 20 0

/-- A target record (Table 17-8). -/
def State.targetRec (s : State) (u : Nat) : List Byte :=
  let p := (tget s.media.bound (u / 8)).getD []
  let t := s.trim? u
  let here := s.liveLuns.any (fun l => l / 4 == u)
  let consec := ((tget s.cal.trims u).map (·.consec)).getD 0
  if !here then leBytes 16 0
  else
    leBytes 1 (1 + 2 * b2n (t.any (·.accepted)) + 4 * b2n (!s.fullRate u) + 8 * b2n (decide (3 ≤ consec))) ++
    leBytes 1 (satTo 255 consec) ++ leBytes 2 (if s.fullRate u then pfRate p else reducedRate (pfMode p)) ++
    leBytes 1 (s.trimTap u false) ++ leBytes 1 (s.trimTap u true) ++ leBytes 1 ((t.map (·.rdWin)).getD 0) ++
    leBytes 1 ((t.map (·.wrWin)).getD 0) ++ leBytes 1 (wholeDeg (t.map (·.tref))) ++ leBytes 7 0

/-- Page 0x07. -/
def State.pageCal (s : State) : List Byte :=
  leBytes 1 s.sys.calDelta ++ leBytes 1 (b2n s.cal.autoEn) ++ leBytes 30 0 ++ s.kindRec 0 ++ s.kindRec 1 ++ s.kindRec 2 ++
  (List.range 128).flatMap s.targetRec

/-! ## ROSTER (R621) -/

/-- A Roster entry (Table 19-5). -/
def rosterBytes (id : Nat) (r : RosterE) : List Byte :=
  leBytes 2 id ++ leBytes 1 r.state ++ leBytes 1 r.depth ++ leBytes 4 r.position ++ bytesAt r.serial 0 16 ++ bytesAt r.keyId 0 32 ++
  leBytes 8 r.lastBoot ++ leBytes 8 r.seenBoot ++ leBytes 8 r.seenTick ++ bytesAt r.heldSerial 0 16 ++ bytesAt r.heldKeyId 0 32

/-- Page 0x09: the header alone on a device that is not the Keystone. ADMITTED counts the entries whose device is present. -/
def State.pageRoster (s : State) : List Byte :=
  let rs := if s.keystone then s.cas.roster else []
  leBytes 4 rs.length ++ leBytes 4 (rs.filter (fun r => r.2.state == 1 && r.2.present)).length ++ leBytes 24 0 ++
  rs.flatMap (fun r => rosterBytes r.1 r.2)

/-! ## GET_LOG's pages -/

/-- The bytes of a page (Table 9-9). -/
def State.logPage (s : State) (page part : Nat) : List Byte :=
  if page == 1 then s.pageError
  else if page == 2 then bytesAt s.log.page 0 1280
  else if page == 3 then s.pageStreams part
  else if page == 4 then s.pageFractures part
  else if page == 5 then s.pageInterrupted
  else if page == 6 then s.pageOverdrive
  else if page == 7 then s.pageCal
  else if page == 8 then s.pageMap
  else if page == 9 then s.pageRoster
  else s.mirror s.coreOff

/-- Key of a page's generation: one for each partition where the page names one. -/
def pageKey (page part : Nat) : Nat := if page == 3 || page == 4 then page * 32 + part else page

/-- GET_LOG reads a page: one that changed since it was last read, and whose change was not counted as it happened, advances its generation
now (R290). -/
def notePage (s : State) (page part : Nat) : State :=
  let k := pageKey page part
  let b := s.logPage page part
  match tget s.log.seen k with
  | some x => if x == b then s else { s with log := { bumpGen s.log k with seen := tput s.log.seen k b } }
  | none => { s with log := { s.log with seen := tput s.log.seen k b } }

/-- Generation of a page. -/
def State.pageGen (s : State) (page part : Nat) : Nat := (tget s.log.gens (pageKey page part)).getD 0

end Sys2Proof.Machine
end

