-- ==== Sys2Proof/Machine/Admin.lean ====
section
/-! DEFINITION. The admin commands of queues, logs, identity, time and features, and what all admin commands share (R244, R285 to
R293, R301, R424). Each makes its checks in the order of R295 and takes effect, commit included, in one command. -/

namespace Sys2Proof.Machine

/-! ## Shared by the admin commands -/

/-- A feature kept for one partition (Table 9-10). -/
def partFeature (id : Nat) : Bool := id ≤ 4

/-- The partitions an admin entry names: none, one, or every one (R244). -/
inductive Names where
  | none | one (p : Nat) | all
  deriving DecidableEq, Repr

/-- What an admin entry names (R244). -/
def adminNames (e : List Byte) : Names :=
  let op := eOp e
  if op == opAdoptMedia || (op == opSanitize && bitOf (eAttr e) 0) then .all
  else if op == opCreatePartition || op == opDeletePartition || op == opSetHold || op == opSanitize then .one (ePart e)
  else if (op == opSetFeature || op == opGetFeature) && partFeature (eAttr e) then .one (ePart e)
  else if op == opIdentify && eAttr e % 4 == 1 then .one (ePart e)
  else if op == opGetLog && (eAttr e == 3 || eAttr e == 4) then .one (ePart e)
  else .none

/-- Two entries name the same partition, or one of them names every partition (R244). -/
def Names.meet : Names → Names → Bool
  | .all, _ => true
  | _, .all => true
  | .one a, .one b => a == b
  | _, _ => false

/-- An entry that changes a partition, in the sense of R244. -/
def adminChanges (e : List Byte) : Bool :=
  [opCreatePartition, opDeletePartition, opSetHold, opSanitize, opAdoptMedia].contains (eOp e) ||
  (eOp e == opSetFeature && partFeature (eAttr e))

/-- Two admin entries conflict (R244). -/
def adminConflict (a b : List Byte) : Bool :=
  let both := fun (l : List Nat) => l.contains (eOp a) && l.contains (eOp b)
  ((adminNames a).meet (adminNames b) && (adminChanges a || adminChanges b)) ||
  (both [opLoadProfile] && bitOf (eAttr a) 0 && bitOf (eAttr b) 0) || both [opLoadMicrocode] ||
  both [opCascadeEnumerate, opCascadeRoster] ||
  (both [opCreateQueue, opDisableQueue, opDestroyQueue] && ePs a == ePs b)

/-- Earlier admin entries that have not completed. -/
def earlierAdmin (s : State) (j : Job) : List Job :=
  s.queues.jobs.filter (fun k => k.q == 0 && decide (k.order < j.order))

/-- The admin entry with a count that is ready to execute as `op`; none while an earlier conflicting entry has not taken effect
(R244) or the power-fail sequence runs (R392). -/
def adminJob (s : State) (count : Word) (op : Nat) : Option Job :=
  match s.job? 0 count with
  | none => none
  | some j =>
    if j.phase != .ready || j.op != op || s.energy.pfSeq || (earlierAdmin s j).any (fun k => adminConflict k.bytes j.bytes)
    then none else some j

/-- An earlier entry with this opcode still runs (R301, R700). -/
def earlierRuns (s : State) (j : Job) (op : Nat) : Bool := (earlierAdmin s j).any (fun k => k.op == op)

/-- Complete with SC_OK after a committed change (R285, R288). -/
def finishSaved (s : State) (j : Job) (result : Nat) : State := finish s j { status := scOk, onMedia := true, result := result }

/-- Complete with SC_OK where nothing persistent changed (R288). -/
def finishOk (s : State) (j : Job) (result : Nat) : State := finish s j { status := scOk, result := result }

/-- The partition number is in use: a partition of this device, or a span (R628). -/
def State.partUsed (s : State) (p : Nat) : Bool := (tget s.parts p).isSome || (tget s.cas.spans p).isSome

/-! ## IDENTIFY (R289) -/

/-- Units of the usable capacity that no partition takes. -/
def State.freeUnits (s : State) : Nat := s.sys.usableUnits - s.allocUnits

/-- The device structure up to its last field (Table 9-8). -/
def State.identDevice (s : State) : List Byte :=
  let map := (List.range 32).foldl (fun a p => a + b2n (s.partUsed p) * 2 ^ p) 0
  let prof := (List.range 16).flatMap (fun c =>
    leBytes 4 (if s.media.chPresent.getLsbD c then pfId ((tget s.media.bound c).getD []) else 0))
  leBytes 4 (s.readReg 0x000) ++ leBytes 4 (s.readReg 0x004) ++ leBytes 4 s.regCap0 ++ leBytes 4 s.regCap1 ++ s.serial ++
  leBytes 8 s.bootNow.toNat ++ leBytes 8 ((s.liveLuns.map (fun l => pfBlocks (s.profOf l) * pfBblk (s.profOf l))).sum) ++
  leBytes 8 (s.sys.usableUnits * 4096) ++ leBytes 8 (s.freeUnits * 4096) ++ leBytes 4 maxXfer ++ leBytes 4 s.stageBytes ++
  leBytes 4 (if s.sys.fMax == 0 then 0 else s.sys.footInForce) ++ leBytes 2 4096 ++ leBytes 2 1024 ++ leBytes 2 8192 ++
  leBytes 2 1024 ++ leBytes 2 ((List.range 32).filter s.partUsed).length ++ leBytes 2 s.openStreams ++ leBytes 4 map ++
  leBytes 2 (if s.cas.enumerated then s.cas.memberId else 0xFFFF) ++ leBytes 2 s.width ++ prof ++ s.pubkey ++ leBytes 3 0 ++
  leBytes 4 (s.regMcVersion % 2 ^ 24)

/-- The partition structure (Table 9-8a). -/
def State.identPart (s : State) (p : Nat) (q : Part) : List Byte :=
  let feat := fun (n v : Nat) => leBytes n (if q.isStream then v else 0)
  leBytes 1 (b2n q.isStream) ++ leBytes 1 (b2n q.lbs4k + 2 * b2n q.xts + 4 * b2n (!q.holds.isEmpty)) ++ [q.tornFill, 0] ++
  leBytes 4 q.retainDays ++ leBytes 8 q.capUnits ++ leBytes 8 (s.usedUnits p) ++ leBytes 4 q.maxStream ++
  leBytes 4 (s.openIn p) ++ feat 4 q.feat.spanBytes ++ feat 4 q.feat.spanMs ++ feat 2 q.feat.capEvery ++
  leBytes 1 q.feat.ackPolicy ++ leBytes 21 0

/-- The partition structure of span `p` (Table 9-8a, R628): the Keystone holds its type, block size, capacity and streams. What only the
members hold (TORN_FILL, RETAIN_DAYS, USED_UNITS and the features, which are 0 in a block partition) the spec does not state for a span:
free values (log 32). -/
def State.identSpan (s : State) (p : Nat) (x : Span) : List Byte :=
  let free := fun (i n : Nat) => freeBytes (s.free + i) n
  let feat := fun (i n : Nat) => if x.isStream then free i n else List.replicate n 0
  leBytes 1 (b2n x.isStream) ++ leBytes 1 (b2n x.lbs4k + 8) ++ free 0 1 ++ [0] ++ free 1 4 ++ leBytes 8 x.units ++ free 5 8 ++
  leBytes 4 x.maxStream ++ leBytes 4 ((s.cas.spanHandles.filter (fun h => sPart h.2.1 == p)).map (·.2.1)).dedup.length ++
  feat 13 4 ++ feat 17 4 ++ feat 21 2 ++ free 23 1 ++ leBytes 21 0

/-- IDENTIFY: device, partition or certificate; zero beyond the structure (R289). -/
def execIdentify (count : Word) (bus : Bus) (s : State) : Host.Outcome State Fault Refusal :=
  match adminJob s count opIdentify with
  | none => .next s
  | some j =>
    let e := j.bytes
    let len := eLen e
    let cns := eAttr e % 4
    let body : Option (List Byte × Nat) :=
      if cns == 0 then some (s.identDevice, 4096)
      else if cns == 2 then some (s.cert, 256)
      else
        match tget s.parts (ePart e), tget s.cas.spans (ePart e) with
        | some q, _ => some (s.identPart (ePart e) q, 64)
        | none, some x => some (s.identSpan (ePart e) x, 64)
        | none, none => none
    match body with
    | none => .next (finishWith s j scOutOfRange)
    | some (b, size) =>
      if len == 0 || 4096 < len then .next (finishWith s j scOutOfRange)
      else
        let s0 := absorbBus { s with free := s.free + 24 } bus
        .next (if j.sglErr then finishBus s0 j
               else deliver s0 j (bytesAt b 0 len) len { status := scOk, result := size })

/-! ## ATTEST (R292) -/

/-- The 128-byte ATTEST buffer for a challenge (R292). -/
def State.attestation (s : State) (challenge : List Byte) : List Byte :=
  let b := bytesAt challenge 0 32 ++ s.serial ++ beBytes 8 s.bootNow.toNat ++ beBytes 8 s.gbl.tick.toNat
  b ++ beBytes 64 (ecdsaSign (Config.deviceScalar s.keyArea) (sha256 b)).toNat

/-- ATTEST: the challenge, signed with serial number, boot counter and tick (R292); signing wakes SEAL (R147). -/
def execAttest (count : Word) (bus : Bus) (s : State) : Host.Outcome State Fault Refusal :=
  match adminJob s count opAttest with
  | none => .next s
  | some j =>
    let s0 := absorbBus s bus
    if j.sglErr then .next (finishBus s0 j)
    else
      match gather s0 bus j.segs with
      | none => .next (finishBus s0 j)
      | some d => .next (deliver (wakeDomain s0 4) j (s0.attestation d) 128 { status := scOk, result := 128 })

/-! ## Queues (R195, R196, R198, R235 to R238) -/

/-- Two address ranges overlap. -/
def overlaps (a n b m : Nat) : Bool := decide (a < b + m) && decide (b < a + n)

/-- A range lies in shared memory: in the 48 MiB window in PHB mode (R195). -/
def inShared (s : State) (a n : Nat) : Bool := if s.phb then decide (a + n ≤ 0x3000000) else decide (a + n ≤ 2 ^ 64)

/-- Ring and shadow as R195 asks, against each other and against the queues other than `q`; an admin queue never placed has its
ring and shadow both at 0. -/
def placementOk (s : State) (q base bytes shadow : Nat) : Bool :=
  base % 4096 == 0 && shadow % 64 == 0 && inShared s base bytes && inShared s shadow 64 && !overlaps base bytes shadow 64 &&
  s.queues.qs.all (fun k => k.1 == q || k.1 == 4096 || (k.2.p.base == 0 && k.2.p.shadow == 0) ||
    (!overlaps base bytes k.2.p.base (64 * k.2.depth) && !overlaps base bytes k.2.p.shadow 64 &&
     !overlaps shadow 64 k.2.p.base (64 * k.2.depth) && !overlaps shadow 64 k.2.p.shadow 64))

/-- The parameters a CREATE_QUEUE entry carries (Table 9-6). -/
def queueParams (e : List Byte) : QParams :=
  let l := eLen e
  let a := eAttr e
  { base := eLba e, shadow := eTime e, depthLog2 := bitsOf l 3 0, cacheMode := bitOf l 4, crcReq := bitOf l 5
    faultHalt := bitOf l 6, irqEn := bitOf l 7, prefetch := bitsOf l 15 8, weight := bitsOf l 23 16, burst := bitsOf l 30 24
    vector := bitsOf a 9 0, coalCount := bitsOf a 17 10, coalTime := bitsOf a 25 18
    lengthWord := BitVec.ofNat 32 l, attrWord := BitVec.ofNat 32 a }

/-- The parameters lie in their ranges (Table 8-2). -/
def queueParamsOk (s : State) (p : QParams) : Bool :=
  4 ≤ p.depthLog2 && p.depthLog2 ≤ 12 && 1 ≤ p.weight && 1 ≤ p.burst && p.burst ≤ 64 && p.vector ≤ (if s.phb then 3 else 1023) &&
  1 ≤ p.coalCount && 1 ≤ p.coalTime

/-- A queue as CREATE_QUEUE leaves it: enabled, at count 0 (R196, R235). -/
def newQueue (p : QParams) : Queue := { resetAdmq with p := p, enabled := true }

/-- CREATE_QUEUE (R195, R198, R235, R286). -/
def execCreateQueue (count : Word) (s : State) : Host.Outcome State Fault Refusal :=
  match adminJob s count opCreateQueue with
  | none => .next s
  | some j =>
    let q := ePs j.bytes
    let p := queueParams j.bytes
    if q == 0 || 4095 < q || (tget s.queues.qs q).isSome || !queueParamsOk s p ||
        !placementOk s q p.base (64 * 2 ^ p.depthLog2) p.shadow then .next (finishWith s j scOutOfRange)
    else
      let s1 := writeShadow { s with queues := { s.queues with qs := tput s.queues.qs q (newQueue p) } } q
      .next (finishOk s1 j 0)

/-- Consume and complete with SC_QUEUE_DISABLED every armed slot from HEAD on (R236); answers how many, and whether the reclaiming is over:
it waits at a slot in flight and at the limit of consumed entries (R239, R264). -/
def reclaim (b : Bus) (q : Nat) : Nat → State → Nat → State × Nat × Bool
  | 0, s, n => (s, n, false)
  | fuel + 1, s, n =>
    match tget s.queues.qs q with
    | none => (s, n, true)
    | some k =>
      let slot := k.head.toNat % k.depth
      if slotInFlight s q k.depth slot || 8192 ≤ s.queues.jobs.length then (s, n, false)
      else
        match slotBytes s b k slot with
        | none => (queueFault s q 1 (k.slotAddr slot), n, true)
        | some e =>
          if eOwn e != 0x80 then (s, n, true)
          else
            let s1 := modQueue s q (fun k => { k with
              head := k.head + 1, shadowDue := true, newestTag := some (BitVec.ofNat 64 (eTag e))
              cache := k.cache.filter (fun c => c.slot != slot) })
            let j := newJob s1 q k.head e
            reclaim b q fuel (complete (addJob s1 j) j { status := scQueueDisabled }) (n + 1)

/-- DISABLE_QUEUE: STOP, or RECLAIM (R236). A reclaiming that waits leaves the entry ready, with its place marked and the count so far; the
command goes on with it when it is given again (R264, log 15). -/
def execDisableQueue (count : Word) (bus : Bus) (s : State) : Host.Outcome State Fault Refusal :=
  match adminJob s count opDisableQueue with
  | none => .next s
  | some j =>
    let q := ePs j.bytes
    if q == 0 || 4095 < q then .next (finishWith s j scOutOfRange)
    else
      match tget s.queues.qs q with
      | none => .next (finishWith s j scOutOfRange)
      | some k =>
        if !k.enabled && j.mark == 0 then .next (finishOk s j 0)
        else
          let s0 := absorbBus s bus
          let s1 := if j.mark == 0 then disableQueue s0 q else s0
          if bitOf (eAttr j.bytes) 0 then
            let r := reclaim bus q (k.depth + 1) s1 j.result
            .next (if r.2.2 then finishOk r.1 j r.2.1 else settle (setJob r.1 { j with mark := 1, result := r.2.1 }))
          else .next (finishOk s1 j 0)

/-- DESTROY_QUEUE: an idle queue is removed (R238). -/
def execDestroyQueue (count : Word) (s : State) : Host.Outcome State Fault Refusal :=
  match adminJob s count opDestroyQueue with
  | none => .next s
  | some j =>
    let q := ePs j.bytes
    if q == 0 || 4095 < q || (tget s.queues.qs q).isNone then .next (finishWith s j scOutOfRange)
    else if !s.qIdle q then .next (finishWith s j scNotReady)
    else .next (finishOk { s with queues := { s.queues with qs := tdel s.queues.qs q } } j 0)

/-- QUERY_QUEUE (Table 9-5). -/
def execQueryQueue (count : Word) (s : State) : Host.Outcome State Fault Refusal :=
  match adminJob s count opQueryQueue with
  | none => .next s
  | some j =>
    let q := ePs j.bytes
    match (if 4095 < q then none else tget s.queues.qs q) with
    | none => .next (finishWith s j scOutOfRange)
    | some k =>
      .next (finish s j { status := scOk, result := k.p.lengthWord.toNat + k.p.attrWord.toNat * 2 ^ 32
                          cr0 := k.head.toNat + k.done.toNat * 2 ^ 32
                          cr1 := s.regQstat q + s.inflight q * 2 ^ 32 })

/-! ## SET_TIME, GET_LOG (R290, R293) -/

/-- SET_TIME: the estimate was set at its consumption; expiry is evaluated (R293, R364). -/
def execSetTime (count : Word) (s : State) : Host.Outcome State Fault Refusal :=
  match adminJob s count opSetTime with
  | none => .next s
  | some j => .next (finishOk (if s.mayRelease then releaseExpired s else s) j j.result)

/-- GET_LOG: bytes of a log page (R290). -/
def execGetLog (count : Word) (bus : Bus) (s : State) : Host.Outcome State Fault Refusal :=
  match adminJob s count opGetLog with
  | none => .next s
  | some j =>
    let e := j.bytes
    let page := eAttr e
    let b := s.logPage page (ePart e)
    if eLen e == 0 || maxXfer < eLen e || b.length ≤ eLba e || ((page == 3 || page == 4) && (tget s.parts (ePart e)).isNone)
    then .next (finishWith s j scOutOfRange)
    else
      let s0 := notePage (absorbBus s bus) page (ePart e)
      let d := (b.drop (eLba e)).take (eLen e)
      .next (if j.sglErr then finishBus s0 j
             else deliver s0 j d d.length { status := scOk, result := d.length, cr0 := b.length, cr1 := s0.pageGen page (ePart e) })

/-! ## Features (R291, Table 9-10) -/

/-- The value of a feature; none where its partition is absent or of another type. -/
def State.feature (s : State) (id p : Nat) : Option Nat :=
  if id == 5 then some s.sys.gcShare
  else if id == 6 then some (if s.sys.fMax == 0 then 0 else s.sys.footingMib)
  else if id == 7 then some s.sys.calDelta
  else
    match tget s.parts p with
    | none => none
    | some q =>
      if id == 4 then some q.feat.ackPolicy
      else if !q.isStream then none
      else if id == 1 then some q.feat.spanBytes
      else if id == 2 then some q.feat.spanMs
      else some q.feat.capEvery

/-- A value in a feature's range. -/
def featureOk (id v : Nat) : Bool :=
  if id == 1 then 65536 ≤ v && v ≤ 16777216 && (List.range 25).any (fun k => v == 2 ^ k)
  else if id == 2 then 100 ≤ v && v ≤ 60000
  else if id == 3 then 1 ≤ v && v ≤ 1000
  else if id == 4 then v ≤ 1
  else if id == 5 then 32 ≤ v && v ≤ 128
  else if id == 6 then 256 ≤ v && v ≤ 16384
  else 1 ≤ v && v ≤ 255

/-- Set a feature. -/
def putFeature (s : State) (id p v : Nat) : State :=
  if id == 5 then { s with sys := { s.sys with gcShare := v } }
  else if id == 6 then { s with sys := { s.sys with footingMib := v } }
  else if id == 7 then noteGen { s with sys := { s.sys with calDelta := v } } 7
  else { s with parts := tmod s.parts p (fun q => { q with feat :=
    if id == 1 then { q.feat with spanBytes := v }
    else if id == 2 then { q.feat with spanMs := v }
    else if id == 3 then { q.feat with capEvery := v }
    else { q.feat with ackPolicy := v } }) }

/-- The device does not write to foreign media (R320): a command that would change their catalogue is denied (DESIGN CHOICE, log 10). -/
def State.foreignPart (s : State) : Bool := s.media.foreign

/-- SET_FEATURE (R291). -/
def execSetFeature (count : Word) (s : State) : Host.Outcome State Fault Refusal :=
  match adminJob s count opSetFeature with
  | none => .next s
  | some j =>
    let id := eAttr j.bytes
    let v := eLba j.bytes
    if partFeature id && s.foreignPart then .next (finishWith s j scAccessDenied)
    else if id == 6 && s.sys.fMax == 0 then .next (finishWith s j scNoSpace)
    else
      match s.feature id (ePart j.bytes) with
      | none => .next (finishWith s j scOutOfRange)
      | some old =>
        if !featureOk id v then .next (finishWith s j scOutOfRange)
        else if id == 6 && s.sys.fMax < v then .next (finishWith s j scNoSpace)
        else .next (finishSaved (putFeature s id (ePart j.bytes) v) j old)

/-- GET_FEATURE (R291). -/
def execGetFeature (count : Word) (s : State) : Host.Outcome State Fault Refusal :=
  match adminJob s count opGetFeature with
  | none => .next s
  | some j =>
    match s.feature (eAttr j.bytes) (ePart j.bytes) with
    | none => .next (finishWith s j scOutOfRange)
    | some v => .next (finishOk s j v)

end Sys2Proof.Machine
end

