-- ==== Sys2Proof/Machine/Media.lean ====
section
/-! DEFINITION. Media management as commands: status polls, resumes, garbage collection, wear levelling, refresh, the fold, die
relocation, erases, Plinths, the 10 ms Overdrive period and the health page (chapters 14, 15, 21). -/

namespace Sys2Proof.Machine

/-- Background work runs: recovery is over, the media are the device's own, and power has not failed (R391, R431). -/
def State.background (s : State) : Bool :=
  s.gbl.coreOn && s.gbl.recovered && !s.gbl.failed && s.sys.present && !s.media.foreign && !s.energy.pfSeq

/-- Background programs run: not in catch-up, where acknowledged writes come before every other program (R388), nor in the protective
step, where only acknowledged data is programmed (Table 4-6). -/
def State.mayMove (s : State) : Bool := s.background && !s.energy.catchUp && decide (s.gbl.thermStep.val < 4)

/-- From thermal step 3 on garbage collection stays within GC_SHARE of the last 500 ms (R462, R493, Table 4-6). -/
def State.gcShareOk (s : State) : Bool := decide (s.gbl.thermStep.val < 3) || decide (s.media.pace.gcShareNow ≤ s.sys.gcShare)

/-- FLASH_STATUS_POLL: a LUN's status is read; what has finished takes effect, and whatever follows from it (R37, R395, R458,
R467, R468, R500). -/
def execFlashStatusPoll (lun : LunId) (answer : PollAnswer) (s : State) : Host.Outcome State Fault Refusal :=
  let k := lunKey lun
  if !s.gbl.coreOn || s.energy.parked || !s.liveLuns.contains k then .next s
  else .next (settle (pollLun s k answer))

/-- FLASH_RESUME: the reads waiting on a LUN are served, so its suspended operation goes on; FAIL = 1 in answer is a fault status
(R477, R501, R523). In the power-fail sequence a suspended erase is never resumed (R391, R521). -/
def execFlashResume (lun : LunId) (fail : Bool) (s : State) : Host.Outcome State Fault Refusal :=
  let k := lunKey lun
  match tget s.media.luns k with
  | none => .next s
  | some l =>
    let erase := match l.op with | .erase _ => true | _ => false
    if !s.gbl.coreOn || !l.suspended || l.failed || (s.energy.pfSeq && erase) then .next s
    else
      let s1 := modLun s k (fun l => { l with suspended := false, waiting := 0, since := s.gbl.tick })
      .next (if fail then settle (faultStatus s1 k (opBlock s1 k l.op)) else s1)

/-! ## Moves (R461 to R466) -/

/-- Valid bytes of a Course and the bytes its programmed data pages hold. -/
def courseFill (s : State) (c : Course) : Nat × Nat :=
  (((courseValid s c).map (refSize s)).sum,
   (c.pages.filter (fun g => g.1 != c.mortar)).length * minOf (s.profs.map pfUnit))

/-- The victim of R461: the closed HOT or RELOC Course with the least v ÷ (1 − v) ÷ age among those with v below 1. -/
def gcVictim (s : State) : Option (Nat × Nat) :=
  (s.media.courses.foldl (fun (best : Option (Nat × Nat × Rat)) c =>
    let f := courseFill s c.2
    if c.2.isOpen || !(c.2.role == .hot || c.2.role == .reloc) || f.2 ≤ f.1 then best
    else
      let age := max 1 (s.gbl.tick - c.2.closedAt).toNat
      let score : Rat := (f.1 : Rat) / ((f.2 - f.1 : Nat) : Rat) / (age : Rat)
      match best with
      | some (_, _, b) => if score < b then some (c.1, 1000 * f.1 / f.2, score) else best
      | none => some (c.1, 1000 * f.1 / f.2, score)) none).map (fun x => (x.1, x.2.1))

/-- Erase the freed blocks among those given, back into the Quarry, where the thermal step lets their channel erase (R112, R470). -/
def eraseBlocks (s : State) (ks : List Nat) : State :=
  ks.foldl (fun s k => if s.blkUse k == .freed && chFree s (keyCh (blkLun k)) then erased s k else s) s

/-- Keep the valid share of a victim, the newest 64 of them. -/
def noteVictim (s : State) (v : Nat) : State :=
  modMedia s (fun m => { m with pace := { m.pace with victims := (v :: m.pace.victims).take 64 } })

/-- GC_RECLAIM: below Q_LOW a victim's valid data moves to RELOC, and its blocks are erased into the Quarry (R38, R461, R465). -/
def execGcReclaim (s : State) : Host.Outcome State Fault Refusal :=
  if !s.mayMove || !s.gcShareOk || s.qLow ≤ s.quarry then .next s
  else
    match gcVictim s with
    | none => .next s
    | some (id, v) =>
      let blocks := ((tget s.media.courses id).map (·.blocks)).getD []
      match emptyCourse s id with
      | none => .next s
      | some s1 =>
        .next (noteVictim (eraseBlocks s1 blocks) v)

/-- The Quarry block of a LUN with the highest erase count (R464). -/
def wornBlock (s : State) (l : Nat) : Option Nat :=
  match (s.media.blocks.filter (fun b => blkLun b.1 == l && b.2.use == .quarry)).foldl (fun (a : Option (Nat × Nat)) b =>
      match a with
      | some x => if x.2 < b.2.erases then some (b.1, b.2.erases) else a
      | none => some (b.1, b.2.erases)) none with
  | some x => if s.media.rubbleLuns.contains l then none else some x.1
  | none => quarryBlock s l

/-- Have an open RELOC Course of a class stand on worn blocks. -/
def wornCourse (s : State) (cold : Bool) : State :=
  if s.media.courses.any (fun c => takesMoved s cold c.1 c.2) || s.nOpen ≤ s.openCourses || s.nOpen ≤ 2 then s
  else
    let blocks := ((spreadLuns s).filterMap (wornBlock s)).take s.width
    if blocks.length < s.width || s.width < 2 then s
    else formCourse s .reloc blocks (s.media.nextCourse % s.width) false

/-- Mean erase count of a Course, in 1/1,000. -/
def courseWear (s : State) (c : Course) : Nat := 1000 * (c.blocks.map s.blkErases).sum / max 1 c.blocks.length

/-- The erase counts spread by more than E ÷ 16 (R464). A block not listed counts 0. -/
def wearSpread (s : State) : Bool :=
  let good := s.media.blocks.filter (fun b => b.2.use != .rubble && s.liveLuns.contains (blkLun b.1))
  let hi := maxOf (good.map (·.2.erases))
  let all := (s.liveLuns.map (fun l => pfBlocks (s.profOf l))).sum
  let lo := if good.length < all then 0 else minOf (good.map (·.2.erases))
  decide (minOf (s.profs.map pfEndurance) < 16 * (hi - lo))

/-- The closed Course with the lowest mean erase count, outside the Footing, with that count. -/
def leastWorn (s : State) : Option (Nat × Nat) :=
  (s.media.courses.filter (fun c => !c.2.isOpen && c.2.role != .footing)).foldl (fun (a : Option (Nat × Nat)) c =>
    match a with
    | some x => if courseWear s c.2 < x.2 then some (c.1, courseWear s c.2) else a
    | none => some (c.1, courseWear s c.2)) none

/-- Worn blocks stand ready for the valid data of a Course, by its class. -/
def openWorn (s : State) (id : Nat) : State :=
  let valid := ((tget s.media.courses id).map (courseValid s)).getD []
  let s1 := if valid.any refCold then wornCourse s true else s
  if valid.any (fun r => !refCold r) then wornCourse s1 false else s1

/-- WEAR_LEVEL: the data of the closed Course with the lowest mean erase count moves to worn blocks (R464, R465). -/
def execWearLevel (s : State) : Host.Outcome State Fault Refusal :=
  if !s.mayMove || !wearSpread s then .next s
  else
    match leastWorn s with
    | none => .next s
    | some (id, _) => .next ((emptyCourse (openWorn s id) id).getD s)

/-- The Course and member a block serves. -/
def blockOwner (s : State) (k : Nat) : Option (Nat × Nat) :=
  s.media.courses.findSome? (fun c => (c.2.blocks.findIdx? (· == k)).map (fun m => (c.1, m)))

/-- REFRESH: a block that read disturb, 3-bit soft decoding or retention calls for has its valid data moved to RELOC (R465, R466).
The arrival of the command is the retention case; the block awaits its erase afterwards. -/
def execRefresh (lun : LunId) (block : BitVec 20) (_soft3 : Bool) (s : State) : Host.Outcome State Fault Refusal :=
  let k := blkKey (lunKey lun) block.toNat
  if !s.mayMove || s.blkUse k != .course then .next s
  else
    match blockOwner s k with
    | none => .next s
    | some (id, m) => .next (settle (freeEmpty (retireBlock s id m false)))

/-- FOOTING_FOLD: SLC data in absorbed Footing blocks moves, records unchanged, into blocks programmed in their normal mode (R463, R465). -/
def execFootingFold (s : State) : Host.Outcome State Fault Refusal :=
  if !s.mayMove || !s.gbl.fullService then .next s
  else
    match s.media.courses.find? (fun c => c.2.role == .cold && !c.2.isOpen && c.2.groups.all (· == 1) && 1 < maxOf (s.profs.map pfBits)) with
    | none => .next s
    | some (id, _) => .next ((emptyCourse s id).getD s)

/-- A Course takes its place in a list ordered newest written first: open Courses, then by the tick they closed at, and the later
formed first among equals. -/
def insertNewest (c : Nat × Course) : List (Nat × Course) → List (Nat × Course)
  | [] => [c]
  | x :: xs =>
    if !x.2.isOpen && decide (x.2.closedAt ≤ c.2.closedAt) || c.2.isOpen then c :: x :: xs else x :: insertNewest c xs

/-- The Courses in the order in which they were last written, newest first (R458). -/
def newestFirst (cs : Tbl Course) : List (Nat × Course) := cs.foldl (fun l c => insertNewest c l) []

/-- DIE_RELOCATE: the valid units of a failed die are rebuilt into RELOC; DEG_DIE clears when that commits. What cannot be rebuilt keeps
its mapping (R458, R460, R488). -/
def execDieRelocate (s : State) : Host.Outcome State Fault Refusal :=
  match s.media.relocating with
  | [] => .next s
  | l :: rest =>
    if !s.mayMove then .next s
    else
      let onDie := fun (i : Nat) (c : Course) (g : Nat × Nat × List Ref) =>
        (c.blocks[g.1]?).map blkLun == some l && rowRebuilds s i g.1 g.2.1
      let refs := (newestFirst s.media.courses).flatMap (fun c => (c.2.pages.filter (onDie c.1 c.2)).flatMap (fun g => g.2.2))
      match placeMoved s (refs.filter (refValid s)) with
      | none => .next s
      | some s1 => .next (refresh (freeEmpty (modMedia s1 (fun m => { m with
          relocating := rest
          courses := tmap m.courses (fun i c => { c with pages := c.pages.filter (fun g => !onDie i c g) }) }))))

/-- The freed blocks on LUNs in service that no erase runs on. -/
def freedBlocks (s : State) : List Nat :=
  (s.media.blocks.filter (fun b => b.2.use == .freed && s.liveLuns.contains (blkLun b.1) &&
    !s.media.rubbleLuns.contains (blkLun b.1) &&
    !s.media.luns.any (fun l => match l.2.op with | .erase x => blkKey l.1 x == b.1 | _ => false))).map (·.1)

/-- BLOCK_ERASE: a freed block is erased before it enters the Quarry (R38, R470). -/
def execBlockErase (s : State) : Host.Outcome State Fault Refusal :=
  if !s.background then .next s
  else .next (eraseBlocks (freeEmpty s) ((freedBlocks (freeEmpty s)).take 1))

/-! ## Plinths and the health page -/

/-- The health page is committed (R690, R705). -/
def commitHealth (s : State) : State :=
  { s with log := bumpGen { s.log with saved := s.log.health, page := s.healthPage } 2 }

/-- Unmapped versions in the stage become committed with a Plinth (R37, R337). -/
def commitUnmapped (s : State) : State :=
  (s.stage.writes.flatMap (fun w => w.pieces.filterMap (fun p => match p.1 with
    | .unit u false _ => if p.2 then none else some (Ref.unit w.part u w.order)
    | _ => none))).foldl commitRef s

/-- A Plinth is written: it records the map, so unmapped units are committed with it, and the count of R41 starts anew (R41, R432). -/
def writePlinth (s : State) : State :=
  let s1 := flushLeaves (commitUnmapped s)
  commitHealth { s1 with parts := tmap s1.parts (fun _ p => { p with receiptSincePlinth := false }) }

/-- PLINTH_WRITE (R432, R690). -/
def execPlinthWrite (s : State) : Host.Outcome State Fault Refusal :=
  if s.mayMove then .next (settle (writePlinth s)) else .next s

/-- HEALTH_COMMIT: the health page is committed at least every 60 s (R690). -/
def execHealthCommit (s : State) : Host.Outcome State Fault Refusal :=
  if s.gbl.coreOn && s.sys.t6 && !s.media.foreign && !s.energy.pfSeq && !s.gbl.failed then .next (commitHealth s) else .next s

/-! ## Overdrive (R475 to R480) -/

/-- Megabytes per second of the host interface (R475): per-lane rate after encoding, ×1,000 Mb/s, for generations 1 to 4. -/
def laneRate (gen : Nat) : Rat :=
  if gen == 1 then 2 else if gen == 2 then 4 else if gen == 3 then 8 * 128 / 130 else if gen == 4 then 16 * 128 / 130 else 0

/-- r_if of R475 in MB/s. -/
def State.rIf (s : State) : Rat :=
  let base : Rat := if s.phb then 3200 else 6400 * (s.pcie.lanes.val : Rat) / 4 * laneRate s.pcie.gen.val / laneRate 4
  if 4 ≤ s.gbl.thermStep.val then 0 else if s.gbl.thermStep.val == 3 then 400 else base

/-- p_media of R475 in MB/s. -/
def State.pMedia (s : State) : Rat :=
  let t := maxOf (s.profs.map pfTProg)
  if t == 0 || s.width == 0 then 0
  else (s.nProg : Rat) * (minOf (s.profs.map pfUnit) : Rat) / (t : Rat) * ((s.width - 1 : Nat) : Rat) / (s.width : Rat)

/-- Insert the state of the episode running or ended into the history (R480). -/
def overHistory (s : State) (o : Over) (was now : Bool) : Over :=
  if !was && now then
    { o with episodes := o.episodes + 1, history := ((s.gbl.tick.toNat, 0xFFFFFFFF, o.sustain) :: o.history).take 64 }
  else if !was then o
  else
    let o1 := { o with totalMs := o.totalMs + 10 }
    match o1.history with
    | (t, d, m) :: r => if now then { o1 with history := (t, d, min m o.sustain) :: r } else endEpisode o1 s.gbl.tick.toNat
    | [] => o1

/-- OVERDRIVE_PERIOD: a 10 ms period ends. `waited`: for all of it an armed write waited for stage or Quarry room; `bgBytes`,
`gcShare`: background bytes and garbage-collection share over the last 500 ms (R475 to R480, R19). -/
def execOverdrivePeriod (waited : Bool) (bgBytes gcShare : Nat) (s : State) : Host.Outcome State Fault Refusal :=
  if !s.gbl.coreOn || !s.media.probed || s.energy.pfSeq then .next s
  else
    let o := s.media.pace
    let ps := ((o.nowAll, o.nowBlock) :: o.periods).take 50
    let all := (ps.map (·.1)).sum
    let h : Rat := if all == 0 then 0 else ((ps.map (·.2)).sum : Rat) / (all : Rat)
    let v : Rat := if o.victims.isEmpty then 0 else (o.victims.sum : Rat) / (1000 * (o.victims.length : Rat))
    let wa : Rat := if v == 1 then 0 else 1 + h * v / (1 - v)
    let rBg : Rat := (bgBytes : Rat) * 2 / 1000000
    let sus : Rat := if v == 1 then 0 else min s.rIf (max 0 ((s.pMedia - rBg) / wa))
    let pressed := decide (sus < (o.nowAll : Rat) * 100 / 1000000) || waited
    let admitted : Rat := (all : Rat) * 2 / 1000000
    let q := s.quarry
    let head : Nat :=
      if q ≤ s.qFloor then 0
      else if admitted ≤ sus then 0xFFFFFFFF
      else if wa == 0 then 0
      else satTo 0xFFFFFFFF (1000 * ((q - s.qFloor) * s.bblk : Nat) * ((s.width - 1 : Nat) : Rat) / (s.width : Rat) /
        (wa * (admitted - sus) * 1000000)).floor.toNat
    let up := if pressed then o.pressed + 1 else 0
    let down := if pressed then 0 else o.unpressed + 1
    let may := s.gbl.state == .operational || s.gbl.state == .degraded
    let now := if s.gbl.overdrive then decide (down < 50) else decide (50 ≤ up) && may
    let o1 : Over := { o with
      sustain := sus.floor.toNat, headroom := head, periods := ps, nowAll := 0, nowBlock := 0, pressed := up
      unpressed := down, waMilli := (wa * 1000).floor.toNat, gcShareNow := gcShare }
    let o2 := overHistory s o1 s.gbl.overdrive now
    let s1 : State := { s with
      media := { s.media with pace := o2 }
      gbl := { s.gbl with overdrive := now }
      log := bumpGen { s.log with health := { s.log.health with
        overdriveMs := sat64 (s.log.health.overdriveMs + (if s.gbl.overdrive then 10 else 0)) } } 6 }
    .next (if now = s.gbl.overdrive then s1 else setIrq s1 irqOverdrive)

end Sys2Proof.Machine
end

