-- ==== Sys2Proof/Machine/Recovery.lean ====
section
/-! DEFINITION. Recovery: the replay of open streams, the reports of a power failure, RECOVERED, and the adoption of foreign media
(R41 to R48, R321, R356 to R361, R367, R397, R431). -/

namespace Sys2Proof.Machine

/-! ## Replay of one stream (R43 to R47, R361) -/

/-- A record that was written and not committed, as it fell due. -/
def dueOf (r : Rec) : List DueRec :=
  let b := r.bytes
  if r.kind == 1 then
    [.ashlar (fieldAt b 2 2) (fieldAt b 8 8) (fieldAt b 16 8) (fieldAt b 24 4) (fieldAt b 28 4) (fieldAt b 32 8) (fieldAt b 40 8)
      (fieldAt b 48 8) (fieldAt b 56 8)]
  else if r.kind == 2 then [.capstone (fieldAt b 2 2) (fieldAt b 8 8) (fieldAt b 176 8)]
  else []

/-- Write a record of replay and commit it; `ad`: on adopted media. -/
def freshRec (s : State) (key : Nat) (ad : Bool) (t : Strm) (seq : Nat) (d : DueRec) : Strm :=
  let t1 := if ad && t.adoptFrom.isNone then { t with adoptFrom := some seq } else t
  { t1 with recs := t1.recs ++ [{ t1.settle s key d with committed := true }], maxSeq := max t1.maxSeq seq }

/-- The KIND of a due record. -/
def DueRec.kind : DueRec → Nat
  | .ashlar .. => 1
  | .capstone .. => 2
  | .fracture .. => 3

/-- The next record of replay: the one an interrupted replay committed in its place is kept, else it is written (R68). -/
def replayRec (s : State) (key : Nat) (ad : Bool) (t : Strm) (seq : Nat) (d : DueRec) : Strm :=
  match t.earlier with
  | r :: rest =>
    if r.kind == d.kind then { t with recs := t.recs ++ [r], earlier := rest, maxSeq := max t.maxSeq r.seq }
    else freshRec s key ad t seq d
  | [] => freshRec s key ad t seq d

/-- Flags without those of a close that did not happen (Table 9-3). -/
def dropFlag (f bit : Nat) : Nat := if bitOf f bit then f - 2 ^ bit else f

/-- HOST_TIME of the last append with bytes before `c`. -/
def hostBefore (t : Strm) (c : Nat) : Nat := ((t.times.find? (fun x => decide (x.1 < c))).map (·.2)).getD 0

/-- A Capstone of replay. -/
def replayCap (s : State) (key : Nat) (ad : Bool) (t : Strm) (flags seq host : Nat) : Strm :=
  (replayRec s key ad t seq (.capstone (flags + cfReplayed + (if ad then cfAdopted else 0)) seq host)).newCount seq (s.featOf key).capEvery

/-- An Ashlar that replay ends at the committed end `c`, with the Capstone its cadence makes due (R43, R357). -/
def replayCut (s : State) (key : Nat) (ad : Bool) (c : Nat) (t : Strm) (seq first : Nat) (foot : Bool) : Strm :=
  let flags := afReplayed + (if foot then afFooting else 0) + (if ad then afAdopted else 0)
  let t1 := replayRec s key ad t seq
    (.ashlar flags seq first (c - first) 0 s.bootNow.toNat s.gbl.tick.toNat 0 (hostBefore t c))
  if t1.capEvery ≤ t1.cadence + 1 then replayCap s key ad t1 cfCadence (seq + 1) 0
  else { t1 with cadence := t1.cadence + 1 }

/-- The REPLAYED records up to the committed end `c`, with the span boundaries and numbers of before the loss (R43, R356). -/
def replayItems (s : State) (key : Nat) (ad : Bool) (c : Nat) (run : Option Running) : List DueRec → Strm → Strm
  | [], t =>
    match run with
    | some r => if r.first < c then replayCut s key ad c t r.seq r.first r.footing else t
    | none => t
  | .ashlar f q first len mark boot tick utc host :: rest, t =>
    if c ≤ first then t
    else if first + len ≤ c then
      let closed := bitOf f 3
      let flags := dropFlag (dropFlag f 0) 3 + afReplayed + (if ad && !bitOf f 6 then afAdopted else 0)
      let t1 := replayRec s key ad t q (.ashlar flags q first len mark boot tick utc (if closed then hostBefore t c else host))
      replayItems s key ad c run rest { t1 with cadence := t1.cadence + 1 }
    else replayCut s key ad c t q first (bitOf f 5)
  | .capstone f q h :: rest, t =>
    let flags := dropFlag (dropFlag (dropFlag (dropFlag f 0) 6) 4) 2
    if flags == 0 || (t.newest.map (fun r => r.seq + 1)) != some q then t
    else replayItems s key ad c run rest (replayCap s key ad t flags q h)
  | .fracture .. :: _, t => t

/-- What the last-gasp summary of the loss says of a stream: highest assigned offset, highest acknowledged offset, highest number. A
summary lists every stream open at its loss, so one that it does not list was lost without a summary (R44, R68, R393). -/
def State.summaryOf (s : State) (key : Nat) : Option (Nat × Nat × Nat) :=
  s.energy.summary.bind (fun x => (x.streams.find? (fun e => e.1 == key)).map (·.2))

/-- The records of a stream found committed on flash, without what an interrupted replay added. -/
def Strm.kept (t : Strm) : List Rec := t.recs.filter (fun r => r.committed || r.kind == 4)

/-- After the REPLAYED records: the Fracture that an interrupted replay committed is kept, and its Capstone written where it is
missing (R47, R375). -/
def keepFracture (s : State) (key : Nat) (ad : Bool) (t : Strm) (f : Rec) : Strm :=
  let lo := fieldAt f.bytes 16 8
  let n := fieldAt f.bytes 24 8
  let t1 := { t with recs := t.recs ++ t.earlier, earlier := [], endOff := lo + n, gaps := t.gaps ++ [(lo, n)]
                     maxSeq := t.earlier.foldl (fun m r => max m r.seq) t.maxSeq }
  if (t.earlier.getLast?.map (·.kind)) == some 3 then replayCap s key ad t1 cfFracture (f.seq + 1) 0
  else t1.newCount (f.seq + 1) (s.featOf key).capEvery

/-- Replay of one stream: REPLAYED Ashlars to the committed end, then a Fracture and its Capstone where the discarded range is
not empty, or cannot be shown to be (R43, R44, R45, R361). -/
def replayStream (s : State) (ad : Bool) (key : Nat) (t0 : Strm) : Strm :=
  let kept := t0.kept
  let items := (t0.recs.filter (fun r => !r.committed && r.kind != 4)).flatMap dueOf ++ t0.due
  let tk : Strm := { t0 with recs := kept ++ t0.earlier }
  let newest0 := (tk.newest.map (·.seq)).getD 0
  let every := (((t0.capHist.filter (fun x => x.1 == 0 || kept.any (fun r => r.kind == 2 && r.seq == x.1))).getLast?).map (·.2)).getD t0.capEvery
  let since := kept.foldl (fun n r => if r.kind == 2 then 0 else if r.kind == 1 then n + 1 else n) 0
  let c := t0.commEnd
  let t1 := replayItems s key ad c t0.running items
    { t0 with recs := kept, due := [], running := none, cadence := since, capEvery := every, maxSeq := newest0
              adoptFrom := if ad then none else t0.adoptFrom }
  let found := t1.earlier.find? (fun r => r.kind == 3)
  let newest := (t1.newest.map (·.seq)).getD 0
  let x := match s.summaryOf key with
    | some (a, k, q) => (a - c, decide (c < k), q, k, false)
    | none => (t0.lostCap, true, newest0 + 4096, 0, true)
  let t2 :=
    match found with
    | some f => keepFracture s key ad t1 f
    | none =>
    if x.1 == 0 then { t1 with endOff := c }
    else
      let seq := max x.2.2.1 newest + 1
      let flags := b2n x.2.1 + 2 * b2n x.2.2.2.2 + 4 * b2n s.sys.replayRepeat
      let f := replayRec s key ad t1 seq (.fracture flags seq c x.1 s.bootNow.toNat s.gbl.tick.toNat
        (utcAt s.streams.utc s.gbl.tick.toNat) t0.lostBoot (seq - newest - 1) x.2.2.2.1)
      { replayCap s key ad f cfFracture (seq + 1) 0 with endOff := c + x.1, gaps := f.gaps ++ [(c, x.1)] }
  { t2 with commEnd := t2.endOff, ackEnd := t2.endOff, data := t2.data.filter (fun b => decide (b.1 < c))
            times := t2.times.filter (fun b => decide (b.1 < c)), replay := false, handle := none, earlier := [] }

/-- The Fracture of the loss, if there is one: the last two records are then a Fracture and its Capstone. -/
def newFracture (old new : Strm) : Option (List Byte) :=
  if new.gaps.length == old.gaps.length then none
  else ((new.recs.filter (fun r => r.kind == 3)).getLast?).map (·.bytes)

/-- FRACTURE entry (Table 21-3). -/
def logFractureRec (s : State) (key : Nat) (b : List Byte) : State :=
  logEvent s logFracture [(0, 1, sPart key), (2, 2, sNum key), (4, 2, fieldAt b 2 2), (8, 8, fieldAt b 16 8), (16, 8, fieldAt b 24 8),
    (24, 8, fieldAt b 8 8)]

/-- Replay every stream that was open at the loss, in ascending partition and number; `log`: write the FRACTURE entries (R431). -/
def replayAll (s0 : State) (ad log : Bool) : State :=
  (s0.streams.tbl.filter (fun x => x.2.replay)).foldl (fun s x =>
    let t := replayStream s ad x.1 x.2
    let s1 := setStream s x.1 t
    match newFracture x.2 t with
    | none => s1
    | some b =>
      let s2 := if x.2.earlier.any (fun r => r.kind == 3) then s1
        else { s1 with media := { s1.media with fractures := s1.media.fractures ++ [(sPart x.1, b)] } }
      if log then logFractureRec s2 x.1 b else s2)
    { s0 with media := { s0.media with fractures := [] } }

/-- ADOPT_MEDIA is under way, so that a replay of foreign media runs (R321, R348). -/
def State.adopting (s : State) : Bool :=
  s.media.foreign && s.gbl.fullService && s.prot.policy.getLsbD 9 && s.queues.jobs.any (fun j => j.q == 0 && j.phase == .ready && j.op == opAdoptMedia)

/-- The records of a stream that a replay cut short has committed: at least those of an earlier one; how many is the free value `w`. -/
def cutShort (s : State) (w : Nat) (key : Nat) (t : Strm) : Strm :=
  let new := (replayStream s s.media.foreign key t).recs.drop t.kept.length
  { t with earlier := new.take (t.earlier.length + w % (new.length - t.earlier.length + 1)) }

/-- The streams after a replay cut short, and the free values used. -/
def cutStreams (s : State) : Tbl Strm × Nat :=
  if !s.sys.t6 || s.gbl.failed || (if s.media.foreign then !s.adopting else s.gbl.recovered) then (s.streams.tbl, s.free)
  else s.streams.tbl.foldl (fun a x =>
    if x.2.replay then (a.1 ++ [(x.1, cutShort s (Config.freeWord a.2).toNat x.1 x.2)], a.2 + 1) else (a.1 ++ [x], a.2)) ([], s.free)

/-- A reset during recovery, or during an adoption, cuts the replay short (R68, R348): of each stream, some of the records that replay would
have written are committed; how many is a free value (log 2). The entries of step 5 of R431 are not, as they are committed with the Plinth (log 25). -/
def replayPartly (s : State) : State :=
  { s with streams := { s.streams with tbl := (cutStreams s).1 }, free := (cutStreams s).2 }

/-! ## Reports of the failure (R41, R397, R548) -/

/-- Insert an extent into a list ordered by partition and first block. -/
def insExtent (x : Nat × Nat × Nat) : List (Nat × Nat × Nat) → List (Nat × Nat × Nat)
  | [] => [x]
  | y :: r => if x.1 < y.1 || (x.1 == y.1 && x.2.1 ≤ y.2.1) then x :: y :: r else y :: insExtent x r

/-- The runs of a list of extents in rising order, the first of which is joined to `x` as far as they meet. -/
def mergeFrom (x : Nat × Nat × Nat) : List (Nat × Nat × Nat) → List (Nat × Nat × Nat)
  | [] => [x]
  | y :: r =>
    if x.1 == y.1 && y.2.1 ≤ x.2.1 + x.2.2 then mergeFrom (x.1, x.2.1, max (x.2.1 + x.2.2) (y.2.1 + y.2.2) - x.2.1) r
    else x :: mergeFrom y r

/-- Maximal runs of consecutive lost blocks in each partition (R41). -/
def mergeExtents : List (Nat × Nat × Nat) → List (Nat × Nat × Nat)
  | [] => []
  | x :: r => mergeFrom x r

/-- One LOST_ACK entry (Table 21-3). -/
def logLostAckEntry (s : State) (part flags first count boot : Nat) : State :=
  logEvent (modHealth s (fun h => { h with lostAckEvents := sat64 (h.lostAckEvents + 1) })) logLostAck
    [(0, 1, part), (1, 1, flags), (4, 8, first), (12, 8, count), (20, 8, boot)]

/-- LOST_ACK for whole partitions where a loss left no summary, so that what they lost is not known (R42). -/
def logRangeUnknown (blind : Bool) (s : State) : State :=
  if !blind then s else s.parts.foldl (fun s p =>
    if !p.2.isStream && p.2.receiptSincePlinth then logLostAckEntry s p.1 1 0 p.2.blocks s.sys.lostBoot else s) s

/-- LOST_ACK: by the summary, or for whole partitions without it (R41, R42). -/
def reportLostAck (s : State) : State :=
  match s.energy.summary with
  | some x =>
    (mergeExtents (x.extents.foldl (fun l e => insExtent e l) [])).foldl (fun s e =>
      if (tget s.parts e.1).isSome then logLostAckEntry s e.1 0 e.2.1 e.2.2 x.boot else s) (logRangeUnknown x.blind s)
  | none => logRangeUnknown true s

/-- POWER_FAIL and HOLDUP_SHORT after a power-fail sequence (R397). Without the summary START is 0 and the other figures are
free values (log 2). -/
def reportPowerFail (s : State) : State :=
  if !s.energy.pfRan then s
  else
    let s1 := modHealth s (fun h => { h with powerFails := sat64 (h.powerFails + 1) })
    let short := fun (s : State) (missing : Bool) (n : Nat) =>
      logEvent (modHealth s (fun h => { h with holdupShorts := sat64 (h.holdupShorts + 1) })) logHoldupShort
        [(0, 1, b2n missing), (4, 8, n), (12, 4, s.energy.pfCap)]
    match s.energy.summary with
    | some x =>
      let s2 := logEvent s1 logPowerFail [(0, 1, x.start), (4, 4, x.vhMv), (8, 8, x.h), (16, 8, x.u), (24, 8, x.u - x.short), (32, 4, x.boot)]
      if 0 < x.short then short s2 false x.short else s2
    | none =>
      let w := fun (i : Nat) => (Config.freeWord (s.free + i)).toNat
      let s2 := logEvent { s1 with free := s1.free + 5 } logPowerFail
        [(0, 1, 0), (4, 4, w 0), (8, 8, w 1), (16, 8, w 2), (24, 8, w 3), (32, 4, s.sys.lostBoot)]
      short s2 true (w 4)

/-- MC_SWITCH_END for the switches the sequence withdrew (R548). -/
def reportWithdrawn (s : State) : State :=
  s.micro.withdrawn.foldl (fun s x => logEvent s logMcSwitchEnd [(0, 1, x.1), (1, 1, 2), (2, 2, x.2)]) s

/-- Replay has written its pages: the Fractures of every partition, and the interrupted groups (R290). -/
def noteReplay (s : State) : State := (5 :: (List.range 32).map (128 + ·)).foldl noteGen s

/-- What the boot that ended left to report is reported (R431). -/
def clearLoss (s0 : State) : State :=
  let s := noteReplay s0
  { s with
    media := { s.media with interrupted := s.media.torn, torn := [] }
    energy := { s.energy with summary := none, pfRan := false }
    micro := { s.micro with withdrawn := [] }
    sys := { s.sys with replayRepeat := false } }

/-- RECOVERED: Plinth load and replay finish; the records, the entries of R397 and a new Plinth are written, then RECOVERED is
set. `scanned`: the blocks scanned where neither Plinth copy passes (R431). In HALTED the streams replayed are sealed as the others were
(R256, R450). -/
def execRecovered (plinthOk : Bool) (scanned : Nat) (s : State) : Host.Outcome State Fault Refusal :=
  if !s.sys.t6 || s.gbl.recovered || s.gbl.failed || s.energy.pfSeq || s.media.foreign then .next s
  else
    let s1 := if plinthOk then s else logEvent s logPlinthLost [(0, 8, scanned)]
    let s2 := reportWithdrawn (reportPowerFail (reportLostAck (replayAll s1 false true)))
    let s3 := writePlinth (clearLoss s2)
    let s4 := refresh { s3 with gbl := { s3.gbl with recovered := true } }
    .next (settle (if s4.gbl.halted then sealOpen s4 afHalt cfHalt else s4))

/-! ## Adoption (R321, R322, R367, R418) -/

/-- The partition keys, unwrapped with the fleet key; none where an unwrap fails, with the partition (R321). -/
def unwrapKeys (fleet : List Byte) : Tbl Part → Except Nat (List (Nat × List Byte))
  | [] => .ok []
  | (p, q) :: r =>
    match q.xts, q.keyFleet with
    | true, some w =>
      match keyUnwrap fleet w, unwrapKeys fleet r with
      | none, _ => .error p
      | some k, .ok l => .ok ((p, k) :: l)
      | some _, .error x => .error x
    | _, _ => unwrapKeys fleet r

/-- A partition key wrapped under this device's derived key (R317, R321). -/
def State.wrapOwn (s : State) (k : List Byte) : List Byte := keyWrap s.kek k

/-- Close a stream left open, with the Ashlar and the Capstone of R367, which carries CADENCE where the count is reached (R357). Both carry
HOST_TIME 0 (DESIGN CHOICE, log 25): no entry stands behind them. -/
def adoptClose (s : State) (key : Nat) (t : Strm) : Strm :=
  let seq := ((t.newest.map (·.seq)).getD 0) + 1
  let tick := s.gbl.tick.toNat
  let t1 := replayRec s key true t seq
    (.ashlar (afClose + afAdopted) seq t.endOff 0 0 s.bootNow.toNat tick (utcAt s.streams.utc tick) 0)
  let flags := cfClose + cfAdopted + (if t.capEvery ≤ t.cadence + 1 then cfCadence else 0)
  let t2 := replayRec s key true t1 (seq + 1) (.capstone flags (seq + 1) 0)
  { t2 with cond := .closed, handle := none, cadence := 0, closeUtc := utcAt s.streams.utc tick }

/-- Adoption of the media with the keys unwrapped: replay, closing records, keys, owner and boot counter in one committed step
(R321, R322, R418). Its records carry the boot counter of the adopter (DESIGN CHOICE, log 25). -/
def adopt (s : State) (keys : List (Nat × List Byte)) : State :=
  let s0 : State := { s with
    sys := { s.sys with owner := s.serial, bootStored := s.sys.bootStored + 1, boot := s.sys.bootStored + 1 }
    media := { s.media with foreign := false } }
  let s1 : State := replayAll s0 true false
  let tbl := tmap s1.streams.tbl (fun (k : Nat) (t : Strm) =>
    if t.cond == StreamCond.opened then adoptClose s1 k t else t)
  let s2 : State := { s1 with streams := { s1.streams with tbl := tbl } }
  let s3 : State := { s2 with
    parts := tmap s2.parts (fun (p : Nat) (q : Part) => match keys.find? (fun x => x.1 == p) with
      | some x => { q with keyDev := some (s.wrapOwn x.2) }
      | none => q) }
  let s4 := s3.media.fractures.foldl (fun s x => logFractureRec s (sKey x.1 (fieldAt x.2 4 2)) x.2) s3
  writePlinth (clearLoss (reportWithdrawn (reportPowerFail (reportLostAck s4))))

end Sys2Proof.Machine
end

