-- ==== Sys2Proof/Machine/Partitions.lean ====
section
/-! DEFINITION. The admin commands of partitions: creation, deletion, holds, adoption and SANITIZE (R174, R287, R310 to R322, R365,
R471, R474). -/

namespace Sys2Proof.Machine

/-! ## What stands against an erasure (R174, R301, R365) -/

/-- The data of a stream are held: it is open, its closing is not past the floor, or it or its partition holds a reference
(R174, R365). -/
def streamHeld (s : State) (key : Nat) (t : Strm) : Bool :=
  let days := s.prot.retainMin.toNat
  let now := utcAt s.streams.utc s.gbl.tick.toNat
  t.cond == .opened || !t.holds.isEmpty || !(((tget s.parts (sPart key)).map (·.holds.isEmpty)).getD true) ||
  (0 < days && (t.closeUtc == 0 || now == 0 || decide (now < t.closeUtc + days * 86400000000)))

/-- A hold or the retention floor forbids erasing the partition (R174, R365). -/
def partHeld (s : State) (p : Nat) : Bool :=
  ((tget s.parts p).map (fun q => !q.holds.isEmpty)).getD false || (s.streamsOf p).any (fun x => streamHeld s x.1 x.2)

/-- An I/O entry consumed and not completed names the partition (R301). -/
def ioOutstanding (s : State) (p : Nat) : Bool :=
  s.queues.jobs.any (fun j =>
    j.q != 0 && j.phase != .forwarded && j.op != opFence &&
    (if byHandleOp j.op then j.mark != 0 && sPart j.mark == p
     else (j.op == opFlush && bitOf (eAttr j.bytes) 0) || ePart j.bytes == p))

/-- The reference belongs to the partition. -/
def refOf (p : Nat) (r : Ref) : Bool := refPart r == some p

/-- Every unit of a partition is unmapped and every stream of it removed; what the stage and the pages held of it is dropped
(R315, R319, R471). -/
def clearPart (s : State) (p : Nat) : State :=
  let mine := fun (k : Nat) => sPart k == p
  let s := dropLeaves s p
  { s with
    parts := tmod s.parts p (fun q => { q with units := [], used := [], receiptSincePlinth := false })
    streams := { s.streams with
      tbl := s.streams.tbl.filter (fun x => !mine x.1), sign := s.streams.sign.filter (fun k => !mine k)
      outgoing := s.streams.outgoing.filter (fun x => !mine x.1) }
    stage := { s.stage with writes := s.stage.writes.filter (fun w => w.part != p) }
    media := { purgeRefs s.media (refOf p) with
      fractures := s.media.fractures.filter (fun x => x.1 != p)
      lostSeen := s.media.lostSeen.filter (fun r => !refOf p r) } }

/-! ## CREATE_PARTITION (R287, R311, R316, R317) -/

/-- The 64 bytes of a partition key, Key1 and Key2, and the count of draws (R316). The draws that the device repeats because Key1
equals Key2 leave no trace: Key2 is what the last draw gave, any value but Key1 (log 35). -/
def drawKey (n : Nat) : List Byte × Nat :=
  let k1 := Config.random n
  let k2 := k1 + 1 + BitVec.ofNat 256 ((Config.random (n + 1)).toNat % (2 ^ 256 - 1))
  (be32 k1 ++ be32 k2, n + 2)

/-- A partition as CREATE_PARTITION makes it (Tables 9-7, 9-10). -/
def newPart (e : List Byte) (units : Nat) : Part :=
  let a := eAttr e
  { isStream := bitOf a 0, lbs4k := bitOf a 1, xts := bitOf a 2, tornFill := BitVec.ofNat 8 (bitsOf a 15 8)
    retainDays := bitsOf a 31 16, capUnits := units, feat := ⟨1048576, 1000, 60, 0⟩, holds := [], used := [], units := []
    keyFleet := none, keyDev := none, maxStream := 0, receiptSincePlinth := false }

/-- Capacity in logical blocks, as RESULT reports it (R311). -/
def Part.result (q : Part) : Nat := if q.isStream then q.capUnits else q.blocks

/-- CREATE_PARTITION (R285, R287, R311, R317, R320, R325, R628). -/
def execCreatePartition (count : Word) (bus : Bus) (s : State) : Host.Outcome State Fault Refusal :=
  match adminJob s count opCreatePartition with
  | none => .next s
  | some j =>
    let e := j.bytes
    let p := ePart e
    let units := (eLba e + 1023) / 1024 * 1024
    let q := newPart e units
    if s.foreignPart then .next (finishWith s j scAccessDenied)
    else if !s.gbl.fullService then .next (finishWith s j scFootingOnly)
    else if s.partUsed p || eLba e == 0 then .next (finishWith s j scOutOfRange)
    else if s.freeUnits < units || (s.gbl.dramGib.val == 0 && 536870912 < s.allocUnits + units) then .next (finishWith s j scNoSpace)
    else if !q.xts then .next (finishSaved { s with parts := tput s.parts p q } j q.result)
    else
      let s0 := absorbBus s bus
      if j.sglErr then .next (finishBus s0 j)
      else
        match gather s0 bus j.segs with
        | none => .next (finishBus s0 j)
        | some d =>
          let k := drawKey s0.free
          let wrapped := keyWrap (bytesAt d 0 32) k.1
          let q1 := { q with keyFleet := some wrapped, keyDev := some (s0.wrapOwn k.1) }
          let s1 : State := { s0 with parts := tput s0.parts p q1, free := k.2 }
          .next (deliver s1 j wrapped 72 { status := scOk, onMedia := true, result := q.result })

/-! ## DELETE_PARTITION (R174, R301, R315, R628) -/

/-- DELETE_PARTITION. -/
def execDeletePartition (count : Word) (s : State) : Host.Outcome State Fault Refusal :=
  match adminJob s count opDeletePartition with
  | none => .next s
  | some j =>
    let p := ePart j.bytes
    if s.foreignPart then .next (finishWith s j scAccessDenied)
    else if !s.gbl.fullService then .next (finishWith s j scFootingOnly)
    else
      match tget s.parts p with
      | none =>
        if (tget s.cas.spans p).isNone then .next (finishWith s j scOutOfRange)
        else if ioOutstanding s p then .next (finishWith s j scNotReady)
        else .next (finishSaved { s with cas := { s.cas with
          spans := tdel s.cas.spans p, spanHandles := s.cas.spanHandles.filter (fun h => sPart h.2.1 != p) } } j 0)
      | some q =>
        if partHeld s p then .next (finishWith s j scHeld)
        else if ioOutstanding s p then .next (finishWith s j scNotReady)
        else
          let s1 := clearPart s p
          .next (finishSaved (freeEmpty { s1 with parts := tdel s1.parts p }) j q.capUnits)

/-! ## SET_HOLD (R365) -/

/-- The references after a SET_HOLD, or the status that refuses it (R365). -/
def holdRefs (refs : List DWord) (r : DWord) (set : Bool) : Except Nat (List DWord) :=
  if set then
    (if refs.contains r then .ok refs else if 8 ≤ refs.length then .error scNoSpace else .ok (refs ++ [r]))
  else if refs.contains r then .ok (refs.filter (· != r)) else .error scOutOfRange

/-- SET_HOLD (R365, R376). -/
def execSetHold (count : Word) (s : State) : Host.Outcome State Fault Refusal :=
  match adminJob s count opSetHold with
  | none => .next s
  | some j =>
    let e := j.bytes
    let p := ePart e
    let r := BitVec.ofNat 64 (eLba e)
    let set := bitOf (eAttr e) 16
    if s.foreignPart then .next (finishWith s j scAccessDenied)
    else if !s.gbl.fullService then .next (finishWith s j scFootingOnly)
    else
      match tget s.parts p with
      | none => .next (finishWith s j scOutOfRange)
      | some q =>
        if eStream e == 0 then
          match holdRefs q.holds r set with
          | .error c => .next (finishWith s j c)
          | .ok l => .next (finishSaved { s with parts := tput s.parts p { q with holds := l } } j l.length)
        else
          match s.strm? (sKey p (eStream e)) with
          | none => .next (finishWith s j scOutOfRange)
          | some t =>
            match holdRefs t.holds r set with
            | .error c => .next (finishWith s j c)
            | .ok l => .next (finishSaved (setStream s (sKey p (eStream e)) { t with holds := l }) j l.length)

/-! ## ADOPT_MEDIA (R321, R322, R474) -/

/-- ADOPT_MEDIA: all in one committed step. -/
def execAdoptMedia (count : Word) (bus : Bus) (s : State) : Host.Outcome State Fault Refusal :=
  match adminJob s count opAdoptMedia with
  | none => .next s
  | some j =>
    if !s.prot.policy.getLsbD 9 then .next (finishWith s j scAccessDenied)
    else if !s.gbl.fullService then .next (finishWith s j scFootingOnly)
    else if !s.media.foreign then .next (finishWith s j scOutOfRange)
    else
      let s0 := absorbBus s bus
      if j.sglErr then .next (finishBus s0 j)
      else
        match gather s0 bus j.segs with
        | none => .next (finishBus s0 j)
        | some d =>
          match unwrapKeys (bytesAt d 0 32) s0.parts with
          | .error p =>
            .next (finish (logEvent s0 logImageRefused [(0, 1, 4), (1, 1, 1), (4, 1, p)]) j { status := scAccessDenied, logged := true })
          | .ok keys =>
            let s1 := adopt s0 keys
            let lost := missingLuns s1
            let s2 := refresh { s1 with
              media := { s1.media with relocating := s1.media.relocating ++ lost.filter (fun l => !s1.media.relocating.contains l) }
              gbl := { s1.gbl with roEol := s1.sys.eol } }
            .next (finishSaved s2 j s0.parts.length)

/-! ## SANITIZE (R319, R471, R490) -/

/-- Courses that hold a copy of a partition's data, current or superseded. -/
def coursesOf (s : State) (ps : List Nat) : List Nat :=
  (s.media.courses.filter (fun c => c.2.pages.any (fun g => g.2.2.any (fun r => ps.any (fun p => refOf p r))))).map (·.1)

/-- A program runs into one of the Courses. -/
def programRuns (s : State) (ids : List Nat) : Bool :=
  s.media.luns.any (fun l => match l.2.op with
    | .program id _ _ _ _ => ids.contains id
    | _ => false)

/-- The Courses take no more data. -/
def closeCourses (s : State) (ids : List Nat) : State :=
  modMedia s (fun m => { m with courses := tmap m.courses (fun i c =>
    if ids.contains i && c.isOpen then { c with isOpen := false, closedAt := s.gbl.tick } else c) })

/-- A block on a die in service awaits its erase, or its erase runs. -/
def eraseLeft (s : State) : Bool := s.media.blocks.any (fun b => s.blkUse b.1 == .freed && s.liveLuns.contains (blkLun b.1))

/-- Close the Courses, move what others hold out of them and erase their blocks, with every block that awaits its erase; none while one
of them cannot be erased yet (R112, R471). -/
def eraseCourses (s : State) (ids : List Nat) : Option State :=
  (ids.foldl (fun (o : Option State) id => o.bind (fun s => emptyCourse s id)) (some (closeCourses s ids))).bind (fun s1 =>
    if eraseLeft (eraseBlocks s1 (freedBlocks s1)) then none else some (eraseBlocks s1 (freedBlocks s1)))

/-- The keys of an XTS partition are destroyed and its units unmapped (R319). -/
def cryptoErase (s : State) (p : Nat) : State :=
  let s1 := clearPart s p
  { s1 with parts := tmod s1.parts p (fun q => { q with keyFleet := none, keyDev := none }) }

/-- SANITIZE with its checks passed: partitions `ks` lose their keys, partitions `es` are erased; none where a program or a full
Quarry holds it up. -/
def sanitizeParts (s : State) (ks es : List Nat) : Option State :=
  let ids := coursesOf s es
  if programRuns s ids then none
  else
    let s1 := es.foldl clearPart (ks.foldl cryptoErase s)
    (if es.isEmpty then some s1 else eraseCourses s1 ids)

/-- SANITIZE. `residue`: the Rubble blocks that could not be cleared completely (R471). -/
def execSanitize (count : Word) (residue : Nat) (s : State) : Host.Outcome State Fault Refusal :=
  match adminJob s count opSanitize with
  | none => .next s
  | some j =>
    let e := j.bytes
    let all := bitOf (eAttr e) 0
    let crypto := bitOf (eAttr e) 1
    let ps := if all then s.parts.map (·.1) else [ePart e]
    let isXts := fun (p : Nat) => ((tget s.parts p).map (·.xts)).getD false
    if !s.prot.policy.getLsbD 8 || s.foreignPart then .next (finishWith s j scAccessDenied)
    else if !s.gbl.fullService then .next (finishWith s j scFootingOnly)
    else if !all && ((tget s.parts (ePart e)).isNone || (crypto && !isXts (ePart e))) then .next (finishWith s j scOutOfRange)
    else if ps.any (partHeld s) then .next (finishWith s j scHeld)
    else if ps.any (ioOutstanding s) then .next (finishWith s j scNotReady)
    else
      let ks := if crypto then ps.filter isXts else []
      let es := ps.filter (fun p => !ks.contains p)
      match sanitizeParts s ks es with
      | none => .next s
      | some s1 =>
        let left := if es.isEmpty then 0 else min residue s.rubble
        let s2 := if left == 0 then s1
          else logEvent s1 logSanitizeResidue [(0, 1, if all then 0xFF else ePart e), (4, 4, left)]
        .next (finish (freeEmpty s2) j
          { status := scOk, onMedia := true, result := (ps.map s.usedUnits).sum, cr0 := left, logged := 0 < left })

end Sys2Proof.Machine
end

