-- ==== Sys2Proof/Machine/Cascade.lean ====
section
/-! DEFINITION. The cascade's operations: receiving and relaying packets (R611 to R614), joining and attesting (R615 to R620), leaving
(R633, R634). Where the spec gives no payload layout the model's is that of log 20. -/

namespace Sys2Proof.Machine

/-! ## Ports and packets -/

/-- The ports may work: the core runs with CAS_AVDD, outside FAILED and the power-fail sequence (R635, Table 3-17). -/
def State.casOn (s : State) : Bool := s.gbl.coreOn && s.aon.rails.cas && !s.gbl.failed && !s.energy.pfSeq

/-- Change one port. -/
def modPort (s : State) (n : Fin 3) (f : Port → Port) : State :=
  { s with cas := { s.cas with ports := s.cas.ports.set n (f s.cas.ports[n]) } }

/-- The port's link is up and its receiver in block lock. -/
def State.rxOn (s : State) (n : Fin 3) : Bool := s.casOn && (s.cas.ports[n]).trained && (s.cas.ports[n]).blockLock

/-- Set CAS_EVENT bits, with MEMBER where the event names one (Table 6-26). -/
def casEvent (s : State) (bits : BitVec 8) (member : Option Nat) : State :=
  setIrq { s with cas := { s.cas with
    event := s.cas.event ||| bits
    eventMember := match member with | some m => BitVec.ofNat 12 m | none => s.cas.eventMember } } irqCascade

/-! CAS_EVENT bits (Table 6-26). -/
def evJoined : BitVec 8 := 0x08
def evLeft : BitVec 8 := 0x10
def evMismatch : BitVec 8 := 0x20
def evAttestFail : BitVec 8 := 0x40
def evLinkFail : BitVec 8 := 0x80

/-- A transaction number of this device that no forwarded entry uses. -/
def State.ownTxn (s : State) : Nat := 0x80000000 + s.cas.nextTxn % 0x80000000

/-- Take a transaction number. -/
def takeTxn (s : State) : State := { s with cas := { s.cas with nextTxn := s.cas.nextTxn + 1 } }

/-- Class of each packet type and whether its LEN may be `n` (Table 19-3). -/
def pktShape (type n : Nat) : Option (Nat × Bool) :=
  if type == 0x01 then some (0, n == 70)
  else if type == 0x02 then some (1, n == 16)
  else if type == 0x03 then some (2, n ≤ 4096)
  else if type == 0x04 then some (1, n ≤ 4096)
  else if type == 0x05 then some (2, n == 48)
  else if type == 0x10 then some (1, 4 ≤ n && n ≤ 4096 && n % 4 == 0)
  else if type == 0x11 then some (2, n == 0)
  else if type == 0x12 then some (1, n == 32)
  else if type == 0x13 then some (2, n == 384)
  else if type == 0x14 then some (1, n == 4)
  else if type == 0x15 then some (1, n ≤ 4096 && n % 2 == 0)
  else if type == 0x16 then some (1, n == 2)
  else if type == 0x17 then some (2, n == 0 || n == 256)
  else none

/-- The packet's TYPE, class and LEN are valid, and it is of the type its command names (R611). -/
def pktOk (type : Nat) (p : Packet) : Bool :=
  p.type == type && (match pktShape p.type p.payload.length with | some (c, ok) => c == p.cls && ok | none => false)

/-- The receiver of a port (R613): only the next SEQ with a good CRC is accepted, and acknowledged; a stomped copy is dropped; a SEQ
already accepted is acknowledged again; anything else is answered with NAK. -/
def receive (s : State) (n : Fin 3) (rx : Rx) : State × Bool :=
  let t := s.cas.ports[n]
  if !s.rxOn n || rx.stomp then (s, false)
  else if rx.crcOk && rx.seq == t.rxSeq then
    (modPort s n (fun t => { t with rxSeq := t.rxSeq + 1, linkSent := some (true, rx.seq) }), true)
  else if rx.crcOk && decide (2048 ≤ (rx.seq - t.rxSeq).toNat) then
    (modPort s n (fun t => { t with linkSent := some (true, t.rxSeq - 1) }), false)
  else (modPort s n (fun t => { t with linkSent := some (false, t.rxSeq) }), false)

/-- The packet is for this device. Before it is enumerated every packet on its U port is; an ENUM or ATTEST_REQ from above that no route
entry sends on, and a LEAVE to 0xFFF, are too (log 20). -/
def State.forMe (s : State) (n : Fin 3) (p : Packet) : Bool :=
  if s.cas.enumerated then
    p.dest == s.cas.memberId || (n == 0 && !s.keystone &&
      ((p.type == 0x15 && p.dest == 0xFFF) || ((p.type == 0x10 || p.type == 0x12) && s.route p.dest == some 0)))
  else n == 0 && !s.keystone

/-- A refusal of a pull (Table 19-3). -/
def refusePull (s : State) (p : Packet) : State := sendPkt s ⟨3, 2, true, p.src, s.srcId, p.txn, 0xFFFFFFFF, []⟩

/-- The Keystone may relay ENTRY packets: not HALTED, in Orphan or in the power-fail sequence (R648). -/
def State.relaysEntries (s : State) : Bool := !s.stopped && !s.pcie.orphan && !s.energy.pfSeq

/-- Relay a packet for another member (R614, R617, R622). -/
def relay (s : State) (n : Fin 3) (p : Packet) : State :=
  if !s.cas.enumerated then s
  else if !s.keystone then (if p.type == 1 && n != 0 then sendPort s 0 p else sendPkt s p)
  else if p.type == 1 then
    (match (if s.relaysEntries then entryPort s p.dest else none) with
     | some k => sendPort { s with cas := { s.cas with
         fwds := s.cas.fwds ++ [⟨p.src, fieldAt p.payload 64 2, BitVec.ofNat 32 (fieldAt p.payload 66 4), p.dest, p.txn⟩] } } k p
     | none => answerEntry s p scMemberGone)
  else if p.type == 5 then
    sendPkt { s with cas := { s.cas with fwds := s.cas.fwds.filter (fun f => !(f.origin == p.dest && f.txn == p.txn)) } } p
  else if p.type == 2 && (s.route p.dest).isNone then refusePull s p
  else sendPkt s p

/-- Take a packet in: `act` is what it does where it is for this device. Its space is freed; an invalid one is acknowledged and no
more (R611, R612). -/
def onPacket (s : State) (n : Fin 3) (rx : Rx) (type : Nat) (act : State → State) : State :=
  let r := receive s n rx
  if !r.2 then r.1
  else
    let s1 := freeRx r.1 n rx.pkt
    if !pktOk type rx.pkt then s1
    else if s1.forMe n rx.pkt then act s1 else relay s1 n rx.pkt

/-! ## Leaving (R633, R634) -/

/-- End a STREAM_TRANSFER: the job completes; the verified prefix stays (R284, R288, R364, R627). -/
def endTransfer (s : State) (tr : Transfer) (status : Nat) : State :=
  let utc := utcAt s.streams.utc s.gbl.tick.toNat
  let s1 := { s with cas := { s.cas with transfers := s.cas.transfers.filter (fun x => x.txn != tr.txn) } }
  let s2 := match s1.strm? tr.dest with
    | some t => setStream s1 tr.dest { t with closeUtc := utc }
    | none => s1
  let seq := ((s2.strm? tr.dest).map (·.newestAshlar)).getD 0
  let s3 := if status == scMemberGone then s2
    else sendPkt s2 ⟨2, 1, true, tr.source, s.srcId, tr.txn, 0, leBytes 8 0 ++ leBytes 4 0 ++
      leBytes 4 (tr.srcStream + 2 ^ 16 * tr.srcPart)⟩
  match s3.job? tr.q tr.count with
  | none => s3
  | some j =>
    if status == scOk then settle (complete s3 j { status := scOk, onMedia := true, result := tr.got, ashlar := seq, cr0 := sNum tr.dest, cr1 := seq })
    else settle (complete s3 j { status := status, result := tr.got, ashlar := seq } 0)

/-- Entries forwarded by this member whose target has left complete with SC_MEMBER_GONE; what the Keystone relayed is forgotten. -/
def dropFwds (s : State) (left : Nat → Bool) : State :=
  let mine := s.cas.fwds.filter (fun f => f.origin == s.srcId && left f.target)
  let s1 := { s with cas := { s.cas with fwds := s.cas.fwds.filter (fun f => !(left f.target || left f.origin)) } }
  mine.foldl (fun s f => match s.job? f.q f.count with
    | some j => settle (complete s j { status := scMemberGone })
    | none => s) s1

/-- Entries served for a member whose link is lost: what is wholly in the stage completes internally; partly pulled writes and reads are
dropped; none is answered (R634). -/
def orphanTargets (s : State) (left : Nat → Bool) : State :=
  let mine := fun (j : Job) => match j.origin with | some o => left o.1 | none => false
  let gone := fun (j : Job) => mine j && (match j.phase with
    | .ready => hasData s j.bytes
    | .running => hasData s j.bytes
    | _ => false)
  let s1 := { s with queues := { s.queues with
    jobs := (s.queues.jobs.filter (fun j => !gone j)).map (fun j => if mine j then { j with detached := true } else j) } }
  let held := s1.cas.entries.filter (fun x => left x.2.src)
  let s2 := { s1 with cas := { s1.cas with entries := s1.cas.entries.filter (fun x => !left x.2.src) } }
  settle (held.foldl (fun s x => freeRx s x.1 x.2) s2)

/-- What a member does once members have left: forwarded entries, transfers, served entries (R377, R634, R627). -/
def membersLeft (s : State) (left : Nat → Bool) : State :=
  let s1 := dropFwds s left
  let s2 := (s1.cas.transfers.filter (fun tr => left tr.source)).foldl (fun s tr => endTransfer s tr scMemberGone) s1
  let s3 := { s2 with streams := { s2.streams with outgoing := s2.streams.outgoing.filter (fun x => !left x.2.1) } }
  orphanTargets { spansLeft s3 left with cas := { (spansLeft s3 left).cas with routes := (spansLeft s3 left).cas.routes.filter (fun r => !left r.1) } } left

/-- Member IDs of a LEAVE packet. -/
def leaveIds (p : Packet) : List Nat := (List.range (p.payload.length / 2)).map (fun i => fieldAt p.payload (2 * i) 2)

/-- Send LEAVE packets naming `ids` to a member. -/
def sendLeave (s : State) (dest : Nat) (ids : List Nat) : State :=
  sendSegs (takeTxn s) 0x15 1 dest s.ownTxn (chunks4k (ids.length + 1) (ids.flatMap (leBytes 2)))

/-- The U link is lost: the member and its subtree are no longer enumerated (R633, R634). -/
def loseUp (s : State) : State :=
  if s.keystone || !s.cas.enumerated then s
  else
    let ids := s.cas.memberId :: (s.cas.routes.filter (fun r => r.2 == 1 || r.2 == 2)).map (·.1)
    let p : Packet := ⟨0x15, 1, true, 0xFFF, s.srcId, s.ownTxn, 0, (ids.flatMap (leBytes 2)).take 4096⟩
    let s1 := sendPort (sendPort s 1 p) 2 p
    let s2 := membersLeft s1 (fun _ => true)
    { s2 with cas := { s2.cas with enumerated := false, routes := [] } }

/-! ## Span presence (R632) -/

/-- A span member leaves: the span is degraded (R632). -/
def spanLeave (s : State) (id : Nat) (r : RosterE) : State :=
  s.cas.spans.foldl (fun s x =>
    match x.2.ordinal r with
    | some k =>
      if x.2.missing.contains k then s
      else logEvent { s with cas := { s.cas with spans := tmod s.cas.spans x.1 (fun y => { y with missing := y.missing ++ [k] }) } }
        logCascade [(0, 1, 3), (2, 1, x.1), (4, 2, id)]
    | none => s) s

/-- A span member is back: unless rows are logged against it, its units are served again; SPAN_RESTORED once all are (R632). The dirty
rows' parity is to be recomputed (R631). -/
def spanJoin (s : State) (id : Nat) (r : RosterE) : State :=
  s.cas.spans.foldl (fun s x =>
    match x.2.ordinal r with
    | some k => restoreMember (modSpan s x.1 (fun y => { y with recheck := y.dirty })) x.1 k id
    | none => s) s

/-- Spans whose member is not there any more once an enumeration has ended (R632). -/
def spanAbsences (s : State) : State :=
  s.cas.spans.foldl (fun s x => (List.range x.2.members.length).foldl (fun s k =>
    if x.2.missing.contains k || (s.memberOf x.2 k).isSome then s
    else logEvent (modSpan s x.1 (fun y => { y with missing := y.missing ++ [k] })) logCascade [(0, 1, 3), (2, 1, x.1),
      (4, 2, ((s.cas.roster.find? (fun r => x.2.ordinal r.2 == some k)).map (·.1)).getD 0)]) s) s

/-! ## The Keystone: numbering, attestation, admission (R615 to R620) -/

/-- Digit of a position at a level: 1 D0, 2 D1 (Table 19-5). -/
def posDigit (pos level : Nat) : Nat := pos / 4 ^ (level - 1) % 4

/-- Breadth-first order of positions: depth, then D0 before D1 from level 1 on. -/
def posKey (d pos : Nat) : Nat := d * 4 ^ 12 + ((List.range d).map (fun i => posDigit pos (i + 1) * 4 ^ (11 - i))).sum

/-- The numbering in force: that of the enumeration in progress, if any. -/
def State.standing (s : State) : Tbl (Nat × Nat) :=
  match s.cas.enumerating with
  | some e => e.stands
  | none => s.cas.stands

/-- The Roster entry of a position. -/
def State.rosterAt (s : State) (pos : Nat) : Option (Nat × RosterE) := s.cas.roster.find? (fun r => r.2.position == pos)

/-- The ID for a position: the recorded one, or the lowest that nothing holds (R618). -/
def State.idFor (s : State) (pos : Nat) : Option Nat :=
  match s.rosterAt pos, s.cas.stands.find? (fun x => x.2.2 == pos) with
  | some r, _ => some r.1
  | none, some x => some x.1
  | none, none => (List.range 4096).find? (fun i => 0 < i && (tget s.cas.roster i).isNone && (tget s.cas.stands i).isNone)

/-- ENUM: ID, depth, and route entries (R617). -/
def sendEnum (s : State) (id depth : Nat) (rs : List (Nat × Nat)) : State :=
  sendPkt (takeTxn s) ⟨0x10, 1, true, id, s.srcId, s.ownTxn, 0,
    leBytes 2 id ++ leBytes 1 depth ++ leBytes 1 rs.length ++ rs.flatMap (fun r => leBytes 2 r.1 ++ leBytes 2 r.2)⟩

/-- Write the route entries to a position: the Keystone's own and those of its ancestors (R617). -/
def writeRoutes (s : State) (id d pos : Nat) : State :=
  let s1 := { s with cas := { s.cas with routes := tput s.cas.routes id (posDigit pos 1) } }
  (List.range (d - 1)).foldl (fun s i =>
    match s.standing.find? (fun x => x.2.1 == i + 1 && x.2.2 == pos % 4 ^ (i + 1)) with
    | some a => sendEnum s a.1 (i + 1) [(id, posDigit pos (i + 2))]
    | none => s) s1

/-- Begin to attest the device at a position: a fresh challenge (R619). -/
def beginAttest (s : State) (id d pos : Nat) : State :=
  let c := digestBytes (Config.random s.free)
  let s1 := writeRoutes { s with free := s.free + 1 } id d pos
  let txn := s1.ownTxn
  let s2 := takeTxn { s1 with cas := { s1.cas with attests := s1.cas.attests ++ [⟨id, d, pos, c, txn, s.gbl.tick⟩] } }
  sendPkt s2 ⟨0x12, 1, true, id, s.srcId, txn, 0, c⟩

/-- Serve the next position that waits to join, in breadth-first order, one at a time (R618, R642). A device that would stand deeper
than 12, or for which no ID is left, is held out (R615). -/
def serveJoin : Nat → State → State
  | 0, s => s
  | fuel + 1, s =>
    if !s.cas.attests.isEmpty || s.cas.enumerating.isSome then s
    else
      let best := minOf (s.cas.joins.map (fun x => posKey x.1 x.2))
      match s.cas.joins.find? (fun x => posKey x.1 x.2 == best) with
      | none => s
      | some (d, pos) =>
        let s1 := { s with cas := { s.cas with joins := s.cas.joins.filter (fun x => x.2 != pos) } }
        match (if 12 < d then none else s1.idFor pos) with
        | none => serveJoin fuel s1
        | some id => beginAttest { s1 with cas := { s1.cas with stands := tput s1.cas.stands id (d, pos) } } id d pos

/-- A device has come up at a position (step 3 of Table 19-7). -/
def joinAt (s : State) (d pos : Nat) : State :=
  serveJoin 8 { s with cas := { s.cas with joins := s.cas.joins.filter (fun x => x.2 != pos) ++ [(d, pos)] } }

/-- Visit the next position of an enumeration (R616). -/
def enumNext (s : State) : State :=
  match s.cas.enumerating with
  | none => s
  | some e =>
    match e.toVisit with
    | [] => s
    | (d, pos) :: rest =>
      if 4095 < e.nextId then s
      else
        beginAttest { s with cas := { s.cas with enumerating := some { e with
          toVisit := rest, nextId := e.nextId + 1, stands := tput e.stands e.nextId (d, pos) } } } e.nextId d pos

/-- The certificate test of R666. -/
def certValid (c : List Byte) : Bool :=
  let zero := fun (a n : Nat) => (bytesAt c a n).all (· == 0)
  c.length == 256 && fieldAt c 0 4 == 0x54435A51 && fieldAt c 4 2 == 1 && fieldAt c 6 2 == 256 && fieldAt c 8 4 == 0x70400E51 &&
  fieldAt c 12 1 == 0xB1 && zero 13 3 && zero 97 3 && zero 136 56 &&
  bytesAt c 104 32 == digestBytes (sha256 (beBytes 65 Config.issuerKey.toNat)) &&
  ecdsaVerify (beBytes 65 Config.issuerKey.toNat) (sha256 (bytesAt c 0 192)) (BitVec.ofNat 512 (beVal (bytesAt c 192 64)))

/-- KEY_ID and serial number of a certificate. -/
def certKeyId (c : List Byte) : List Byte := digestBytes (sha256 (bytesAt c 32 65))
def certSerial (c : List Byte) : List Byte := bytesAt c 16 16

/-- The checks of Table 19-4 on an answer: ATTEST buffer, then certificate. -/
def attestPasses (s : State) (a : Attest) (b : List Byte) : Bool :=
  let c := b.drop 128
  certValid c && certSerial c == bytesAt b 32 16 && bytesAt b 0 32 == a.challenge &&
  ecdsaVerify (bytesAt c 32 65) (sha256 (bytesAt b 0 64)) (BitVec.ofNat 512 (beVal (bytesAt b 64 64))) &&
  s.cas.roster.all (fun r => r.2.keyId != certKeyId c || decide (r.2.lastBoot ≤ beVal (bytesAt b 48 8)))

/-- A Roster entry without an identity. -/
def blankEntry (d pos : Nat) : RosterE :=
  { state := 3, depth := d, position := pos, serial := leBytes 16 0, keyId := leBytes 32 0, lastBoot := 0, seenBoot := 0, seenTick := 0
    heldSerial := leBytes 16 0, heldKeyId := leBytes 32 0, cert := [], heldCert := [], heldSeen := (0, 0, 0), present := false }

/-- The outcome of an attestation at a position (R619, R620): the entry after it, and the events. `answer`: ATTEST buffer and
certificate, none where it failed or did not come. -/
def attestOutcome (s : State) (a : Attest) (answer : Option (List Byte)) : Option RosterE × BitVec 8 :=
  let old := (s.rosterAt a.position).map (·.2)
  match answer with
  | none => (some { (old.getD (blankEntry a.depth a.position)) with state := 3, present := false }, evAttestFail)
  | some b =>
    let c := b.drop 128
    let boot := beVal (bytesAt b 48 8)
    let new : RosterE := { blankEntry a.depth a.position with
      state := 1, serial := certSerial c, keyId := certKeyId c, lastBoot := boot, seenBoot := s.bootNow.toNat, seenTick := s.gbl.tick.toNat
      cert := c, present := true }
    if !s.cas.joinEn || !s.prot.policy.getLsbD 10 then (old.map (fun r => { r with present := false }), 0)
    else
      match old with
      | none => (some new, evJoined)
      | some r =>
        if r.cert.isEmpty || r.keyId == new.keyId then (some new, evJoined)
        else if s.cas.strict then
          (some { r with state := 2, present := false, heldSerial := new.serial, heldKeyId := new.keyId, heldCert := c
                         heldSeen := (boot, s.bootNow.toNat, s.gbl.tick.toNat) }, evMismatch)
        else (some new, evMismatch ||| evJoined)

/-- Record the outcome of an attestation; an admitted device gets its ENUM (R616, R618, R620, Table 19-7). -/
def settleAttest (s : State) (a : Attest) (answer : Option (List Byte)) : State :=
  let r := attestOutcome s a answer
  let admitted := (r.1.map (·.present)).getD false
  let s1 := { s with cas := { s.cas with attests := s.cas.attests.filter (fun x => x.txn != a.txn) } }
  let s2 := match s1.cas.enumerating with
    | some e =>
      let kids := (s1.cas.stands.filter (fun x => x.2.1 == a.depth + 1 && x.2.2 % 4 ^ a.depth == a.position)).map (·.2)
      let d0 := kids.filter (fun x => posDigit x.2 (a.depth + 1) == 1)
      let d1 := kids.filter (fun x => posDigit x.2 (a.depth + 1) == 2)
      { s1 with cas := { s1.cas with enumerating := some { e with
        toVisit := if admitted then e.toVisit ++ d0 ++ d1 else e.toVisit
        admitted := e.admitted + b2n admitted
        fresh := match r.1 with | some x => tput e.fresh a.id x | none => e.fresh } } }
    | none => match r.1 with
      | some x => { s1 with cas := { s1.cas with roster := tput s1.cas.roster a.id x } }
      | none => s1
  let s3 := if admitted then sendEnum s2 a.id a.depth [] else s2
  let s4 := if r.2 = 0 then s3 else casEvent s3 r.2 (some a.id)
  let s5 := match r.1 with
    | some x => if admitted then spanJoin s4 a.id x else s4
    | none => s4
  if s5.cas.enumerating.isSome then enumNext s5 else serveJoin 8 (resyncAll s5)

/-- Members have left below a port of a member (R633): entries ABSENT, routes cleared, LEFT with the member that stood at the port, and
the LEAVE to every enumerated member. -/
def keystoneLeave (s : State) (ids : List Nat) : State :=
  let left := fun (i : Nat) => ids.contains i
  let at_ := s.standing.filter (fun x => left x.1)
  let gone := fun (pos : Nat) => at_.any (fun x => x.2.2 == pos)
  let top := minOf (at_.map (fun x => x.2.1))
  let first := at_.find? (fun x => x.2.1 == top)
  let was := s.cas.roster.filter (fun r => gone r.2.position && r.2.present)
  let s1 := { s with cas := { s.cas with
    roster := tmap s.cas.roster (fun _ r => if gone r.position && r.present then { r with state := 4, present := false } else r)
    stands := s.cas.stands.filter (fun x => !gone x.2.2)
    attests := s.cas.attests.filter (fun a => !left a.id)
    enumerating := s.cas.enumerating.map (fun e => { e with
      stands := e.stands.filter (fun x => !left x.1)
      fresh := tmap e.fresh (fun _ r => if gone r.position && r.present then { r with state := 4, present := false } else r) }) } }
  let s2 := membersLeft (was.foldl (fun s r => spanLeave s r.1 r.2) s1) left
  let s3 := match first with
    | some x => if was.any (fun r => r.2.position == x.2.2) then casEvent s2 evLeft (some x.1) else s2
    | none => s2
  let s4 := (s3.cas.roster.filter (fun r => r.2.present)).foldl (fun s r => sendLeave s r.1 ids) s3
  if s4.cas.enumerating.isSome then (if s4.cas.attests.isEmpty then enumNext s4 else s4) else serveJoin 8 s4

/-- A port's link is lost (R633): the packets in its buffers go with it. -/
def portLoss (s : State) (n : Fin 3) : State :=
  let t := s.cas.ports[n]
  let s1 := modPort { s with cas := { s.cas with entries := s.cas.entries.filter (fun x => x.1 != n) } } n Port.down
  if !t.trained then s1
  else if n == 0 then loseUp s1
  else if s.keystone then
    keystoneLeave { s1 with cas := { s1.cas with joins := s1.cas.joins.filter (fun x => posDigit x.2 1 != n.val) } }
      ((s1.standing.filter (fun x => posDigit x.2.2 1 == n.val)).map (·.1))
  else if s.cas.enumerated then sendLeave s1 0 ((s1.cas.routes.filter (fun r => r.2 == n.val)).map (·.1))
  else s1

/-- LINK_FAIL: the per-hop retry is exhausted, and the link goes down (R613). -/
def linkFail (s : State) (n : Fin 3) : State := portLoss (casEvent s evLinkFail none) n

end Sys2Proof.Machine
end

