-- ==== Sys2Proof/Machine/CascadeLink.lean ====
section
/-! DEFINITION. The commands of the cascade's ports: training, block lock, acknowledgment, credit, and the loss of a link (R608 to R614,
R633). -/

namespace Sys2Proof.Machine

/-- The port may train: enabled, a partner present, and never the U port of a Keystone (R608, R610). -/
def State.mayTrain (s : State) (n : Fin 3) : Bool :=
  s.casOn && s.cas.portEn.getLsbD n.val && s.pins.present.getLsbD n.val && !(n == 0 && s.keystone) && !(s.cas.ports[n]).trained

/-- Training (re)starts on a port. -/
def startTraining (s : State) (n : Fin 3) : State :=
  if s.mayTrain n then modPort (wakeDomain s 5) n (fun t => { t with training := true, rxTrain := 0 }) else s

/-- PORT_TRAIN: PRSNT_N has been low for 10 ms on an enabled port (R610). -/
def execPortTrain (port : Fin 3) (s : State) : Host.Outcome State Fault Refusal := .next (startTraining s port)

/-- TRAIN_RETRY: training restarts every 100 ms while presence holds (R610, R613). -/
def execTrainRetry (port : Fin 3) (s : State) : Host.Outcome State Fault Refusal := .next (startTraining s port)

/-- The link of a port is up; an enumerated parent reports the joiner (R610, Table 19-7). -/
def portUp (s : State) (n : Fin 3) : State :=
  let s1 := modPort s n (fun t => { t.down with trained := true, lostAt := none })
  if n == 0 || !s.cas.enumerated then s1
  else if s.keystone then joinAt s1 1 n.val
  else sendPkt (takeTxn s1) ⟨0x14, 1, true, 0, s1.srcId, s1.ownTxn, 0, leBytes 4 n.val⟩

/-- TRAIN: a TRAIN block is received; 16 in a row of a compatible ROLE and VERSION bring the link up, a pairing that never comes up is
logged once for each presence (R608, R610, Table 19-1). -/
def execTrain (port : Fin 3) (role version : Byte) (keystone : Bool) (s : State) : Host.Outcome State Fault Refusal :=
  let t := s.cas.ports[port]
  if !s.casOn || !t.training || !t.blockLock then .next s
  else if version != 1 || 1 < role.toNat then .next (modPort s port (fun t => { t with rxTrain := 0 }))
  else if (role == 1) != (port == 0) || (keystone && s.keystone) then
    let s1 := if t.roleLogged then s else logEvent s logCascade [(0, 1, 1), (1, 1, port.val)]
    .next (modPort s1 port (fun t => { t with rxTrain := 0, roleLogged := true }))
  else if t.rxTrain < 15 then .next (modPort s port (fun t => { t with rxTrain := t.rxTrain + 1 }))
  else .next (portUp s port)

/-- BLOCK_LOCK_ACQUIRED: 64 consecutive valid sync headers (R609). -/
def execBlockLockAcquired (port : Fin 3) (s : State) : Host.Outcome State Fault Refusal :=
  if !s.casOn then .next s
  else .next (modPort s port (fun t => { t with blockLock := true, lostAt := if s.pins.present.getLsbD port.val then none else t.lostAt }))

/-- BLOCK_LOCK_LOST: 16 invalid sync headers within 64; the leave timer starts (R609, R633). -/
def execBlockLockLost (port : Fin 3) (s : State) : Host.Outcome State Fault Refusal :=
  if !s.casOn || !(s.cas.ports[port]).blockLock then .next s
  else .next (modPort s port (fun t => { t with blockLock := false, rxTrain := 0, lostAt := some (t.lostAt.getD s.gbl.tick) }))

/-- LEAVE_DETECT: presence or block lock has been lost for 100 µs (R633). -/
def execLeaveDetect (port : Fin 3) (s : State) : Host.Outcome State Fault Refusal :=
  if !s.casOn || (s.pins.present.getLsbD port.val && (s.cas.ports[port]).blockLock) then .next s
  else .next (portLoss s port)

/-- The packets still unacknowledged after a cumulative ACK. -/
def Port.ackTo (t : Port) (seq : BitVec 12) : List (BitVec 12 × Packet) :=
  match t.replay.findIdx? (fun x => x.1 == seq) with
  | some i => t.replay.drop (i + 1)
  | none => t.replay

/-- ACK: it frees the acknowledged packets, and waiting packets may start (R613). -/
def execAck (port : Fin 3) (seq : BitVec 12) (s : State) : Host.Outcome State Fault Refusal :=
  let t := s.cas.ports[port]
  if !s.rxOn port || (t.ackTo seq).length == t.replay.length then .next s
  else .next (modPort s port (fun t => { t with replay := t.ackTo seq, replays := 0 }.drain [] [] t.waiting))

/-- A replay; after 16 without an advance of the ACK the link fails (R613). -/
def replayOnce (s : State) (n : Fin 3) : State :=
  if 16 ≤ (s.cas.ports[n]).replays then linkFail s n else modPort s n (fun t => { t with replays := t.replays + 1 })

/-- NAK: the sender replays from the SEQ it carries (R613). -/
def execNak (port : Fin 3) (seq : BitVec 12) (s : State) : Host.Outcome State Fault Refusal :=
  if s.rxOn port && (s.cas.ports[port]).replay.any (fun x => x.1 == seq) then .next (replayOnce s port) else .next s

/-- REPLAY_TIMEOUT: 20 µs without an ACK; the sender replays from the oldest unacknowledged packet (R613). -/
def execReplayTimeout (port : Fin 3) (s : State) : Host.Outcome State Fault Refusal :=
  if s.casOn && (s.cas.ports[port]).trained && !(s.cas.ports[port]).replay.isEmpty then .next (replayOnce s port) else .next s

/-- CREDIT: the partner's cumulative totals of freed space; waiting packets may start (R612). -/
def execCredit (port : Fin 3) (ent req rsp : BitVec 16) (s : State) : Host.Outcome State Fault Refusal :=
  if !s.rxOn port then .next s
  else .next (modPort s port (fun t => { t with freed := #v[ent, req, rsp] }.drain [] [] t.waiting))

/-- CREDIT_TIMER: at least every 100 µs the receiver sends its totals (R612). -/
def execCreditTimer (port : Fin 3) (s : State) : Host.Outcome State Fault Refusal :=
  if s.casOn && (s.cas.ports[port]).trained then .next (modPort s port (fun t => { t with credSent := t.rxFreed })) else .next s

end Sys2Proof.Machine
end

