-- ==== Sys2Proof/Machine/CascadePackets.lean ====
section
/-! DEFINITION. The commands of the cascade's packets: forwarded entries and their data (R622 to R626), numbering and attestation (R616
to R620), leaves (R633, R634), certificates and STREAM_TRANSFER (R284, R366, R627). -/

namespace Sys2Proof.Machine

/-! ## Forwarded entries at the target and the Keystone -/

/-- ENTRY: relayed, or held for the cascade queue with its credit withheld; a HALTED target refuses it (R257, R617, R622, R623). -/
def execEntry (port : Fin 3) (rx : Rx) (s : State) : Host.Outcome State Fault Refusal :=
  let r := receive s port rx
  if !r.2 then .next r.1
  else if pktOk 1 rx.pkt && r.1.cas.enumerated && r.1.forMe port rx.pkt && !r.1.stopped then
    .next { r.1 with cas := { r.1.cas with entries := r.1.cas.entries ++ [(port, rx.pkt)] } }
  else
    let s1 := freeRx r.1 port rx.pkt
    if !pktOk 1 rx.pkt then .next s1
    else if s1.forMe port rx.pkt then .next (if s1.cas.enumerated then answerEntry s1 rx.pkt scAborted else s1)
    else .next (relay s1 port rx.pkt)

/-! ## Data of forwarded entries (R624) -/

/-- The part of a command's data pieces from a position on. -/
def segSlice : List Seg → Nat → Nat → List Seg
  | [], _, _ => []
  | g :: gs, pos, n =>
    if n == 0 then []
    else if g.len ≤ pos then segSlice gs (pos - g.len) n
    else
      let k := min n (g.len - pos)
      { g with addr := g.addr + pos, len := k } :: segSlice gs 0 (n - k)

/-- The entry this device forwarded that a packet belongs to, with its job. -/
def State.fwdOf (s : State) (p : Packet) : Option (Fwd × Job) :=
  match s.cas.fwds.find? (fun f => f.origin == s.srcId && f.txn == p.txn && f.target == p.src) with
  | some f => (s.job? f.q f.count).bind (fun j => if j.detached then none else some (f, j))
  | none => none

/-- Answer a PULL with bytes. -/
def sendPullData (s : State) (p : Packet) (d : List Byte) (seg : Nat) : State := sendPkt s ⟨3, 2, p.lastSeg, p.src, s.srcId, p.txn, seg, d⟩

/-- An origin answers a pull of a forwarded write or append: its buffers read once, or a refusal (R216, R624, R644). -/
def answerPull (s : State) (b : Bus) (p : Packet) : State :=
  let pos := fieldAt p.payload 0 8
  let n := fieldAt p.payload 8 4
  match s.spanSub? p, s.fwdOf p with
  | some (_, y), _ =>
    if n == 0 || 4096 < n || y.wdata.length < pos + n then refusePull s p
    else sendPullData s p (bytesAt y.wdata pos n) (fieldAt p.payload 12 4)
  | none, none => refusePull s p
  | none, some (_, j) =>
    let x := segSlice j.segs pos n
    if j.sglErr || n == 0 || 4096 < n || (x.map (·.len)).sum != n || !s.mayWriteShared then refusePull s p
    else
      match gather s b x with
      | some d => sendPullData s p d (fieldAt p.payload 12 4)
      | none => refusePull (countBus s) p

/-! ## The source of a STREAM_TRANSFER (R30, R377, R627) -/

/-- The number of a stream was assigned and nothing of the stream is left: it was released (R351, R364). -/
def State.released (s : State) (part n : Nat) : Bool :=
  match tget s.parts part with
  | some q => 1 ≤ n && n ≤ q.maxStream && !q.lostNums.contains n && (s.strm? (sKey part n)).isNone
  | none => false

/-- The refusal of a pull out of a released stream (R364; layout log 20). -/
def refuseReleased (s : State) (p : Packet) : State := sendPkt s ⟨3, 2, true, p.src, s.srcId, p.txn, 0xFFFFFFFE, []⟩

/-- A transfer's pull: of the record after a sequence number, of stream bytes (bit 30), or the end of the transfer (count 0). The first
pull fixes the last record the transfer carries. The source's own provenance records, which no chain holds, are not carried (DESIGN
CHOICE, log 20). -/
def transferPull (s : State) (p : Packet) : State :=
  let pos := fieldAt p.payload 0 8
  let n := fieldAt p.payload 8 4
  let w := fieldAt p.payload 12 4
  let part := bitsOf w 20 16
  let key := sKey part (w % 65536)
  let mine := fun (x : Nat × Nat × Nat × Nat) => x.2.1 == p.src && x.2.2.1 == p.txn
  let gone := { s with streams := { s.streams with outgoing := s.streams.outgoing.filter (fun x => !mine x) } }
  if n == 0 then gone
  else
    match (if (s.qmask 0).getLsbD part then s.strm? key else none) with
    | none => if (s.qmask 0).getLsbD part && s.released part (w % 65536) then refuseReleased gone p else refusePull gone p
    | some t =>
      let last := match s.streams.outgoing.find? mine with
        | some x => x.2.2.2
        | none => (t.newest.map (·.seq)).getD 0
      let s1 := if s.streams.outgoing.any mine then s
        else { s with streams := { s.streams with outgoing := s.streams.outgoing ++ [(key, p.src, p.txn, last)] } }
      if bitOf w 30 then sendPullData s1 p (memReadN t.data pos (min n 4096)) 0
      else
        match t.recs.find? (fun r => r.kind != 4 && decide (pos < r.seq) && decide (r.seq ≤ last)) with
        | some r => sendPullData s1 p r.bytes 0
        | none => sendPullData gone p [] 0

/-- PULL: the origin reads its buffer once and answers with PULLDATA, or refuses (R624). -/
def execPull (port : Fin 3) (rx : Rx) (bus : Bus) (s : State) : Host.Outcome State Fault Refusal :=
  .next (onPacket (absorbBus s bus) port rx 2 (fun s =>
    if 0x80000000 ≤ rx.pkt.txn then transferPull s rx.pkt else answerPull s bus rx.pkt))

/-! ## The destination of a STREAM_TRANSFER (R284, R366, R627) -/

/-- Store a transfer. -/
def setTransfer (s : State) (tr : Transfer) : State :=
  { s with cas := { s.cas with transfers := s.cas.transfers.map (fun x => if x.txn == tr.txn then tr else x) } }

/-- Pull the source's next record, or the next bytes of the Ashlar in hand. -/
def pullNext (s : State) (tr : Transfer) : State :=
  let w := tr.srcStream + 2 ^ 16 * tr.srcPart
  let pkt := fun (pos n w : Nat) => sendPkt s ⟨2, 1, true, tr.source, s.srcId, tr.txn, 0, leBytes 8 pos ++ leBytes 4 n ++ leBytes 4 w⟩
  match tr.rec_ with
  | some r => pkt (fieldAt r 16 8 + tr.buf.length) (min 4096 (fieldAt r 24 4 - tr.buf.length)) (w + 2 ^ 30)
  | none => pkt (((s.strm? tr.dest).bind (fun t => t.newest.map (·.seq))).getD 0) 256 w

/-- The destination stream that holds earlier transfers from a source (R284). -/
def State.transferred? (s : State) (part : Nat) (serial : List Byte) (srcPart srcStream : Nat) : Option Nat :=
  (s.streams.tbl.find? (fun x => sPart x.1 == part && (match x.2.src with
    | some y => y.serial == serial && y.part == srcPart && y.stream == srcStream
    | none => false))).map (·.1)

/-- The source's certificate is here: the records are pulled after those already verified (R627). -/
def transferCert (s : State) (tr : Transfer) (cert : List Byte) : State :=
  if cert.isEmpty then endTransfer s tr scMemberGone
  else
    let part := match s.job? tr.q tr.count with | some j => ePart j.bytes | none => 0
    let tr1 := { tr with cert := some cert, dest := (s.transferred? part (certSerial cert) tr.srcPart tr.srcStream).getD 0 }
    pullNext (setTransfer s tr1) tr1

/-- The chain as verified so far: the stream, or an empty one. -/
def transferBase (s : State) (tr : Transfer) : Strm :=
  (s.strm? tr.dest).getD { newStrm s 0 0 1 false with cond := .transferred, handle := none, maxSeq := 0 }

/-- The procedure of R368 on the next record with the bytes it covers, under the source's certificate (R366). -/
def recordOk (t : Strm) (cert r data : List Byte) : Bool :=
  let kind := fieldAt r 0 1
  let seq := (t.newest.map (·.seq)).getD 0
  let off := t.coveredEnd
  let same := match (t.recs.filter (fun x => x.kind != 4)).head? with
    | some x => bytesAt r 4 3 == bytesAt x.bytes 4 3
    | none => true
  fieldAt r 1 1 == 1 && same && bytesAt r 96 32 == digestBytes t.prevDigest && r.length == (if kind == 2 then 256 else 128) &&
  (if kind == 1 then
     fieldAt r 8 8 == seq + 1 && fieldAt r 16 8 == off && data.length == fieldAt r 24 4 && bytesAt r 64 32 == digestBytes (sha256 data)
   else if kind == 2 then
     fieldAt r 8 8 == seq + 1 && fieldAt r 24 8 == off &&
     bytesAt r 64 32 == digestBytes ((t.lastCap.map (fun c => sha256 c.bytes)).getD 0) &&
     (bitOf (fieldAt r 2 2) 4 || fieldAt r 16 8 == (t.lastCap.map (·.seq)).getD 0 + 1) &&
     certValid cert && bytesAt r 144 32 == certKeyId cert && bytesAt r 128 16 == certSerial cert &&
     ecdsaVerify (bytesAt cert 32 65) (sha256 (bytesAt r 0 192)) (BitVec.ofNat 512 (beVal (bytesAt r 192 64)))
   else kind == 3 && fieldAt r 8 8 == seq + 1 + fieldAt r 64 8 && fieldAt r 16 8 == off)

/-- The stream with a verified record and its bytes appended; `prov`: the provenance record of the transfer it follows (R366). It stands
anew with each record received, so that DEST_BOOT and DEST_TICK are those of the last (DESIGN CHOICE, log 20). -/
def appendVerified (t : Strm) (fresh : Bool) (prov r data : List Byte) : Strm :=
  let kind := fieldAt r 0 1
  let off := t.coveredEnd
  let stop := if kind == 1 then off + data.length else if kind == 3 then off + fieldAt r 24 8 else off
  let provRec : Rec := ⟨4, 0, prov, true⟩
  let recs := if fresh then t.recs ++ [provRec]
    else
      let i := t.recs.length - 1 - (t.recs.reverse.findIdx? (fun x => x.kind == 4)).getD 0
      t.recs.set i provRec
  { t with recs := recs ++ [⟨kind, fieldAt r 8 8, r, true⟩]
           data := if kind == 1 then memWriteL t.data off data else t.data
           gaps := if kind == 3 then t.gaps ++ [(off, fieldAt r 24 8)] else t.gaps
           endOff := stop, commEnd := stop, ackEnd := stop, maxSeq := fieldAt r 8 8 }

/-- A record and the bytes it covers have arrived: verify them and commit them at the destination, or end the transfer (R284, R366). -/
def transferRecord (s : State) (tr : Transfer) (r data : List Byte) : State :=
  let cert := tr.cert.getD []
  let base := transferBase s tr
  if !recordOk base cert r data then endTransfer s tr scCrcMismatch
  else
    match s.job? tr.q tr.count with
    | none => endTransfer s tr scAborted
    | some j =>
      let part := ePart j.bytes
      match tget s.parts part with
      | none => endTransfer s tr scOutOfRange
      | some q =>
        let key := if tr.dest == 0 then sKey part q.nextStream else tr.dest
        let seq := fieldAt r 8 8
        let first := if tr.firstSeq == 0 then seq else tr.firstSeq
        let prov := provenanceBytes key first seq (certSerial cert) tr.srcPart tr.srcStream s.bootNow.toNat s.gbl.tick.toNat (certKeyId cert)
        let t1 := { appendVerified base (tr.firstSeq == 0) prov r data with
          retain := q.retainDays, src := some ⟨certSerial cert, tr.source, tr.srcPart, tr.srcStream, seq⟩ }
        let growth := t1.units - (if tr.dest == 0 then 0 else base.units)
        if (tr.dest == 0 && q.nextStream == 65536) || q.capUnits < s.usedUnits part + s.openIn part + growth then endTransfer s tr scNoSpace
        else
          let s1 := setStream s key t1
          let s2 := if tr.dest == 0 then { s1 with parts := tmod s1.parts part (fun q =>
            { q with maxStream := max q.maxStream q.nextStream, lostNums := q.lostNums.filter (· != q.nextStream) }) } else s1
          let tr1 := { tr with dest := key, rec_ := none, buf := [], got := tr.got + data.length, firstSeq := first }
          pullNext (setTransfer s2 tr1) tr1

/-- Bytes of a transfer's pull arrive: a record, the bytes of an Ashlar, the end of the chain, or a refusal, which says whether the stream
was released (R364, R627). -/
def transferData (s : State) (tr : Transfer) (p : Packet) : State :=
  if p.payload.isEmpty && p.seg == 0xFFFFFFFF then endTransfer s tr scAccessDenied
  else if p.payload.isEmpty && p.seg == 0xFFFFFFFE then endTransfer s tr scOutOfRange
  else
    match tr.rec_ with
    | none =>
      if p.payload.isEmpty then endTransfer s tr scOk
      else if fieldAt p.payload 0 1 == 1 && fieldAt p.payload 24 4 != 0 then
        let tr1 := { tr with rec_ := some p.payload, buf := [] }
        pullNext (setTransfer s tr1) tr1
      else transferRecord s tr p.payload []
    | some r =>
      let buf := tr.buf ++ p.payload
      if p.payload.isEmpty then endTransfer s tr scCrcMismatch
      else if buf.length < fieldAt r 24 4 then
        let tr1 := { tr with buf := buf }
        pullNext (setTransfer s tr1) tr1
      else transferRecord s tr r (buf.take (fieldAt r 24 4))

/-- The certificate the Keystone holds for a member: its own for member 0 (log 20), that of an ACCEPTED entry, else none (R627). -/
def State.rosterCert (s : State) (id : Nat) : List Byte :=
  if id == 0 then s.cert
  else match tget s.cas.roster id with
    | some r => if r.state == 1 then r.cert else []
    | none => []

/-- STREAM_TRANSFER: the destination asks for the source's certificate and then pulls the stream (R284, R627). A source that is this
member itself completes with SC_OUT_OF_RANGE (log 20). -/
def execStreamTransfer (q : Fin 4097) (count : Word) (s : State) : Host.Outcome State Fault Refusal :=
  match readyJob s q.val count opStreamTransfer with
  | none => .next s
  | some j =>
    let e := j.bytes
    let src := eLba e % 4096
    if !((tget s.parts (ePart e)).any (·.isStream)) || (s.cas.enumerated && src == s.cas.memberId) then .next (finishWith s j scOutOfRange)
    else if !s.cas.enumerated then .next (finishWith s j scMemberGone)
    else
      let tr : Transfer := { q := j.q, count := j.count, txn := s.ownTxn, source := src, srcPart := bitsOf (eAttr e) 20 16
                             srcStream := eStream e, cert := none, dest := 0, rec_ := none, buf := [], got := 0, firstSeq := 0 }
      let s1 := setJob (takeTxn s) { j with phase := .running }
      let s2 := { s1 with cas := { s1.cas with transfers := s1.cas.transfers ++ [tr] } }
      .next (if s.keystone then transferCert s2 tr (s.rosterCert src)
             else sendPkt s2 ⟨0x16, 1, true, 0, s.srcId, tr.txn, 0, leBytes 2 src⟩)

/-- KEYQ: the Keystone answers with the certificate in its Roster (R627). -/
def execKeyq (port : Fin 3) (rx : Rx) (s : State) : Host.Outcome State Fault Refusal :=
  .next (onPacket s port rx 0x16 (fun s =>
    if !s.keystone then s
    else sendPkt s ⟨0x17, 2, true, rx.pkt.src, s.srcId, rx.pkt.txn, 0, s.rosterCert (fieldAt rx.pkt.payload 0 2 % 4096)⟩))

/-- KEYRSP: the destination receives the source's certificate and pulls the records (R627). -/
def execKeyrsp (port : Fin 3) (rx : Rx) (s : State) : Host.Outcome State Fault Refusal :=
  .next (onPacket s port rx 0x17 (fun s =>
    match s.cas.transfers.find? (fun x => x.txn == rx.pkt.txn && x.cert.isNone) with
    | some tr => transferCert s tr rx.pkt.payload
    | none => s))

/-! ## Data at the target, results at the origin (R624, R625) -/

/-- Pulled data arrives in the target's stage; a refusal ends the entry with SC_BUS_ERROR (R33, R624). -/
def entryData (s : State) (p : Packet) : State :=
  match s.queues.jobs.find? (fun j => j.phase == .running && hasData s j.bytes && (match j.origin with
    | some o => o.1 == p.src && o.2.1 == p.txn
    | none => false)) with
  | none => s
  | some j =>
    if p.payload.isEmpty && p.seg == 0xFFFFFFFF then finishWith s j scBusError
    else
      let d := j.data ++ p.payload
      let n := (dataOf s j.bytes).2
      if n ≤ d.length && isSpanJob s j then spanGo (setJob s { j with data := d.take n }) { j with data := d.take n } (d.take n)
      else if n ≤ d.length then settle (setJob s { j with phase := .fetched, data := d.take n }) else setJob s { j with data := d }

/-- PULLDATA (R624, R627). -/
def execPulldata (port : Fin 3) (rx : Rx) (s : State) : Host.Outcome State Fault Refusal :=
  .next (onPacket s port rx 3 (fun s =>
    match s.cas.transfers.find? (fun x => x.txn == rx.pkt.txn && x.source == rx.pkt.src) with
    | some tr => transferData s tr rx.pkt
    | none => entryData s rx.pkt))

/-- Read data for the buffers of a forwarded entry; a failed access ends it with SC_BUS_ERROR (R216, R624). -/
def entryRead (s : State) (p : Packet) : State :=
  match s.spanSub? p, s.fwdOf p with
  | some (o, y), _ => spanData s o y p.payload
  | none, none => s
  | none, some (_, j) =>
    let r := scatter s (segSlice j.segs (4096 * p.seg) p.payload.length) p.payload
    if r.2 then r.1 else setJob (countBus r.1) { j with sglErr := true }

/-- RDATA: read data from the target is written into the origin's buffers (R624). -/
def execRdata (port : Fin 3) (rx : Rx) (bus : Bus) (s : State) : Host.Outcome State Fault Refusal :=
  .next (onPacket (absorbBus s bus) port rx 4 (fun s => entryRead s rx.pkt))

/-- What a COMPL carries (Table 7-4). -/
def complOf (b : List Byte) : Compl :=
  { status := fieldAt b 0 1, onMedia := bitOf (fieldAt b 0 2) 8, result := fieldAt b 8 8, ashlar := fieldAt b 16 8
    cr0 := fieldAt b 32 8, cr1 := fieldAt b 40 8 }

/-- The origin's record for a COMPL: the target's results, its own tick and tag (R625); none for an entry it no longer waits for (R644). -/
def entryDone (s : State) (p : Packet) : State :=
  let rest := { s with cas := { s.cas with fwds := s.cas.fwds.filter (fun f => !(f.origin == s.srcId && f.txn == p.txn && f.target == p.src)) } }
  match s.spanSub? p, s.cas.fwds.find? (fun f => f.origin == s.srcId && f.txn == p.txn && f.target == p.src) with
  | some (o, y), _ => spanAnswer s o y (complOf p.payload)
  | none, none => s
  | none, some f =>
    match rest.job? f.q f.count with
    | none => rest
    | some j =>
      let c := complOf p.payload
      if j.sglErr && c.status == scOk then finishWith (spoil rest j.segs) j scBusError
      else settle (postRecord rest j c (bitOf (fieldAt p.payload 0 2) 9))

/-- COMPL: the origin writes the completion record of a forwarded entry (R625). -/
def execCompl (port : Fin 3) (rx : Rx) (s : State) : Host.Outcome State Fault Refusal :=
  .next (onPacket s port rx 5 (fun s => entryDone s rx.pkt))

/-! ## Numbering, attestation, leaves -/

/-- A member takes its ID, depth and route entries, acknowledges, and reports the children of its ports once it is enumerated
(R617, R618, Table 19-7). A count of 255 clears every route entry (log 20). -/
def takeEnum (s : State) (p : Packet) : State :=
  if s.keystone then s
  else
    let id := fieldAt p.payload 0 2 % 4096
    let n := fieldAt p.payload 3 1
    let keep := if s.cas.enumerated && s.cas.memberId == id && n != 255 then s.cas.routes else []
    let routes := (List.range (if n == 255 then 0 else n)).foldl (fun t i =>
      tput t (fieldAt p.payload (4 + 4 * i) 2) (fieldAt p.payload (6 + 4 * i) 2)) keep
    let s1 := { s with cas := { s.cas with enumerated := true, memberId := id, depth := fieldAt p.payload 2 1 % 16, routes := routes } }
    let s2 := sendPkt s1 ⟨0x11, 2, true, p.src, id, p.txn, 0, []⟩
    if s.cas.enumerated then s2
    else [1, 2].foldl (fun s k =>
      if ((s.cas.ports[k]?).map (·.trained)).getD false
      then sendPkt (takeTxn s) ⟨0x14, 1, true, 0, id, s.ownTxn, 0, leBytes 4 k⟩ else s) s2

/-- ENUM (R616 to R618). -/
def execEnum (port : Fin 3) (rx : Rx) (s : State) : Host.Outcome State Fault Refusal :=
  .next (onPacket s port rx 0x10 (fun s => takeEnum s rx.pkt))

/-- ENUM_ACK: a member has taken its numbering; nothing waits for it (R616). -/
def execEnumAck (port : Fin 3) (rx : Rx) (s : State) : Host.Outcome State Fault Refusal := .next (onPacket s port rx 0x11 id)

/-- ATTEST_REQ: the device answers with its ATTEST buffer and its certificate, HALTED or not (R619, R635). -/
def execAttestReq (port : Fin 3) (rx : Rx) (s : State) : Host.Outcome State Fault Refusal :=
  .next (onPacket s port rx 0x12 (fun s =>
    sendPort (wakeDomain s 4) port.val ⟨0x13, 2, true, rx.pkt.src, s.srcId, rx.pkt.txn, 0, s.attestation rx.pkt.payload ++ s.cert⟩))

/-- ATTEST_RSP: the Keystone checks the answer and applies the Roster comparison (R619, R620). -/
def execAttestRsp (port : Fin 3) (rx : Rx) (s : State) : Host.Outcome State Fault Refusal :=
  .next (onPacket s port rx 0x13 (fun s =>
    match s.cas.attests.find? (fun a => a.txn == rx.pkt.txn) with
    | some a => settleAttest s a (if attestPasses s a rx.pkt.payload then some rx.pkt.payload else none)
    | none => s))

/-- ATTEST_TIMEOUT: no answer within 10 ms, so the device is held out (R619). -/
def execAttestTimeout (s : State) : Host.Outcome State Fault Refusal :=
  match s.cas.attests with
  | a :: _ => .next (if s.casOn && s.keystone then settleAttest s a none else s)
  | [] => .next s

/-- JOIN: an enumerated parent reports a joiner at one of its ports (R618, Table 19-7). -/
def execJoin (port : Fin 3) (rx : Rx) (s : State) : Host.Outcome State Fault Refusal :=
  .next (onPacket s port rx 0x14 (fun s =>
    let k := fieldAt rx.pkt.payload 0 4
    match (if s.keystone && (k == 1 || k == 2) then tget s.standing rx.pkt.src else none) with
    | some (d, pos) => joinAt s (d + 1) (pos + k * 4 ^ d)
    | none => s))

/-- LEAVE: the Keystone marks the members ABSENT and tells the others; a member ends what it had with them, and is no longer enumerated
where it is named itself (R633, R634). -/
def execLeave (port : Fin 3) (rx : Rx) (s : State) : Host.Outcome State Fault Refusal :=
  .next (onPacket s port rx 0x15 (fun s =>
    let ids := leaveIds rx.pkt
    if s.keystone then keystoneLeave s ids
    else if port == 0 && ids.contains s.cas.memberId then loseUp s
    else membersLeft s (fun i => ids.contains i)))

end Sys2Proof.Machine
end

