-- ==== Sys2Proof/Machine/CascadeAdmin.lean ====
section
/-! DEFINITION. CASCADE_ENUMERATE, CASCADE_ROSTER and SELF_TEST (R616, R621, R628, R691, R692). -/

namespace Sys2Proof.Machine

/-! ## CASCADE_ENUMERATE (R616, R628) -/

/-- The enumeration begins: route entries are cleared, deepest members first, and the Keystone's children are visited (log 20). -/
def enumStart (s : State) (j : Job) : State :=
  let members := (s.cas.stands.filter (fun x => ((tget s.cas.roster x.1).map (·.present)).getD false))
  let s1 := ((List.range 13).reverse).foldl (fun s d =>
    (members.filter (fun x => x.2.1 == d)).foldl (fun s x =>
      sendPkt (takeTxn s) ⟨0x10, 1, true, x.1, s.srcId, s.ownTxn, 0, leBytes 2 x.1 ++ leBytes 1 d ++ [255]⟩) s) s
  let first := (s.cas.stands.filter (fun x => x.2.1 == 1)).map (·.2)
  let d0 := first.filter (fun x => x.2 == 1)
  let d1 := first.filter (fun x => x.2 == 2)
  enumNext (setJob { s1 with cas := { s1.cas with
    routes := [], attests := []
    enumerating := some { count := j.count, toVisit := d0 ++ d1, nextId := 1, admitted := 0, stands := [], fresh := [] } } }
    { j with phase := .running })

/-- The Roster as committed: the entries of the visited positions under their new IDs, then those of the others under the next free
IDs, ABSENT as they are (log 20). -/
def enumRoster (s : State) (e : Enumeration) : Tbl RosterE :=
  let rest := (s.cas.roster.filter (fun r => !e.fresh.any (fun x => x.2.position == r.2.position))).map (·.2)
  (rest.foldl (fun (a : Tbl RosterE × Nat) r =>
    if 4095 < a.2 then a else (tput a.1 a.2 { r with state := if r.state == 1 then 4 else r.state, present := false }, a.2 + 1))
    (e.fresh, e.nextId)).1

/-- One span of R628, of the first 64 admitted members that hold the partition; none where they differ in TYPE or LBS. -/
def spanOf (s : State) (ms : List MemberPart) : Option Span :=
  match ms.head? with
  | none => none
  | some m =>
    if ms.all (fun x => x.isStream == m.isStream && x.lbs4k == m.lbs4k) then
      some { members := ms.map (fun x => match tget s.cas.roster x.member.val with
               | some r => (r.serial, r.keyId)
               | none => ([], []))
             isStream := m.isStream, lbs4k := m.lbs4k, caps := ms.map (·.units), dirty := [], logged := [], missing := [], streams := []
             maxStream := 0, recheck := [] }
    else none

/-- Form the span of a partition number, if one is to be formed (R628). -/
def formSpan (held : List MemberPart) (s : State) (p : Nat) : State :=
  let admitted := fun (i : Nat) => ((tget s.cas.roster i).map (·.present)).getD false
  let ms := (s.cas.roster.map (·.1)).filterMap (fun i => held.find? (fun x => x.member.val == i && x.part.val == p && admitted i))
  if (tget s.parts p).isSome || (tget s.cas.spans p).isSome || ms.isEmpty then s
  else
    match spanOf s (ms.take 64) with
    | some x => { s with cas := { s.cas with spans := tput s.cas.spans p x } }
    | none => logEvent s logCascade [(0, 1, 2), (2, 1, p)]

/-- The enumeration ends: the Roster is committed, the spans are formed, and waiting joiners are served (R616, R628, R642). -/
def enumEnd (s : State) (j : Job) (e : Enumeration) (held : List MemberPart) : State :=
  let s1 := { s with cas := { s.cas with roster := enumRoster s e, stands := e.stands, enumerating := none } }
  let s2 := (List.range 32).foldl (formSpan held) s1
  serveJoin 8 (resyncAll (spanAbsences (finishSaved s2 j e.admitted)))

/-- CASCADE_ENUMERATE (R616). The command acts when its entry is taken up, and again once every position has been visited; `held`:
the partitions the admitted members then hold. -/
def execCascadeEnumerate (count : Word) (held : List MemberPart) (s : State) : Host.Outcome State Fault Refusal :=
  match s.job? 0 count, s.cas.enumerating with
  | some j, some e =>
    if j.phase != .running || e.count != count || !s.cas.attests.isEmpty || (!e.toVisit.isEmpty && e.nextId ≤ 4095) || s.energy.pfSeq
    then .next s else .next (enumEnd s j e held)
  | _, _ =>
    match adminJob s count opCascadeEnumerate with
    | none => .next s
    | some j =>
      if !s.keystone then .next (finishWith s j scAccessDenied)
      else if !s.gbl.fullService then .next (finishWith s j scFootingOnly)
      else if !s.cas.fwds.isEmpty || !s.cas.spanOps.isEmpty then .next (finishWith s j scNotReady)
      else
        let s1 := enumStart s j
        match s1.cas.enumerating with
        | some e => .next (if e.toVisit.isEmpty && s1.cas.attests.isEmpty then enumEnd s1 j e held else s1)
        | none => .next s1

/-! ## CASCADE_ROSTER (R621) -/

/-- A HELD entry is accepted; its device is admitted if it still stands there (R621). -/
def acceptHeld (s : State) (id : Nat) (r : RosterE) : State :=
  let here := (tget s.cas.stands id).isSome
  let r1 := { r with state := 1, serial := r.heldSerial, keyId := r.heldKeyId, cert := r.heldCert, lastBoot := r.heldSeen.1
                     seenBoot := r.heldSeen.2.1, seenTick := r.heldSeen.2.2, heldSerial := leBytes 16 0, heldKeyId := leBytes 32 0
                     heldCert := [], heldSeen := (0, 0, 0), present := here }
  let s1 := { s with cas := { s.cas with roster := tput s.cas.roster id r1 } }
  if here then spanJoin (casEvent (sendEnum s1 id r.depth []) evJoined (some id)) id r1 |> resyncAll else s1

/-- CASCADE_ROSTER: reads, accepts or clears entries (R621). -/
def execCascadeRoster (count : Word) (bus : Bus) (s : State) : Host.Outcome State Fault Refusal :=
  match adminJob s count opCascadeRoster with
  | none => .next s
  | some j =>
    let e := j.bytes
    let id := eLba e % 4096
    if !s.keystone then .next (finishWith s j scAccessDenied)
    else if !s.gbl.fullService then .next (finishWith s j scFootingOnly)
    else if eAttr e == 0 then
      (if eLen e == 0 || maxXfer < eLen e then .next (finishWith s j scOutOfRange)
       else
         let s0 := absorbBus s bus
         let rs := (s.cas.roster.filter (fun r => id ≤ r.1)).take (eLen e / 128)
         let d := rs.flatMap (fun r => rosterBytes r.1 r.2)
         .next (if j.sglErr then finishBus s0 j else deliver s0 j d d.length { status := scOk, result := rs.length }))
    else
      match tget s.cas.roster id with
      | none => .next (finishWith s j scOutOfRange)
      | some r =>
        if eAttr e == 1 then
          (if r.state != 2 then .next (finishWith s j scOutOfRange) else .next (finishSaved (acceptHeld s id r) j 0))
        else if r.state == 1 && r.present then .next (finishWith s j scNotReady)
        else .next (finishSaved { s with cas := { s.cas with roster := tdel s.cas.roster id } } j 0)

/-! ## SELF_TEST (R691, R692) -/

/-- The tests a mode runs that can fail here: DRAM only where populated, ports only where trained (Table 21-5). -/
def State.selfTestMask (s : State) (extended : Bool) : Nat :=
  0xFF + (if extended then 0x100 + 0x200 * b2n (decide (0 < s.gbl.dramGib.val)) +
    0x400 * b2n (s.cas.ports.toList.any (·.trained)) else 0)

/-- What the failures of tests outside FAILED lead to: sensors, channels, dies, ports (Table 21-5). -/
def selfTestUnits (s : State) (mask : Nat) (r : SelfTest) : State :=
  let s1 := if bitOf mask 6 && r.adc then { s with log := { s.log with adcRefBad := true } } else s
  let s2 := if bitOf mask 7 then r.channels.foldl (fun s c => takeOffline s c.val 4) s1 else s1
  let s3 := if bitOf mask 8 then r.luns.foldl (fun s l => dieFailed s (l.ch.val * 32 + l.target.val * 4 + l.lun.val) 1) s2 else s2
  if bitOf mask 10 then r.ports.foldl (fun s p => if (s.cas.ports[p]).trained then linkFail s p else s) s3 else s3

/-- SELF_TEST: the entry, the completion, then what Table 21-5 gives for each failure (R691, R692). -/
def execSelfTest (count : Word) (r : SelfTest) (s : State) : Host.Outcome State Fault Refusal :=
  match adminJob s count opSelfTest with
  | none => .next s
  | some j =>
    if !s.gbl.fullService then .next (finishWith s j scFootingOnly)
    else if earlierRuns s j opSelfTest then .next (finishWith s j scNotReady)
    else
      let mode := eAttr j.bytes
      let mask := r.failed.toNat &&& s.selfTestMask (mode == 1)
      let s1 := if mask == 0 then s
        else logEvent s logSelfTest [(0, 1, mode), (4, 4, mask), (8, 8, r.detail.toNat)]
      let s2 := finish s1 j { status := scOk, cr0 := mask, logged := mask != 0 }
      let s3 := refresh (selfTestUnits s2 mask r)
      let s4 := if bitOf mask 2 || bitOf mask 3 then { s3 with gbl := { s3.gbl with sealFault := true } } else s3
      .next (settle (if mask &&& 0x23F != 0 then enterFailed s4 causeSelfTest 0 (!bitOf mask 2) else s4))

end Sys2Proof.Machine
end

