-- ==== Sys2Proof/Machine/Images.lean ====
section
/-! DEFINITION. The admin commands that load images, START_CALIBRATION and the Host Map Store (R327, R330, R510, R535 to R537, R568,
R670). -/

namespace Sys2Proof.Machine

/-- A refused image: IMAGE_REFUSED with its kind and the check that failed, and the status (Table 21-3). -/
def refuseImage (s : State) (j : Job) (kind check status : Nat) : State :=
  finish (logEvent s logImageRefused [(0, 1, kind), (1, 1, check)]) j { status := status, logged := true }

/-- The image bytes of an entry; none where their fetch fails. -/
def imageBytes (s : State) (b : Bus) (j : Job) : Option (List Byte) := if j.sglErr then none else gather s b j.segs

/-! ## LOAD_PROFILE (R510) -/

/-- The first check of R510 that fails, by its row, with its status. -/
def profileCheck (s : State) (persist : Bool) (b : List Byte) : Option (Nat × Nat) :=
  let same := s.sys.profiles.find? (fun q => pfId q == pfId b)
  if !profileCrcOk b then some (2, scCrcMismatch)
  else if !profileOk b then some (3, scOutOfRange)
  else if persist && same.any (fun q => decide (pfRevision b ≤ pfRevision q) && q != b) then some (4, scOutOfRange)
  else if persist && same.isNone && 32 ≤ s.sys.profiles.length then some (5, scNoSpace)
  else none

/-- LOAD_PROFILE (R510). -/
def execLoadProfile (count : Word) (bus : Bus) (s : State) : Host.Outcome State Fault Refusal :=
  match adminJob s count opLoadProfile with
  | none => .next s
  | some j =>
    let persist := bitOf (eAttr j.bytes) 0
    if eLen j.bytes != 512 then .next (refuseImage s j 3 1 scOutOfRange)
    else
      let s0 := absorbBus s bus
      match imageBytes s0 bus j with
      | none => .next (finishBus s0 j)
      | some b =>
        match profileCheck s0 persist b with
        | some (row, st) => .next (refuseImage s0 j 3 row st)
        | none =>
          if !persist then .next (finishOk s0 j (pfId b))
          else .next (finishSaved { s0 with sys := { s0.sys with
            profiles := s0.sys.profiles.filter (fun q => pfId q != pfId b) ++ [b] } } j (pfId b))

/-! ## LOAD_MICROCODE (R535 to R537) -/

/-- The signature over all but the last 64 bytes verifies under a key (R535, R670). -/
def imageSigned (key : BitVec 520) (b : List Byte) : Bool :=
  64 ≤ b.length &&
  ecdsaVerify (beBytes 65 key.toNat) (sha256 (b.take (b.length - 64))) (BitVec.ofNat 512 (beVal (b.drop (b.length - 64))))

/-- The first check of Table 16-6 from its second row on that fails, by its row, with its status. -/
def ucodeCheck (s : State) (b : List Byte) : Option (Nat × Nat) :=
  let u := imgUcode b
  if b.length < 340 || !imageSigned Config.patchKey b then some (2, scAccessDenied)
  else if fieldAt b 14 1 < s.mcTherm then some (3, scAccessDenied)
  else if !imgFormatOk b then some (4, scOutOfRange)
  else if !u.words.all imgWordOk then some (5, scOutOfRange)
  else if !imgTablesOk u then some (6, scOutOfRange)
  else if s.gbl.fwVersion.toNat < u.minFw then some (7, scOutOfRange)
  else if !spidsKept (s.micro.bank s.activeBank) u then some (8, scOutOfRange)
  else if !s.oneBank then some (9, scNotReady)
  else none

/-- The image goes into the standby bank and becomes the candidate (R537). -/
def loadStandby (s : State) (u : Ucode) : State :=
  let b := !s.activeBank
  { s with
    micro := { s.micro.putBank b (some u) with reloading := if s.micro.reloading == some b then none else s.micro.reloading }
    sys := { s.sys with candidate := some u } }

/-- LOAD_MICROCODE (R173, R423, R536, R537). -/
def execLoadMicrocode (count : Word) (bus : Bus) (s : State) : Host.Outcome State Fault Refusal :=
  match adminJob s count opLoadMicrocode with
  | none => .next s
  | some j =>
    let len := eLen j.bytes
    if !j.window && !s.prot.policy.getLsbD 5 then .next (refuseImage s j 2 1 scAccessDenied)
    else if len < 340 then .next (refuseImage s j 2 2 scAccessDenied)
    else if maxXfer < len then .next (finishWith s j scOutOfRange)
    else
      let s0 := absorbBus s bus
      match imageBytes s0 bus j with
      | none => .next (finishBus s0 j)
      | some b =>
        match ucodeCheck s0 b with
        | some (row, st) => .next (refuseImage s0 j 2 row st)
        | none => .next (finishSaved (loadStandby s0 (imgUcode b)) j (imgUcode b).version)

/-! ## COMMIT_FIRMWARE (R301, R670) -/

/-- The header of a firmware image (Table 20-12). -/
def fwHeaderOk (b : List Byte) : Bool :=
  fieldAt b 0 4 == 0x57465A51 && fieldAt b 4 2 == 1 && fieldAt b 6 2 == 128 && fieldAt b 8 4 == b.length &&
  4096 ≤ b.length && b.length ≤ 8388608

/-- COMMIT_FIRMWARE: an image that passes is written over the slot not running (R173, R423, R670). -/
def execCommitFirmware (count : Word) (bus : Bus) (s : State) : Host.Outcome State Fault Refusal :=
  match adminJob s count opCommitFirmware with
  | none => .next s
  | some j =>
    if !j.window && !s.prot.policy.getLsbD 6 then .next (refuseImage s j 1 1 scAccessDenied)
    else if maxXfer < eLen j.bytes then .next (finishWith s j scOutOfRange)
    else if earlierRuns s j opCommitFirmware then .next (finishWith s j scNotReady)
    else
      let s0 := absorbBus s bus
      match imageBytes s0 bus j with
      | none => .next (finishBus s0 j)
      | some b =>
        let level := fieldAt b 14 1
        if !imageSigned Config.firmwareKey b then .next (refuseImage s0 j 1 2 scAccessDenied)
        else if level < s0.fwTherm then .next (refuseImage s0 j 1 3 scAccessDenied)
        else if !fwHeaderOk b then .next (refuseImage s0 j 1 4 scOutOfRange)
        else
          let slot : Option FwSlot := some ⟨fieldAt b 12 2, level, true⟩
          let sys := if s0.sys.runB then { s0.sys with fwA := slot } else { s0.sys with fwB := slot }
          .next (finishSaved { s0 with sys := sys } j (fieldAt b 12 2))

/-! ## START_CALIBRATION (R192, R559, R568) -/

/-- START_CALIBRATION: it requests each kind of ATTR and completes once every run it requested has ended (R568). -/
def execStartCalibration (count : Word) (s : State) : Host.Outcome State Fault Refusal :=
  match adminJob s count opStartCalibration with
  | none => .next s
  | some j =>
    let s1 := (bitList 3 (eAttr j.bytes)).foldl requestKind s
    .next (settle (setJob s1 { j with phase := .calibrating }))

/-! ## Host Map Store (R327, R330, R346) -/

/-- ATTACH_MAP_STORE: its descriptors are read before R295 decides among the refusals (R295, R301, R327, R331). -/
def execAttachMapStore (count : Word) (bus : Bus) (s : State) : Host.Outcome State Fault Refusal :=
  match adminJob s count opAttachMapStore with
  | none => .next s
  | some j =>
    let n := eLen j.bytes
    if !s.gbl.fullService then .next (finishWith s j scFootingOnly)
    else if s.phb || n == 0 || 64 < n then .next (finishWith s j scOutOfRange)
    else
      let busy := s.hmap.attached || earlierRuns s j opDetachMapStore
      let s0 := absorbBus s bus
      match imageBytes s0 bus j with
      | none => .next (if busy then finishWith s0 j scNotReady else finishBus s0 j)
      | some b =>
        let es := (List.range n).map (regionAt b)
        if !regionsOk es then .next (finishWith s0 j scOutOfRange)
        else if busy then .next (finishWith s0 j scNotReady)
        else
          let rs := acceptRegions s0 bus es
          if rs.isEmpty then .next (finishBus s0 j)
          else
            let s1 := (List.range (es.length - rs.length)).foldl (fun s _ => countBus s) s0
            .next (finishOk (attachMap s1 rs) j rs.length)

/-- DETACH_MAP_STORE: it completes once the device accesses no region; a scrub under way is abandoned (R330, R346). -/
def execDetachMapStore (count : Word) (s : State) : Host.Outcome State Fault Refusal :=
  match adminJob s count opDetachMapStore with
  | none => .next s
  | some j =>
    if !s.gbl.fullService then .next (finishWith s j scFootingOnly)
    else .next (finishOk (if s.hmap.attached then detachMap s else s) j 0)

end Sys2Proof.Machine
end

