-- ==== Sys2Proof/Machine/PciConfig.lean ====
section
/-! DEFINITION. The configuration space of the function (R166, Tables 6-28 and 6-29). The layout of the header and of each structure is that
of PCI Express Base 4.0 (PRESUMED, log 44); the values are the spec's. Dwords are numbered: dword n stands at offset 4 × n. -/

namespace Sys2Proof.Machine

/-- A capability header of PCI-compatible space: ID, the offset of the next, and the 16 bits beside it. -/
def capHead (id next word : Nat) : Nat := id + next * 2 ^ 8 + word * 2 ^ 16

/-- An extended capability header: ID, version, the offset of the next. -/
def extHead (id version next : Nat) : Nat := id + version * 2 ^ 16 + next * 2 ^ 20

/-- The bits of a dword that are RW in structures that have no field of their own in `Pcie`. -/
def cfgMask (n : Nat) : Nat :=
  match n with
  | 0x001 => 0x00000544          -- Command: bus master, parity response, SERR, INTx disable
  | 0x003 => 0x000000FF          -- Cache Line Size
  | 0x004 => 0xFFFFF000          -- BAR0, 4 KiB
  | 0x005 => 0xFFFF8000          -- BAR1, 32 KiB
  | 0x006 => 0xFFFFC000          -- BAR2 and BAR3, 16 KiB
  | 0x007 => 0xFFFFFFFF
  | 0x008 => 0xFC000000          -- BAR4 and BAR5, 64 MiB
  | 0x009 => 0xFFFFFFFF
  | 0x011 => 0x00000100          -- PME_En
  | 0x022 => 0x0000FFFF          -- Device Control, less Initiate FLR
  | 0x024 => 0x000000C3          -- Link Control: ASPM, common clock, extended sync
  | 0x02A => 0x0000001F          -- Device Control 2: completion time-out
  | 0x02C => 0x0000000F          -- Link Control 2: target speed
  | 0x042 => 0x07FFF030          -- Uncorrectable mask
  | 0x043 => 0x07FFF030          -- Uncorrectable severity
  | 0x045 => 0x0000F1C1          -- Correctable mask
  | 0x046 => 0x00000140          -- ECRC generation and checking enables
  | 0x057 => 0x00000003          -- Link Control 3
  | 0x074 => 0xE3FFFF0F          -- L1 PM Substates Control 1
  | 0x075 => 0x000000FB          -- L1 PM Substates Control 2
  | _ => 0

/-- The bits of a dword that never change: the identity of Table 6-28 and the choices of Table 6-29. -/
def cfgFixed (serial : List Byte) (n : Nat) : Nat :=
  match n with
  | 0x000 => 0x70401D7A
  | 0x001 => 0x00100000                                  -- Status: capability list
  | 0x002 => 0x018000B1
  | 0x006 => 0x00000004                                  -- 64-bit
  | 0x008 => 0x0000000C                                  -- 64-bit, prefetchable
  | 0x00B => 0x70401D7A
  | 0x00D => 0x00000040
  | 0x010 => capHead 0x01 0x50 0x4003                    -- PME from D3hot
  | 0x011 => 0x00000008                                  -- No_Soft_Reset
  | 0x014 => capHead 0x05 0x70 0x018A                    -- 64-bit, per-vector masking, 32 messages
  | 0x01C => capHead 0x11 0x80 1023
  | 0x01D => 0x00000001                                  -- table: BAR1 at 0x0000
  | 0x01E => 0x00004001                                  -- Pending Bit Array: BAR1 at 0x4000
  | 0x020 => capHead 0x10 0x00 0x0002                    -- endpoint, version 2
  | 0x021 => 0x10008022                                  -- payload 512 B, 8-bit tags as requester, FLR
  | 0x023 => 0x00400844                                  -- 16.0 GT/s, x4, ASPM L1 only
  | 0x029 => 0x00010000                                  -- 10-bit tags as completer
  | 0x02B => 0x0000001E                                  -- 2.5 to 16.0 GT/s
  | 0x040 => extHead 0x0001 2 0x148
  | 0x052 => extHead 0x0003 1 0x158
  | 0x053 => leVal (bytesAt serial 0 4)
  | 0x054 => leVal (bytesAt serial 4 4)
  | 0x056 => extHead 0x0019 1 0x178
  | 0x05E => extHead 0x0026 1 0x1A8
  | 0x06A => extHead 0x0027 1 0x1C8
  | 0x072 => extHead 0x001E 1 0x000
  | 0x073 => 0x0000001F                                  -- L1.1 and L1.2, ASPM and PCI-PM
  | _ => 0

/-- The bits of a dword that follow the function's own fields. -/
def Pcie.cfgLive (p : Pcie) (n : Nat) : Nat :=
  match n with
  | 0x001 => b2n p.mse * 2
  | 0x011 => if p.d3hot then 3 else 0
  | 0x014 => b2n p.msiEn * 2 ^ 16 + Nat.log2 p.msiCount * 2 ^ 20
  | 0x015 => p.msiAddr.toNat % 2 ^ 32
  | 0x016 => p.msiAddr.toNat / 2 ^ 32
  | 0x017 => p.msiData.toNat
  | 0x018 => p.msiMask.toNat
  | 0x019 => p.msiPending.toNat
  | 0x01C => b2n p.msixFuncMask * 2 ^ 30 + b2n p.msixEn * 2 ^ 31
  | 0x024 => p.gen.val * 2 ^ 16 + [0, 1, 2, 4, 4].getD p.lanes.val 0 * 2 ^ 20
  | _ => 0

/-- Store the RW bits of a dword. -/
def Pcie.putDword (p : Pcie) (n : Nat) (v : Word) : Pcie :=
  let w := v &&& BitVec.ofNat 32 (cfgMask n)
  { p with config := if w = 0 then tdel p.config n else tput p.config n w }

/-- A write of a whole dword: the fields of the function first, then the bits that have none. -/
def Pcie.writeDword (p : Pcie) (n : Nat) (v : Word) : Pcie :=
  let q := p.putDword n v
  match n with
  | 0x001 => { q with mse := v.getLsbD 1 }
  | 0x011 => if v.toNat % 4 == 3 then { q with d3hot := true } else if v.toNat % 4 == 0 then { q with d3hot := false } else q
  | 0x014 => { q with msiEn := v.getLsbD 16, msiCount := 2 ^ min 5 (bitsOf v.toNat 22 20) }
  | 0x015 => { q with msiAddr := BitVec.ofNat 64 (q.msiAddr.toNat / 2 ^ 32 * 2 ^ 32 + v.toNat / 4 * 4) }
  | 0x016 => { q with msiAddr := BitVec.ofNat 64 (q.msiAddr.toNat % 2 ^ 32 + v.toNat * 2 ^ 32) }
  | 0x017 => { q with msiData := v.truncate 16 }
  | 0x018 => { q with msiMask := v }
  | 0x01C => { q with msixFuncMask := v.getLsbD 30, msixEn := v.getLsbD 31 }
  | _ => q

/-- A configuration read of a dword; none where the function answers with retry status (R106, R417). Device Serial Number is bytes 0 to 7
of KEY_ID (Table 6-28). -/
def State.readConfig (s : State) (n : Nat) : Option Nat :=
  if s.pcie.crs then none
  else some (cfgFixed s.keyId n + s.pcie.cfgLive n + ((tget s.pcie.config n).getD 0).toNat)

end Sys2Proof.Machine
end

