-- ==== Sys2Proof/Machine/Pins.lean ====
section
/-! DEFINITION. Events on pins and rails: PFAIL_N, VDD_CORE, SYSCLK, the flash rails, presence, and the fences of the power
domains (chapters 3, 4, 12). -/

namespace Sys2Proof.Machine

/-- PE_WAKE_N asserted for the causes of R115, in PCIe mode; not while RESET_N holds the ball in its reset state (R73). -/
def assertWake (s : State) : State :=
  if s.phb || !s.pins.resetN then s else { s with pins := { s.pins with wake := true } }

/-- PFAIL_ASSERT: PFAIL_N has been low for 500 ns; the power-fail sequence starts and PE_WAKE_N asserts (R81, R115, R390). -/
def execPfailAssert (s : State) : Host.Outcome State Fault Refusal :=
  if !s.pins.vaon then .next s
  else
    let s1 := assertWake { s with pins := { s.pins with pfailN := false } }
    .next (startPowerFail s1 1)

/-- PFAIL_DEASSERT: PFAIL_N is high again; PWR_STATUS.PFAIL clears and a running sequence goes on to the park (R405, R746). -/
def execPfailDeassert (s : State) : Host.Outcome State Fault Refusal :=
  .next { s with pins := { s.pins with pfailN := true } }

/-- VDD_CORE_LOW: VDD_CORE below 0.71 V for more than 1 µs is no longer valid, and starts the sequence while PFAIL_N is
deasserted (R99, R654). -/
def execVddCoreLow (s : State) : Host.Outcome State Fault Refusal :=
  let s1 := { s with pins := { s.pins with vddCore := false } }
  if s.pins.pfailN then .next (startPowerFail s1 2) else .next s1

/-- SYSCLK_LOSS: the device runs the power-fail sequence on the backup oscillator, ignores GBL_TICK and enters FAILED with
CLOCK_LOSS (R100, R136). -/
def execSysclkLoss (s : State) : Host.Outcome State Fault Refusal :=
  if !s.gbl.coreOn || s.gbl.clockLost then .next s
  else
    let s1 := startPowerFail { s with gbl := { s.gbl with clockLost := true } } 4
    .next (enterFailed s1 causeClockLoss 0)

/-- THERMAL_CRITICAL: Tj has been held at 125 °C for 10 ms; the device runs the power-fail sequence and enters HALTED with
THERMAL; PE_WAKE_N asserts (R114, R115, R137). In FAILED the sequence runs too, and the device stays FAILED (R390, Table 1-4). -/
def execThermalCritical (s : State) : Host.Outcome State Fault Refusal :=
  if !s.gbl.coreOn || s.gbl.thermStep == 5 then .next s
  else
    let s1 := setIrq (assertWake { s with gbl := { s.gbl with thermStep := 5 } }) irqThermal
    .next (enterHalted (startPowerFail s1 5) causeThermal 0)

/-- RAIL_LOSS: a present VDDQ_FLx rail falls below the absent threshold; the bank's four channels go offline until the next
reset (R96, R459, R575). A bank lost before the probe is not brought up by it. -/
def execRailLoss (bank : Fin 4) (s : State) : Host.Outcome State Fault Refusal :=
  if !s.gbl.coreOn || !s.aon.rails.bankPresent.getLsbD bank.val then .next s
  else
    let s1 := { s with pins := { s.pins with railLost := putBit s.pins.railLost bank.val true } }
    .next (if s.gbl.failed then s1 else [0, 1, 2, 3].foldl (fun s k => takeOffline s (4 * bank.val + k) 1) s1)

/-- PRESENCE_CHANGE: the CAS_x_PRSNT_N balls take new levels; PRESENT and PRESENCE_CHG follow, the CAS domain wakes, and a
gain asserts PE_WAKE_N and starts the port's training delay (R115, R608, R610, R633). Without CAS_AVDD the balls are
ignored (Table 3-17). -/
def execPresenceChange (present : BitVec 3) (s : State) : Host.Outcome State Fault Refusal :=
  let old := s.pins.present
  let s1 := { s with pins := { s.pins with present := present } }
  let chg := old ^^^ present
  if !s.gbl.coreOn || !s.aon.rails.cas || chg = 0 then .next s1
  else
    let s2 := setIrq { s1 with cas := { s1.cas with
      event := s1.cas.event ||| chg.zeroExtend 8
      ports := Vector.ofFn (fun i =>
        let p := s1.cas.ports[i]
        if !chg.getLsbD i.val then p
        else if present.getLsbD i.val then { p with presentAt := some s1.gbl.tick, lostAt := none, roleLogged := false }
        else { p with presentAt := none, training := false
                      lostAt := some (p.lostAt.getD s1.gbl.tick) }) } } irqCascade
    let s3 := wakeDomain s2 5
    .next (if present &&& ~~~old ≠ 0 then assertWake s3 else s3)

/-! ## Domains and fences (R107 to R109, R134, Table 4-5) -/

/-- An ATTEST is outstanding: consumed and not answered, or asked of another device (Table 4-5, R619). -/
def State.attesting (s : State) : Bool := s.queues.jobs.any (fun j => j.op == opAttest) || !s.cas.attests.isEmpty

/-- Whether domain `d` has work past its fence: a Mason's routine or posted command, a signature, a trained port (R107, R148). -/
def State.domBusy (s : State) (d : Nat) : Bool :=
  if d == 4 then !s.streams.sign.isEmpty || s.attesting
  else if d == 5 then s.cas.ports.toList.any (·.trained)
  else if 6 ≤ d then (s.micro.masons.toList[d - 6]?).any (fun m => m.routine.isSome || m.posted.isSome)
  else false

/-- The condition Table 4-5 sets for gating domain `d` on the device's own decision. -/
def gateCond (s : State) (d : Nat) (power : Bool) : Bool :=
  if d == 2 then !s.phb && (if power then s.pcie.link == .l12 || s.pcie.link == .l2
                            else s.pcie.link == .l1 || s.pcie.link == .l11 || s.pcie.d3hot)
  else if d == 3 then !power
  else if d == 4 then !power || s.openStreams == 0
  else if d == 5 then power && s.pins.present == 0
  else if 6 ≤ d then !power || !s.media.luns.any (fun l => keyCh l.1 + 6 == d && l.2.op != .idle)
  else false

/-- The device may gate domain `d` now: the enable its idle period began under (R194), its condition, and nothing past its fence
(R107). -/
def mayGate (s : State) (d : Fin 22) (power : Bool) : Bool :=
  (if power then (s.doms[d]).mayPower else (s.doms[d]).mayClock) && gateCond s d.val power && !s.domBusy d.val

/-- DOMAIN_GATE: a domain's idle time has expired; its fence closes, it drains, and it is gated. `packets`: what reaches the fence after it
closed, which parks, or stalls beyond 32, and raises the wake. A domain with packets parked is not gated: the wake wins (R107, R108,
R134). -/
def execDomainGate (d : Fin 22) (power : Bool) (packets : List Nat) (s : State) : Host.Outcome State Fault Refusal :=
  let x := s.doms[d]
  let target := if power then DomMode.powerGated else DomMode.clockGated
  if !s.gbl.coreOn || x.mode == .offUntilReset || x.mode == .powerGated || x.mode == target || !x.parked.isEmpty || !mayGate s d power ||
    s.energy.pfSeq then .next s
  else .next { s with doms := s.doms.set d (packets.foldl Domain.park { x with mode := target, fenceClosed := true }) }

/-- DOMAIN_WAKE: the domain is ON again; the fence reopens, and the packets parked at it, those that arrive meanwhile and those of stalled
senders are delivered in arrival order, ahead of later ones (R107 to R109). A domain off until reset returns them with an error and
does not wake (R110). -/
def execDomainWake (d : Fin 22) (packets : List Nat) (s : State) : Host.Outcome State Fault Refusal :=
  let x := s.doms[d]
  if !s.gbl.coreOn then .next s
  else if x.mode == .offUntilReset then .next { s with doms := s.doms.set d { x with returned := x.returned ++ packets } }
  else .next { s with doms := s.doms.set d ((packets.foldl Domain.park x).woken s.pwr d.val) }

end Sys2Proof.Machine
end

