-- ==== Sys2Proof/Machine/Balls.lean ====
section
/-! DEFINITION. The 900 balls of the package: what each carries (Tables 3-2 to 3-16), the state in which the device holds it (R72 to R74,
R76), and the boundary register over the scanned ones (R82, R83). -/

namespace Sys2Proof.Machine

/-- The signals of Tables 3-6 to 3-16. -/
inductive Sig where
  | flDq (ch : Fin 16) (i : Fin 8) | flDqsT (ch : Fin 16) | flDqsC (ch : Fin 16) | flReT (ch : Fin 16) | flReC (ch : Fin 16)
  | flWeN (ch : Fin 16) | flCle (ch : Fin 16) | flAle (ch : Fin 16) | flCeN (ch : Fin 16) (i : Fin 8)
  | flWpN (bank : Fin 4) | flZq (bank : Fin 4)
  | peTxP (lane : Fin 4) | peTxN (lane : Fin 4) | peRxP (lane : Fin 4) | peRxN (lane : Fin 4)
  | peRefclkP | peRefclkN | pePerstN | peWakeN | peClkreqN | peRcal
  | phbAd (i : Fin 32) | phbClk | phbCsN | phbAdvN | phbWeN | phbWaitN | phbBeN (i : Fin 4) | phbIrqN (i : Fin 4)
  | dramDq (b : Fin 2) (i : Fin 16) | dramDqsT (b i : Fin 2) | dramDqsC (b i : Fin 2) | dramDmi (b i : Fin 2)
  | dramCkT (b : Fin 2) | dramCkC (b : Fin 2) | dramCke (b i : Fin 2) | dramCs (b i : Fin 2) | dramCa (b : Fin 2) (i : Fin 6)
  | dramResetN | dramZq
  | casTxP (port : Fin 3) | casTxN (port : Fin 3) | casRxP (port : Fin 3) | casRxN (port : Fin 3) | casPrsntN (port : Fin 3)
  | casRcal
  | mspSck | mspCsN | mspMosi | mspMiso | pfailN | pwrSafe | resetN | vholdSense | vholdGnd | sysclkXi | sysclkXo
  | evtIn (i : Fin 4) | evtOut (i : Fin 4) | tck | tms | tdi | tdo | trstN | testEn | strap (i : Fin 8)
  deriving DecidableEq, Repr

/-- The rails of Table 3-15, and VSS. -/
inductive Rail where
  | vddCore | vaon | vddIo | vddqFl (bank : Fin 4) | vdd2Dram | vddqDram | vddPhb | peAvdd | peAvddh | casAvdd | vss
  deriving DecidableEq, Repr

/-- What a ball carries: no ball is reserved or unconnected (R72). -/
inductive Ball where
  | sig (x : Sig)
  | rail (r : Rail)
  deriving DecidableEq, Repr

/-! ## Ball assignment (Tables 3-2 and 3-5 to 3-15) -/

/-- The rail of bank of channel `ch`. -/
def bankRail (ch : Fin 16) : Rail := .vddqFl (Fin.ofNat 4 (ch.val / 4))

/-- Table 3-5, with the ZQ and WP_N of the four channels that carry their bank's. -/
def channelBall (ch : Fin 16) (row col : Nat) : Ball :=
  let bank : Fin 4 := Fin.ofNat 4 (ch.val / 4)
  let q := Ball.rail (bankRail ch)
  let g := Ball.rail .vss
  let dq := fun i => Ball.sig (.flDq ch (Fin.ofNat 8 i))
  let ce := fun i => Ball.sig (.flCeN ch (Fin.ofNat 8 i))
  let first := ch.val % 4 == 0
  match row, col with
  | 0, 4 => g
  | 0, c => dq c
  | 1, 4 => q
  | 1, c => dq (4 + c)
  | 2, 0 => .sig (.flDqsT ch)
  | 2, 1 => .sig (.flDqsC ch)
  | 2, 2 => g
  | 2, 3 => .sig (.flReT ch)
  | 2, _ => .sig (.flReC ch)
  | 3, 0 => .sig (.flWeN ch)
  | 3, 1 => .sig (.flCle ch)
  | 3, 2 => .sig (.flAle ch)
  | 3, 3 => q
  | 3, _ => if first then .sig (.flZq bank) else g
  | 4, 4 => q
  | 4, c => ce c
  | _, 4 => if first then .sig (.flWpN bank) else g
  | _, c => ce (4 + c)

/-- The channel of a block of six rows by five columns (Table 3-2). -/
def blockChannel (band side : Nat) : Option (Fin 16) :=
  if band == 0 then none
  else if side == 0 then some (Fin.ofNat 16 (band - 1))
  else if band == 4 then some (Fin.ofNat 16 (3 + side))
  else if side == 5 then some (Fin.ofNat 16 (12 - band))
  else if band == 3 then some (Fin.ofNat 16 (11 + side))
  else none

/-- Rows A to F of columns 1 to 5 (Tables 3-10 and 3-15). -/
def pcieBalls : List (List Ball) :=
  let g := Ball.rail .vss
  let s := Ball.sig
  [[s (.peTxP 0), s (.peTxN 0), g, s (.peTxP 1), s (.peTxN 1)],
   [s (.peRxP 0), s (.peRxN 0), g, s (.peRxP 1), s (.peRxN 1)],
   [g, g, s .peRefclkP, s .peRefclkN, g],
   [s (.peTxP 2), s (.peTxN 2), g, s (.peTxP 3), s (.peTxN 3)],
   [s (.peRxP 2), s (.peRxN 2), g, s (.peRxP 3), s (.peRxN 3)],
   [s .pePerstN, s .peWakeN, s .peClkreqN, s .peRcal, g]]

/-- Rows A to F of columns 6 to 15 (Tables 3-11 and 3-15). -/
def phbBalls : List (List Ball) :=
  let g := Ball.rail .vss
  let v := Ball.rail .vddPhb
  let s := Ball.sig
  let ad := fun k => (List.range 8).map (fun i => s (.phbAd (Fin.ofNat 32 (8 * k + i))))
  [ad 0 ++ [v, g], ad 1 ++ [g, v], ad 2 ++ [v, g], ad 3 ++ [g, v],
   [s .phbClk, g, s .phbCsN, s .phbAdvN, s .phbWeN, s .phbWaitN, s (.phbBeN 0), s (.phbBeN 1), s (.phbBeN 2), s (.phbBeN 3)],
   [s (.phbIrqN 0), s (.phbIrqN 1), s (.phbIrqN 2), s (.phbIrqN 3), v, g, v, g, v, g]]

/-- Rows A to M of one DRAM channel's five columns (Tables 3-12 and 3-15). -/
def dramBalls (b : Fin 2) : List (List Ball) :=
  let g := Ball.rail .vss
  let q := Ball.rail .vddqDram
  let v := Ball.rail .vdd2Dram
  let s := Ball.sig
  let dq := fun i => s (.dramDq b (Fin.ofNat 16 i))
  let ca := fun i => s (.dramCa b (Fin.ofNat 6 i))
  [[dq 0, dq 1, g, dq 2, dq 3],
   [s (.dramDqsT b 0), s (.dramDqsC b 0), q, s (.dramDmi b 0), g],
   [dq 4, dq 5, g, dq 6, dq 7],
   [q, g, q, g, q],
   [dq 8, dq 9, g, dq 10, dq 11],
   [s (.dramDqsT b 1), s (.dramDqsC b 1), q, s (.dramDmi b 1), g],
   [dq 12, dq 13, g, dq 14, dq 15],
   [v, g, v, g, v],
   [s (.dramCkT b), s (.dramCkC b), g, s (.dramCke b 0), s (.dramCke b 1)],
   [s (.dramCs b 0), s (.dramCs b 1), v, ca 0, ca 1],
   [ca 2, ca 3, g, ca 4, ca 5],
   [if b == 0 then s .dramResetN else s .dramZq, v, g, v, g]]

/-- Rows A to F of columns 26 to 30 (Tables 3-13 and 3-15). -/
def linkBalls : List (List Ball) :=
  let g := Ball.rail .vss
  let v := Ball.rail .casAvdd
  let s := Ball.sig
  let lane := fun (p : Fin 3) => [s (.casTxP p), s (.casTxN p), g, s (.casRxP p), s (.casRxN p)]
  [lane 0, [g, g, v, g, g], lane 1, [g, g, v, g, g], lane 2,
   [s (.casPrsntN 0), s (.casPrsntN 1), v, s (.casPrsntN 2), s .casRcal]]

/-- Rows G to M of columns 6 to 15 (Tables 3-14 to 3-16). -/
def controlBalls : List (List Ball) :=
  let g := Ball.rail .vss
  let c := Ball.rail .vddCore
  let io := Ball.rail .vddIo
  let s := Ball.sig
  [[s .mspSck, s .mspCsN, s .mspMosi, s .mspMiso, .rail .vaon, s .pfailN, s .pwrSafe, s .resetN, s .vholdSense, s .vholdGnd],
   [g, .rail .vaon, g, s .sysclkXi, s .sysclkXo, g, s (.strap 0), s (.strap 1), s (.strap 2), s (.strap 3)],
   [s (.evtIn 0), s (.evtIn 1), s (.evtIn 2), s (.evtIn 3), io, s (.evtOut 0), s (.evtOut 1), s (.evtOut 2), s (.evtOut 3), g],
   [s .tck, s .tms, s .tdi, s .tdo, s .trstN, s .testEn, io, g, .rail .peAvddh, .rail .peAvddh],
   [s (.strap 4), s (.strap 5), s (.strap 6), s (.strap 7), io, .rail .peAvdd, .rail .peAvdd, .rail .peAvdd, .rail .peAvdd, g],
   [g, c, g, c, io, c, g, c, g, g]]

/-- The entry of a region's table. -/
def regionBall (t : List (List Ball)) (row col : Nat) : Ball := (((t[row]?).getD [])[col]?).getD (.rail .vss)

/-- The ball at a row, 0 for A to 29 for AL, and a column, 0 for column 1 to 29 for column 30. -/
def ballAt (row col : Nat) : Ball :=
  match blockChannel (row / 6) (col / 5) with
  | some ch => channelBall ch (row % 6) (col % 5)
  | none =>
    if row / 6 == 2 then .rail (if (row + col) % 2 == 1 then .vddCore else .vss)
    else if 15 ≤ col && col < 20 then regionBall (dramBalls 0) row (col - 15)
    else if 20 ≤ col && col < 25 then regionBall (dramBalls 1) row (col - 20)
    else if 25 ≤ col then regionBall linkBalls row (col - 25)
    else if 6 ≤ row then regionBall controlBalls (row - 6) (col - 5)
    else if col < 5 then regionBall pcieBalls row col
    else regionBall phbBalls row (col - 5)

/-- The balls of one row. -/
def rowBalls (row : Nat) : List Ball := (List.range 30).map (ballAt row)

/-- All balls, row by row from A-1 to AL-30. -/
def allBalls : List Ball := (List.range 30).flatMap rowBalls

/-! ## Reset states (R73, Tables 3-6 to 3-14) -/

/-- How the device holds a ball. -/
inductive Drive where
  | hiZ | pullUp | pullDown | low | high
  /-- A transmitter in electrical idle; a receiver without termination. -/
  | idle | unterminated
  /-- Carries a clock, lane traffic, or the serial data of the moment. -/
  | runs
  /-- An analog ball. -/
  | analog
  deriving DecidableEq, Repr

/-- The rail of a signal. -/
def Sig.rail : Sig → Rail
  | .flDq ch _ | .flDqsT ch | .flDqsC ch | .flReT ch | .flReC ch | .flWeN ch | .flCle ch | .flAle ch | .flCeN ch _ => bankRail ch
  | .flWpN b | .flZq b => .vddqFl b
  | .peTxP _ | .peTxN _ | .peRxP _ | .peRxN _ | .peRcal => .peAvdd
  | .peRefclkP | .peRefclkN => .peAvddh
  | .phbAd _ | .phbClk | .phbCsN | .phbAdvN | .phbWeN | .phbWaitN | .phbBeN _ | .phbIrqN _ => .vddPhb
  | .dramDq .. | .dramDqsT .. | .dramDqsC .. | .dramDmi .. | .dramCkT _ | .dramCkC _ | .dramCke .. | .dramCs .. | .dramCa .. | .dramZq =>
    .vddqDram
  | .dramResetN => .vdd2Dram
  | .casTxP _ | .casTxN _ | .casRxP _ | .casRxN _ | .casRcal => .casAvdd
  | .mspSck | .mspCsN | .mspMosi | .mspMiso | .pfailN | .pwrSafe | .resetN | .vholdSense | .vholdGnd => .vaon
  | .pePerstN | .peWakeN | .peClkreqN | .casPrsntN _ | .sysclkXi | .sysclkXo | .evtIn _ | .evtOut _ | .tck | .tms | .tdi | .tdo
  | .trstN | .testEn | .strap _ => .vddIo

/-- The reset state of a signal; High for PWR_SAFE, which is held, and Hi-Z for MSP_MISO while MSP_CS_N is high. -/
def Sig.resetDrive : Sig → Drive
  | .flDq .. | .flDqsT _ | .phbAd _ | .phbClk | .mspSck | .mspMosi | .pfailN | .resetN | .evtIn _ | .tck | .trstN | .testEn
  | .strap _ => .pullDown
  | .flDqsC _ | .phbCsN | .phbAdvN | .phbWeN | .phbBeN _ | .casPrsntN _ | .mspCsN | .tms | .tdi => .pullUp
  | .flReT _ | .flWeN _ | .flCeN .. | .dramCkC _ | .pwrSafe => .high
  | .flReC _ | .flCle _ | .flAle _ | .flWpN _ | .peClkreqN | .dramCkT _ | .dramCke .. | .dramCs .. | .dramCa .. | .dramResetN
  | .evtOut _ => .low
  | .peTxP _ | .peTxN _ | .casTxP _ | .casTxN _ => .idle
  | .peRxP _ | .peRxN _ | .casRxP _ | .casRxN _ => .unterminated
  | .sysclkXi | .sysclkXo => .runs
  | .flZq _ | .peRcal | .dramZq | .casRcal | .vholdSense | .vholdGnd => .analog
  | .peRefclkP | .peRefclkN | .pePerstN | .peWakeN | .phbWaitN | .phbIrqN _ | .dramDq .. | .dramDqsT .. | .dramDqsC .. | .dramDmi ..
  | .mspMiso | .tdo => .hiZ

/-- A rail stands as far as the device knows: VAON, VDD_IO beside it, and the optional rails as classified, less the banks lost since
(R77, R96). Before the first strap latch each counts as valid (DESIGN CHOICE, log 43). -/
def State.railUp (s : State) (r : Rail) : Bool :=
  let c := s.aon.rails
  s.pins.vaon && match r with
  | .vddqFl b => (!s.aon.latched || c.bankPresent.getLsbD b.val) && !s.pins.railLost.getLsbD b.val
  | .vddPhb => !s.aon.latched || c.phbPresent
  | .peAvdd => !s.aon.latched || c.peAvdd
  | .peAvddh => !s.aon.latched || c.peAvddh
  | .vdd2Dram => !s.aon.latched || c.dram2
  | .vddqDram => !s.aon.latched || c.dramQ
  | .casAvdd => !s.aon.latched || c.cas
  | .vddCore => s.pins.vddCore
  | _ => true

/-- Driven low or released, an open-drain output. -/
def openDrain (pulled : Bool) : Drive := if pulled then .low else .hiZ

/-- Low or high. -/
def pushPull (v : Bool) : Drive := if v then .high else .low

/-- What the device's own function puts on a ball while RESET_N is high. A strobe or bus that moves only within a cycle rests in its
reset state between commands. -/
def State.works (s : State) (x : Sig) : Drive :=
  let dram := s.gbl.coreOn && 0 < s.gbl.dramGib.val
  let awake := (s.domMode 3) == .on
  match x with
  | .flCle ch => pushPull (s.mason ch).cle
  | .flAle ch => pushPull (s.mason ch).ale
  | .flCeN ch i => pushPull ((s.mason ch).ce != some i)
  | .flWpN b => pushPull (s.pins.wpN.getLsbD b.val)
  | .peTxP _ | .peTxN _ | .peRxP _ | .peRxN _ =>
    if !s.phb && (s.pcie.training || s.pcie.link != .down) then .runs else x.resetDrive
  | .peWakeN => openDrain s.pins.wake
  | .peClkreqN => openDrain s.pins.clkreq
  | .phbIrqN i => openDrain (s.phbIrq.getLsbD i.val)
  | .dramCkT _ | .dramCkC _ => if dram && awake then .runs else x.resetDrive
  | .dramCke .. => pushPull (dram && awake)
  | .dramResetN => pushPull dram
  | .casTxP p | .casTxN p | .casRxP p | .casRxN p =>
    if (s.cas.ports[p]).training || (s.cas.ports[p]).trained then .runs else x.resetDrive
  | .mspMiso => if s.aon.frame.isSome then .runs else .hiZ
  | .pwrSafe => pushPull s.pins.pwrSafe
  | .sysclkXo => if s.aon.straps.getLsbD 0 then .hiZ else .runs
  | .evtOut i => pushPull (s.pins.evtOut.getLsbD i.val)
  | .strap _ => if s.gbl.strapsCompared then .hiZ else .pullDown
  | _ => x.resetDrive

/-! ## Boundary scan (R82, R83) -/

/-- The balls in the boundary register. -/
def Sig.scanned : Sig → Bool
  | .peTxP _ | .peTxN _ | .peRxP _ | .peRxN _ | .casTxP _ | .casTxN _ | .casRxP _ | .casRxN _ | .peRefclkP | .peRefclkN | .sysclkXi
  | .sysclkXo | .tck | .tms | .tdi | .tdo | .trstN | .testEn => false
  | x => x.resetDrive != .analog

/-- An input-only signal: its output and enable cells have no effect. -/
def Sig.inputOnly : Sig → Bool
  | .pePerstN | .phbClk | .phbCsN | .phbAdvN | .phbWeN | .phbBeN _ | .casPrsntN _ | .mspSck | .mspCsN | .mspMosi | .pfailN | .resetN
  | .evtIn _ | .strap _ => true
  | _ => false

/-- The scanned balls in the order of the register, row by row from A-1; the input cell of the first is nearest TDO. -/
def scanOrder : List Sig :=
  allBalls.filterMap (fun b => match b with
    | .sig x => if x.scanned then some x else none
    | .rail _ => none)

/-- EXTEST, CLAMP or HIGHZ holds the balls (R83, R95). -/
def scanHolds (jtag : BitVec 4) : Bool := jtag == 0 || jtag == 4 || jtag == 5

/-- Place of a signal in the register. -/
def scanIndex (x : Sig) : Nat := scanOrder.idxOf x

/-- What EXTEST, CLAMP and HIGHZ put on a scanned ball: its output cell where its enable cell is 1. -/
def State.scanDrive (s : State) (x : Sig) : Drive :=
  let k := 3 * scanIndex x
  if x.inputOnly then x.resetDrive
  else if s.pins.jtag == 5 || !s.pins.cells.getLsbD (k + 2) then .hiZ
  else pushPull (s.pins.cells.getLsbD (k + 1))

/-- The state of a ball: high impedance without its rail (R74); as boundary scan holds it, or in its reset state, while RESET_N is low
(R73, R83), where PWR_SAFE keeps its level and MSP_MISO follows MSP_CS_N (Table 3-14); and as the device's functions drive it after. -/
def State.ball (s : State) (x : Sig) : Drive :=
  if !s.railUp x.rail then .hiZ
  else if s.pins.resetN then s.works x
  else if scanHolds s.pins.jtag && x.scanned then s.scanDrive x
  else
    match x with
    | .pwrSafe => s.works x
    | .mspMiso => s.works x
    | _ => x.resetDrive

/-- The bit an output cell captures, and its enable. The level of a ball that carries a running clock is a free value (log 2). -/
def Drive.cell (d : Drive) (free : Bool) : Bool × Bool :=
  match d with
  | .low => (false, true)
  | .high => (true, true)
  | .runs => (free, true)
  | _ => (false, false)

/-- The three cells of scanned ball number `i` as captured: its level, then what the device drives. -/
def State.captureBall (s : State) (levels : BitVec 515) (i : Nat) (x : Sig) : List Bool :=
  let c := (s.ball x).cell ((Config.freeWord s.free).getLsbD (i % 64))
  [levels.getLsbD i, c.1, c.2]

/-- A bit vector of 1,545 cells from a list, the first at bit 0. -/
def cellsOf (l : List Bool) : BitVec 1545 := BitVec.ofNat 1545 (l.foldr (fun b n => b2n b + 2 * n) 0)

/-- The boundary register as SAMPLE/PRELOAD or EXTEST captures it, from the levels at the scanned balls. -/
def State.capture (s : State) (levels : BitVec 515) : BitVec 1545 :=
  cellsOf ((scanOrder.mapIdx (fun i x => s.captureBall levels i x)).flatten)

end Sys2Proof.Machine
end

