-- ==== Sys2Proof/Machine/Startup.lean ====
section
/-! DEFINITION. Power-on, RESET_N, the straps, and start-up from t2 to full service (chapters 3, 4, 13). -/

namespace Sys2Proof.Machine

/-! ## Power and RESET_N -/

/-- POWER_ON: VAON is valid; the always-on logic resets, loads the OTP shadow and selects the Settings Record in force, and
enters AON_READY (R414, R664, R667). PWR_SAFE is high and WP_N low (R73, R78). -/
def execPowerOn (s : State) : Host.Outcome State Fault Refusal :=
  if s.pins.vaon then .next s
  else
    let slot := newestSlot s.aon.otp
    let aon := { resetAon s.aon.otp with shadow := s.aon.otp, setInForce := slot, setRec := settingsOf s.aon.otp slot
                                         testEnSeen := s.aon.testEnSeen }
    let s1 := coreReset { s with aon := aon }
    .next { s1 with pins := { resetPins with vaon := true, vddCore := s.pins.vddCore, pfailN := s.pins.pfailN
                                             perstN := s.pins.perstN, present := s.pins.present }
                    gbl := { s1.gbl with state := .aonReady } }

/-- VAON_LOSS: the always-on logic resets as at power-on and holds the core in reset; a running burn stops (R673, R731). -/
def execVaonLoss (s : State) : Host.Outcome State Fault Refusal :=
  if !s.pins.vaon then .next s
  else
    let s0 := match s.aon.frame with
      | some ⟨some (w, v), _, _⟩ => endBurn s w v 1 0
      | _ => s
    let s1 := coreReset { replayPartly s0 with aon := { resetAon s0.aon.otp with testEnSeen := s0.aon.testEnSeen } }
    .next { s1 with pins := { resetPins with vddCore := s.pins.vddCore, pfailN := s.pins.pfailN, perstN := s.pins.perstN
                                             present := s.pins.present } }

/-- RESET_ASSERT: everything outside the always-on logic resets at once; what was not committed is lost as at a power loss
(R103, R104). Balls take their reset state; PWR_SAFE keeps its level (R73, Table 3-14). -/
def execResetAssert (s : State) : Host.Outcome State Fault Refusal :=
  if !s.pins.vaon then .next s
  else
    let s1 := coreReset (replayPartly s)
    .next (syncDisagree { s1 with
      aon := { s1.aon with policy := none }
      pins := { s.pins with resetN := false, deferredRise := false, wpN := 0, wake := false, clkreq := true, evtOut := 0, railLost := 0 }
      gbl := { s1.gbl with state := .reset } })

/-- A rail at or above 40 % of its lowest nominal voltage (R77). -/
def railPresent (mv nominal : Nat) : Bool := decide (nominal * 2 ≤ mv * 5)

/-- Classify the rails (R77): a bank whose class does not match its VSEL strap counts as absent, with the mismatch recorded. -/
def classify (straps : BitVec 8) (r : RailLevels) : RailClass :=
  let banks := [r.bankA, r.bankB, r.bankC, r.bankD]
  let up := fun k => railPresent ((banks[k]?).getD 0) 1200
  let c18 := fun k => decide (1500 ≤ (banks[k]?).getD 0)
  let bad := fun k => up k && c18 k != straps.getLsbD (4 + k)
  let vec := fun (f : Nat → Bool) => BitVec.ofNat 4 (((List.range 4).map (fun k => b2n (f k) * 2 ^ k)).sum)
  { bankPresent := vec (fun k => up k && !bad k), bank18 := vec (fun k => up k && c18 k), vselMismatch := vec bad
    phbPresent := railPresent r.phb 1800, phb33 := railPresent r.phb 1800 && decide (2500 ≤ r.phb)
    peAvdd := railPresent r.peAvdd 800, peAvddh := railPresent r.peAvddh 1800, dram2 := railPresent r.dram2 1100
    dramQ := railPresent r.dramQ 600, cas := railPresent r.cas 800 }

/-- The required rail that is missing, by its lowest DETAIL code (Table 6-7, Table 3-17). -/
def missingRail (straps : BitVec 8) (c : RailClass) : Option Nat :=
  if straps.getLsbD 1 then
    (if !c.phbPresent then some 0
     else if c.phb33 != straps.getLsbD 3 then some 1
     else if !c.dram2 then some 4
     else if !c.dramQ then some 5
     else none)
  else if !c.peAvdd then some 2
  else if !c.peAvddh then some 3
  else none

/-- The rising edge of RESET_N as the device takes it: GBL_TICK at 0, straps latched, rails classified, the Settings Record
selected and its reset values loaded (R75, R77, R84, R667, Table 4-4). Every rail is valid by then (R125). A read-only request written
together with HALT_REQ before this reset applies now (R187, log 11). -/
def latchStraps (s : State) (straps : BitVec 8) (rails : RailLevels) (testEn : Bool) : State :=
  let slot := newestSlot s.aon.shadow
  let rec_ := settingsOf s.aon.shadow slot
  let c := classify straps rails
  let s1 := { s with
    pins := { s.pins with resetN := true, deferredRise := false, vddCore := true }
    aon := { s.aon with straps := straps, rails := c, latched := true, testEnSeen := s.aon.testEnSeen || testEn
                        setInForce := slot, setRec := rec_, roCarry := false }
    gbl := { s.gbl with tick := 0, strapsCompared := false, state := .aonReady, roReq := s.aon.roCarry }
    prot := resetProt rec_
    sys := { s.sys with footInForce := s.sys.footingMib } }
  match missingRail straps c with
  | some d => enterFailed s1 causeRailMissing d
  | none => setCap s1

/-- RESET_RELEASE: RESET_N rises. While EXTEST, CLAMP or HIGHZ is current it is treated as still low (R75, R95). -/
def execResetRelease (straps : BitVec 8) (rails : RailLevels) (testEn : Bool) (s : State) :
    Host.Outcome State Fault Refusal :=
  if !s.pins.vaon || s.pins.resetN || s.pins.deferredRise then .next s
  else if scanHolds s.pins.jtag then .next { s with pins := { s.pins with deferredRise := true } }
  else .next (latchStraps s straps rails testEn)

/-- Act as BYPASS where the code is unassigned, or where EXTEST, CLAMP or HIGHZ is loaded while RESET_N is high (R82, R83). -/
def jtagEffective (resetN : Bool) (code : BitVec 4) : BitVec 4 :=
  if code == 2 then 2 else if scanHolds code && !resetN then code else 0xF

/-- The boundary register after an instruction is loaded: SAMPLE/PRELOAD and EXTEST capture it, and the cells shifted in while one of
them is current are updated (R82, R83). -/
def scanPins (s : State) (j : BitVec 4) (cells : BitVec 1545) (levels : BitVec 515) : Pins :=
  if j == 2 || j == 0 then { s.pins with jtag := j, captured := s.capture levels, cells := cells } else { s.pins with jtag := j }

/-- BOUNDARY_SCAN_INSTRUCTION: an instruction update, or Test-Logic-Reset (none). The instruction register shifts out the 0b0001 it
captures. `cells`: what is shifted into the boundary register under the instruction; `levels`: the scanned balls. Leaving EXTEST, CLAMP
or HIGHZ after a deferred RESET_N rise latches the straps (R82, R83, R95). -/
def execBoundaryScanInstruction (code : Option (BitVec 4)) (cells : BitVec 1545) (levels : BitVec 515) (straps : BitVec 8)
    (rails : RailLevels) (testEn : Bool) (s : State) : Host.Outcome State Fault Refusal :=
  let j := jtagEffective s.pins.resetN (code.getD 0xF)
  let p := scanPins s j cells levels
  let s1 := { s with pins := { p with irOut := if code.isSome then 1 else p.irOut }, free := s.free + 1 }
  if s.pins.deferredRise && !scanHolds j then .next (latchStraps s1 straps rails testEn) else .next s1

/-- STRAP_COMPARE: 100 SYSCLK cycles after the rise the straps are compared with their latched values (R75, R94). -/
def execStrapCompare (levels : BitVec 8) (s : State) : Host.Outcome State Fault Refusal :=
  if !s.pins.vaon || !s.pins.resetN || s.gbl.strapsCompared then .next s
  else
    let s1 := { s with gbl := { s.gbl with strapsCompared := true } }
    if levels = s.aon.straps then .next s1 else .next (enterFailed s1 causeStrapUnstable 0)

/-! ## t2 to t5 -/

/-- The mode of each domain once CORE runs (Table 4-5). -/
def startDomain (s : State) (dram : Nat) (d : Nat) : DomMode :=
  if d == 3 then (if dram == 0 then .offUntilReset else .on)
  else if d == 5 then (if s.aon.rails.cas then .on else .offUntilReset)
  else if 6 ≤ d && !s.aon.rails.bankPresent.getLsbD ((d - 6) / 4) then .offUntilReset
  else .on

/-- Link training starts once RESET_N and PE_PERST_N are both high and the core runs (R115, R711); never in PHB mode (R28). -/
def trainPcie (s : State) : State :=
  if s.phb || !s.gbl.coreOn || !s.pins.perstN then s
  else { s with pcie := { s.pcie with training := s.pcie.training || s.pcie.link == .down } }

/-- CORE_RELEASE: every SYSCLK-sourced PLL has locked, so CORE leaves reset; `dramGib` is the LPDDR4X populated and trained
(R101, Table 4-5, Table 3-17). With PE_PERST_N high link training starts (R711). A PFAIL_N that is low at t2 starts the power-fail sequence (R390). -/
def execCoreRelease (dramGib : Fin 9) (s : State) : Host.Outcome State Fault Refusal :=
  if !s.pins.vaon || !s.pins.resetN || s.gbl.coreOn || s.gbl.failed || !s.pins.vddCore then .next s
  else
    let g : Fin 9 := if s.aon.rails.dram2 && s.aon.rails.dramQ then dramGib else 0
    let s1 := { s with
      gbl := { s.gbl with coreOn := true, dramGib := g }
      doms := Vector.ofFn (fun d => idleDomain (startDomain s g.val d.val)) }
    let s2 := trainPcie s1
    .next (if s.pins.pfailN then s2 else startPowerFail s2 1)

/-- PLL_LOCK_TIMEOUT: a PLL has not locked 1 ms after RESET_N rose (R101). -/
def execPllLockTimeout (s : State) : Host.Outcome State Fault Refusal :=
  if !s.pins.vaon || !s.pins.resetN || s.gbl.coreOn || s.gbl.failed then .next s
  else .next (enterFailed s causePllLock 0)

/-- The check a firmware slot fails: 1 its signature, 2 its ROLLBACK_LEVEL (R419, R670). -/
def slotFails (s : State) (f : FwSlot) : Option Nat :=
  if !f.sigOk then some 1 else if f.level < s.fwTherm then some 2 else none

/-- Log the slots that fail (R419, R686). -/
def logSlot (s : State) (f : Option FwSlot) : State :=
  match f with
  | some x => (match slotFails s x with
    | some k => logEvent s logImageRefused [(0, 1, 1), (1, 1, k)]
    | none => s)
  | none => s

/-- A slot that passes. -/
def slotGood (s : State) (f : Option FwSlot) : Option FwSlot :=
  match f with
  | some x => if (slotFails s x).isNone then some x else none
  | none => none

/-- Raise a thermometer that lies below its level, or leave the raise due (R669). -/
def thermAtStart (s : State) (firmware : Bool) : State :=
  let now := if firmware then s.fwTherm else s.mcTherm
  if s.thermTarget firmware ≤ now then s
  else
    let s1 := { s with aon := { s.aon with thermDue := putBit s.aon.thermDue (b2n firmware) true } }
    match s.aon.frame with
    | some ⟨some _, _, _⟩ => s1
    | _ => if s.pins.pfailN && !s.energy.pfSeq then raiseTherm s1 firmware else s1

/-- FIRMWARE_START: at t3 the firmware slots are verified and the best one runs; tests 2, 3 and 5 run; thermometers below
their level are raised; the MAC key of the Host Map Store is drawn (R328, R419, R669, R670, R693). -/
def execFirmwareStart (hashOk signOk identityOk : Bool) (s : State) : Host.Outcome State Fault Refusal :=
  if !s.gbl.coreOn || s.gbl.failed || s.gbl.up || s.media.probed || s.energy.pfSeq then .next s
  else
    let s0 := if s.factoryOk then s else logEvent s logFactoryCrc []
    let s1 := logSlot (logSlot s0 s.sys.fwA) s.sys.fwB
    let a := slotGood s s.sys.fwA
    let b := slotGood s s.sys.fwB
    match a, b with
    | none, none => .next (enterFailed s1 causeHwFault 0)
    | _, _ =>
      let useB := match a, b with
        | some x, some y => decide (x.version < y.version)
        | none, some _ => true
        | _, _ => false
      let v := ((if useB then b else a).map (·.version)).getD 0
      let s2 := { s1 with sys := { s1.sys with runB := useB }
                          hmap := { s1.hmap with key := Config.random s1.free }, free := s1.free + 1
                          gbl := { s1.gbl with fwVersion := BitVec.ofNat 16 v, keyOk := signOk
                                               sealFault := !hashOk || !signOk } }
      if hashOk && signOk && identityOk then .next (thermAtStart (thermAtStart s2 false) true)
      else .next (enterFailed s2 causeHwFault 0)

/-! ### The probe (R421, R495, R496, R511) -/

/-- MATCH_ID agrees with the ID under MATCH_MASK. -/
def pfMatches (p : List Byte) (id : Nat) : Bool := (pfMatchId p ^^^ id) &&& pfMatchMask p == 0

/-- Bits set in a number of 64 bits. -/
def ones64 (v : Nat) : Nat := (bitList 64 v).length

/-- `p` is chosen over `q`: more mask bits, then the higher REVISION, then the lower PROFILE_ID (R511). -/
def pfBetter (p q : List Byte) : Bool :=
  let a := ones64 (pfMatchMask p)
  let b := ones64 (pfMatchMask q)
  if a != b then decide (b < a)
  else if pfRevision p != pfRevision q then decide (pfRevision q < pfRevision p)
  else decide (pfId p < pfId q)

/-- The best of a list of candidates. -/
def pfBest : List (List Byte) → Option (List Byte)
  | [] => none
  | p :: ps =>
    match pfBest ps with
    | none => some p
    | some q => if pfBetter p q then some p else some q

/-- The profile a channel binds: from the store, else from the library; and whether R495 excluded a matching one. -/
def bindProfile (s : State) (ch id : Nat) : Option (List Byte) × Bool :=
  let cls := b2n (s.aon.rails.bank18.getLsbD (ch / 4))
  let ok := fun p => pfVccq p == cls && rateOk (pfMode p) (pfVccq p) (pfRate p)
  let st := s.sys.profiles.filter (fun p => pfMatches p id)
  let lib := s.sys.library.filter (fun p => pfMatches p id)
  match pfBest (st.filter ok) with
  | some p => (some p, false)
  | none => (pfBest (lib.filter ok), !(st ++ lib).isEmpty)

/-- A LUN entry as the probe leaves it. -/
def newLun (id : DWord) : Lun :=
  { id := id, failed := false, op := .idle, since := 0, suspended := false, suspends := 0, ran := 0, waiting := 0
    faults := [] }

/-- PROFILE entry (Table 21-3). -/
def logProfileEntry (s : State) (kind k : Nat) (id : DWord) : State :=
  logEvent s logProfile [(0, 1, kind), (1, 1, k / 32), (2, 1, k / 4 % 8), (3, 1, k % 4), (4, 8, id.toNat)]

/-- The probe of one channel: bind a profile to its lowest responding target, then judge each LUN (R421, R495, R511). -/
def probeChannel (s : State) (ch : Nat) (found : List (Nat × DWord)) : State :=
  match found with
  | [] => s
  | (k0, id0) :: _ =>
    match bindProfile s ch id0.toNat with
    | (none, true) => logProfileEntry s 3 k0 id0
    | (none, false) => found.foldl (fun s x => logProfileEntry s 1 x.1 x.2) s
    | (some p, _) =>
      let s1 := { s with media := { s.media with bound := tput s.media.bound ch p } }
      found.foldl (fun s x =>
        if !pfMatches p x.2.toNat then logProfileEntry s 2 x.1 x.2
        else if pfLuns p ≤ x.1 % 4 then s
        else { s with media := { s.media with luns := tput s.media.luns x.1 (newLun x.2)
                                              chPresent := putBit s.media.chPresent ch true } }) s1

/-- The LUNs that answered on one channel, lowest target first. -/
def foundOn (found : List (LunId × DWord)) (ch : Nat) : List (Nat × DWord) :=
  (found.foldl (fun (t : Tbl DWord) x => if x.1.ch.val == ch then tput t (lunKey x.1) x.2 else t) [])

/-- The candidate image passes Table 16-6 beside the stored image (R538). -/
def candidateOk (s : State) (u : Ucode) : Bool :=
  decide (s.mcTherm ≤ u.level) && decide (u.minFw ≤ s.gbl.fwVersion.toNat) && spidsKept s.sys.stored u

/-- A bank that was classified present and whose rail has not been lost since (R77, R96). -/
def State.bankUp (s : State) (b : Nat) : Bool := s.aon.rails.bankPresent.getLsbD b && !s.pins.railLost.getLsbD b

/-- What the probe leaves: the stored microcode in bank 0 of every channel and the candidate in bank 1 if it passes, every CE_N of the
present banks probed, profiles bound, WP_N of those banks high, and channels without a responding LUN gated until reset (R15, R78, R97,
R420, R421, R538). Kind 0 calibration is requested for every target (R559). -/
def probeAll (s : State) (found : List (LunId × DWord)) : State :=
  let e0 := match s.sys.stored with
    | some u => (u.entry[0]?).getD 0
    | none => 0
  let b1 := match s.sys.candidate with
    | some u => if s.sys.stored != some u && candidateOk s u then some u else none
    | none => none
  let s1 := { s with micro := { s.micro with
    bank0 := s.sys.stored, bank1 := b1
    masons := Vector.replicate 16 { resetMason with addr := BitVec.ofNat 12 e0 } } }
  let chs := (List.range 16).filter (fun c => s.bankUp (c / 4))
  let s2 := chs.foldl (fun s c => probeChannel s c (foundOn found c)) s1
  { s2 with
    pins := { s2.pins with wpN := s2.aon.rails.bankPresent &&& ~~~s2.pins.railLost }
    media := { s2.media with probed := true }
    doms := Vector.ofFn (fun d => if 6 ≤ d.val && !s2.media.chPresent.getLsbD (d.val - 6)
                                  then idleDomain .offUntilReset else s2.doms[d])
    cal := { s2.cal with req0 := s2.trimUnits } }

/-- PROBE: at t4 the channels are probed; with a stored image that fails its check, or fewer than four responding LUNs, the device is
FAILED (R16, R420). -/
def execProbe (found : List (LunId × DWord)) (mcOk : Bool) (s : State) : Host.Outcome State Fault Refusal :=
  if !s.gbl.coreOn || s.gbl.failed || s.gbl.up || s.media.probed || s.energy.pfSeq then .next s
  else if !mcOk || s.sys.stored.isNone then .next (enterFailed s causeHwFault 0)
  else if (probeAll s found).media.luns.length < 4 then .next (enterFailed (probeAll s found) causeTooFewLuns 0)
  else .next (probeAll s found)

/-- BOOT_WINDOW_ENTRY: at t5 the register file answers, STATE becomes BOOT_WINDOW, the core publishes PROT_POLICY and takes
the MSP orders held (R417, R422, R435, R657, R661); a Keystone is member 0 (R615). -/
def execBootWindowEntry (s : State) : Host.Outcome State Fault Refusal :=
  if !s.gbl.coreOn || s.gbl.failed || s.gbl.up || !s.media.probed || s.energy.pfSeq then .next s
  else
    let s1 := { s with
      gbl := { s.gbl with up := true }
      pcie := { s.pcie with crs := false }
      aon := { s.aon with policy := some s.prot.policy }
      cas := if s.keystone then { s.cas with enumerated := true, memberId := 0, depth := 0 } else s.cas }
    .next (applyOrders (refresh s1) 0 0)

/-! ## t6 to full service -/

/-- An entry takes its place in a list ordered by TICK, and at one TICK by TYPE; behind its equals (R686, R703). -/
def insertEntry (e : LogEntry) : List LogEntry → List LogEntry
  | [] => [e]
  | x :: xs =>
    if decide (e.tick < x.tick) || (e.tick == x.tick && decide (e.type < x.type)) then e :: x :: xs else x :: insertEntry e xs

/-- Write the entries held since t2, in the order of their TICK, with this boot's counter (R686, R703). -/
def writeHeld (s : State) : State :=
  (s.log.held.foldl (fun es e => insertEntry e es) []).foldl (fun s e =>
    setIrq { s with log := s.log.add { e with boot := s.bootNow } } irqLog) { s with log := { s.log with held := [] } }

/-- RECOVERY_START: at t6 the catalogue and the Plinth location are read, the boot counter advances and is committed, held
entries are written and recovery begins. Foreign and blank media are RECOVERED at once; blank media get a new system area
(R320, R418, R431, R436, R472, R686). -/
def execRecoveryStart (s : State) : Host.Outcome State Fault Refusal :=
  if !s.gbl.up || s.gbl.failed || s.sys.t6 || s.energy.pfSeq then .next s
  else if !s.sys.present then
    let s1 := newSystemArea { s with sys := { s.sys with t6 := true } }
    .next (setSafe (refresh (writeHeld { s1 with gbl := { s1.gbl with recovered := true } })))
  else if s.sys.owner != s.serial then
    .next (setSafe (refresh (writeHeld { s with sys := { s.sys with t6 := true }
                                                media := { s.media with foreign := true }
                                                gbl := { s.gbl with recovered := true } })))
  else
    let s1 := { s with
      sys := { s.sys with t6 := true, bootStored := s.sys.bootStored + 1, boot := s.sys.bootStored + 1 }
      gbl := { s.gbl with roEol := s.sys.eol }
      energy := { s.energy with needCal := s.energy.needCal || (s.energy.pfRan && match s.energy.summary with
        | some x => decide (0 < x.short)
        | none => true) } }
    let s2 := writeHeld { s1 with media := { s1.media with relocating := missingLuns s1 } }
    .next (setSafe (refresh (if s2.energy.needCal then requestKind s2 2 else s2)))

/-- The erased capacity the check finds, in MiB, where the blocks `dropped` did not read as erased (R428). -/
def State.footErased (s : State) (dropped : List Nat) : Nat :=
  s.footMibOf (s.footBlocks.filter (fun k => !dropped.contains k)).length

/-- FOOTING_CHECK: by t7 the Footing blocks found erased open the Footing, or the device decides to open none (R428, R429). `written`: the
Footing blocks whose first page does not read as erased. -/
def execFootingCheck (descOk : Bool) (written : List (LunId × Nat)) (s : State) : Host.Outcome State Fault Refusal :=
  if !s.sys.t6 || s.media.footDecided || s.stopped || s.gbl.fullService || s.energy.pfSeq then .next s
  else
    let dropped := (written.map (fun b => blkKey (lunKey b.1) b.2)).filter s.footBlocks.contains
    let erasedMib := s.footErased dropped
    let none_ := s.media.foreign || s.readOnlyCond || !descOk || s.sys.fMax == 0 || erasedMib == 0 ||
      !(s.parts.any (fun p => p.2.isStream))
    let mib := min erasedMib s.footTarget
    let s1 := { s with media := { s.media with footDecided := true, footDropped := dropped } }
    if none_ then .next s1
    else .next { s1 with gbl := { s1.gbl with footingOpen := true }
                         media := { s1.media with footMib := mib, footFree := mib * 1048576 } }

/-- FULL_SERVICE: with LOCK and RECOVERED set, the Footing is absorbed in one committed step and appends go to the
partitions' own blocks; the firmware thermometer falls due for the running image (R434, R669). -/
def execFullService (s : State) : Host.Outcome State Fault Refusal :=
  if !s.gbl.lock || !s.gbl.recovered || s.gbl.fullService || s.stopped || s.energy.pfSeq then .next s
  else
    let lvl := ((if s.sys.runB then s.sys.fwB else s.sys.fwA).map (·.level)).getD 0
    let s1 := absorbFooting { s with
      gbl := { s.gbl with fullService := true, footingOpen := false }
      sys := { s.sys with fwLevel := max s.sys.fwLevel lvl } }
    let s2 := if s1.fwTherm < s1.sys.fwLevel
      then { s1 with aon := { s1.aon with thermDue := putBit s1.aon.thermDue 1 true } } else s1
    .next (refresh s2)

/-- Host writes need Quarry blocks: some are admitted and not committed (R491). -/
def State.hostNeeds (s : State) : Bool := !s.stage.writes.isEmpty || s.queues.jobs.any (fun j => 0 < j.need)

/-- The LUN that gives the Footing its next block: of those with a Quarry block, the one with the fewest Footing blocks, spread over the
channels (R426, R454). -/
def footLun (s : State) : Option Nat :=
  let held := fun l => (s.footBlocks.filter (fun k => blkLun k == l)).length
  ((spreadLuns s).filter (fun l => (quarryBlock s l).isSome)).foldl (fun a l => match a with
    | some x => if held l < held x then some l else a
    | none => some l) none

/-- The rebuild takes Quarry blocks one by one up to `want`; while host writes need blocks too, only while the Quarry holds at least Q_LOW
(R434, R491). -/
def takeFooting (want : Nat) : Nat → State → State
  | 0, s => s
  | n + 1, s =>
    if want ≤ s.footBlocks.length || s.quarry == 0 || (s.hostNeeds && decide (s.quarry < s.qLow)) then s
    else
      match (footLun s).bind (quarryBlock s) with
      | some k => takeFooting want n (setBlk s k .footing)
      | none => s

/-- FOOTING_REBUILD: Quarry blocks rebuild the Footing up to the FOOTING_MIB in force at this RESET_N (R434, R446, R491). -/
def execFootingRebuild (s : State) : Host.Outcome State Fault Refusal :=
  if !s.gbl.fullService || s.media.foreign || !s.parts.any (fun p => p.2.isStream) || s.energy.pfSeq || s.stopped
  then .next s
  else
    let want := s.footBlocksFor s.footTarget
    let s1 := takeFooting want want s
    let mib := min s1.footTarget (s1.footMibOf s1.footBlocks.length)
    .next { s1 with media := { s1.media with footMib := mib, footFree := mib * 1048576 } }

/-- AUTO_LOCK: BOOT_WINDOW_MAX has elapsed without LOCK, so LOCK and AUTO are set and the fact is logged (R171, R422, R435). -/
def execAutoLock (s : State) : Host.Outcome State Fault Refusal :=
  if !s.gbl.coreOn || s.gbl.lock then .next s
  else
    .next (refresh (logEvent { s with gbl := { s.gbl with lock := true, auto := true } } logAutoLock [(0, 4, s.windowMs)]))

end Sys2Proof.Machine
end

