-- ==== Sys2Proof/Machine/Link.lean ====
section
/-! DEFINITION. The PCIe link and function: PE_PERST_N, link loss and link up, FLR, configuration writes, the MSI-X table and link power
states (R106, R115 to R118, R248, R249). -/

namespace Sys2Proof.Machine

/-- PERST_ASSERT: link loss, and the host-facing reset of the PE_PERST_N column; ignored in PHB mode (R105, R116, Table 4-4). -/
def execPerstAssert (s : State) : Host.Outcome State Fault Refusal :=
  let s1 := { s with pins := { s.pins with perstN := false } }
  if s.phb || !s.gbl.coreOn then .next s1
  else .next (hostReset { enterOrphan s1 with pcie := { (enterOrphan s1).pcie with link := .down, training := false } } 0)

/-- PERST_RELEASE: PE_WAKE_N is released and link training starts, once the core runs (R115, R711); ignored in PHB mode (R105). -/
def execPerstRelease (s : State) : Host.Outcome State Fault Refusal :=
  let s1 := { s with pins := { s.pins with perstN := true } }
  .next (if s.phb then s1 else trainPcie (releaseWake s1))

/-- LINK_DOWN: data-link-layer down or surprise removal; the device enters Orphan (R116). -/
def execLinkDown (s : State) : Host.Outcome State Fault Refusal := .next (enterOrphan s)

/-- QUEUE and TAG pairs in groups of three (Table 21-3). -/
def tagGroups : Nat → List (Nat × DWord) → List (List (Nat × DWord))
  | 0, _ => []
  | n + 1, l => if l.isEmpty then [] else l.take 3 :: tagGroups n (l.drop 3)

/-- The ORPHAN entry and the ORPHAN_TAG entries that follow it (R118, Table 21-3). -/
def logOrphanEntry (s : State) : State :=
  let gs := tagGroups (s.pcie.orphanTags.length + 1) s.pcie.orphanTags
  let s1 := logEvent s logOrphan [(0, 8, s.pcie.orphanTick.toNat), (8, 4, s.pcie.abandoned), (12, 2, gs.length)]
  gs.foldl (fun s g =>
    logEvent s logOrphanTag ((0, 1, g.length) ::
      (g.mapIdx (fun i t => [(2 + 10 * i, 2, t.1), (4 + 10 * i, 8, t.2.toNat)])).flatten)) s1

/-- The device leaves Orphan: host-facing reset, then the ORPHAN entry (R118). -/
def leaveOrphan (s : State) : State :=
  let s1 := logOrphanEntry (hostReset s 0)
  settle { s1 with pcie := { s1.pcie with orphan := false, orphanTags := [], abandoned := 0 } }

/-- LINK_UP: the data link layer reports up; Orphan ends and PE_WAKE_N is released (R115, R118). -/
def execLinkUp (lanes : Fin 5) (gen : Fin 5) (s : State) : Host.Outcome State Fault Refusal :=
  if s.phb || !s.gbl.coreOn || !s.pins.perstN then .next s
  else
    let s1 := if s.pcie.orphan then leaveOrphan s else s
    let s2 := wakeDomain (releaseWake s1) 2
    .next { s2 with pcie := { s2.pcie with link := .l0, training := false, lanes := lanes, gen := gen }
                    pins := { s2.pins with clkreq := true } }

/-- FLR: the host-facing state resets, and I/O fetch is held until the commands accepted before it have finished (R106, R133). In
Orphan it has no further effect (R132). -/
def execFlr (s : State) : Host.Outcome State Fault Refusal :=
  if s.phb || !s.gbl.coreOn || !s.linkUp then .next s else .next (hostReset s 1)

/-- Vector 0 can carry a message. -/
def Pcie.usable (p : Pcie) : Bool := p.msixEn || p.msiEn

/-- Pending MSI-X vectors that nothing masks any more are sent (R249). -/
def Pcie.flush (p : Pcie) : Pcie :=
  if !p.msixEn || p.msixFuncMask then p
  else
    let go := p.pba.filter (fun v => !(msixEntry p v).masked)
    go.foldl (fun p v => p.send v) { p with pba := p.pba.filter (fun v => (msixEntry p v).masked) }

/-- Pending MSI messages that nothing masks any more are sent (R248). -/
def Pcie.flushMsi (p : Pcie) : Pcie :=
  if p.msixEn || !p.msiEn then p
  else
    let go := (List.range 32).filter (fun m => p.msiPending.getLsbD m && !p.msiMask.getLsbD m)
    go.foldl (fun p m => p.send m) { p with msiPending := p.msiPending &&& p.msiMask }

/-- What a configuration write leaves in the function. -/
def Pcie.configure (p : Pcie) : ConfigChange → Pcie
  | .msix enable funcMask => { p with msixEn := enable, msixFuncMask := funcMask }
  | .msi enable granted addr data => { p with msiEn := enable, msiCount := 2 ^ granted.val, msiAddr := addr, msiData := data }
  | .msiMask mask => { p with msiMask := mask }
  | .dstate d3hot => { p with d3hot := d3hot }
  | .memSpace enable => { p with mse := enable }
  | .dword n value => p.writeDword n.toNat value

/-- CONFIG_WRITE: interrupt set-up, D-state, Memory Space Enable, or any other dword of configuration space (R166). A status bit that is set and unmasked is signalled once vector 0
becomes usable (R115, R166, R248, R249, R417). -/
def execConfigWrite (change : ConfigChange) (s : State) : Host.Outcome State Fault Refusal :=
  if s.phb || !s.gbl.coreOn || !s.linkUp || s.pcie.crs then .next s
  else
    let s1 := { s with pcie := ((s.pcie.configure change).flush).flushMsi }
    let s2 := if !s.pcie.usable && s1.pcie.usable && s1.gbl.irqEn && s1.gbl.irqStatus &&& ~~~s1.gbl.irqMask ≠ 0
      then sendVector s1 0 else s1
    .next (if s.pcie.d3hot && !s2.pcie.d3hot then wakeDomain s2 2 else s2)

/-- Put 32 bits at an aligned offset of the MSI-X table (R166). -/
def msixPut (p : Pcie) (off v : Nat) : Pcie :=
  let e := msixEntry p (off / 16)
  let f := off % 16 / 4
  let e1 := if f == 0 then { e with addr := BitVec.ofNat 64 (e.addr.toNat / 2 ^ 32 * 2 ^ 32 + v) }
    else if f == 1 then { e with addr := BitVec.ofNat 64 (e.addr.toNat % 2 ^ 32 + v * 2 ^ 32) }
    else if f == 2 then { e with data := BitVec.ofNat 32 v }
    else { e with masked := bitOf v 0 }
  { p with msix := if e1 == ⟨0, 0, true⟩ then tdel p.msix (off / 16) else tput p.msix (off / 16) e1 }

/-- MSIX_TABLE_WRITE: an aligned 32-bit or 64-bit write to the table; a cleared mask bit sends what is pending. The Pending Bit Array
and the rest of the page ignore writes (R166, R249). -/
def execMsixTableWrite (offset : BitVec 15) (value : DWord) (wide : Bool) (s : State) : Host.Outcome State Fault Refusal :=
  let off := offset.toNat
  if s.phb || !s.hostAccess || 0x4000 ≤ off || off % (if wide then 8 else 4) != 0 then .next s
  else
    let p1 := msixPut s.pcie off (value.toNat % 2 ^ 32)
    let p2 := if wide then msixPut p1 (off + 4) (value.toNat / 2 ^ 32) else p1
    .next { s with pcie := p2.flush }

/-- The HOST domain gated with the link (Table 4-5). -/
def gateHost (s : State) (link : LinkState) (m : DomMode) : State :=
  { s with pcie := { s.pcie with link := link }, doms := s.doms.set 2 { s.doms[2] with mode := m, fenceClosed := true } }

/-- LINK_POWER_STATE: the link enters or leaves L1, an L1 substate or L2; the HOST domain is clock gated in L1 and L1.1, power gated in L1.2
and L2, or woken, and PE_WAKE_N asserts in L2 (R115, Table 4-5). In an L1 substate PE_CLKREQ_N is released. -/
def execLinkPowerState (pm : LinkPm) (s : State) : Host.Outcome State Fault Refusal :=
  if s.phb || !s.gbl.coreOn || s.pcie.orphan || s.pcie.link == .down then .next s
  else
    let s1 := { s with pins := { s.pins with clkreq := pm != LinkPm.l11 && pm != LinkPm.l12 } }
    match pm with
    | .l0 => .next (wakeDomain { s1 with pcie := { s1.pcie with link := .l0 } } 2)
    | .l1 => .next (gateHost s1 .l1 .clockGated)
    | .l11 => .next (gateHost s1 .l11 .clockGated)
    | .l12 => .next (gateHost s1 .l12 .powerGated)
    | .l2 => .next (assertWake (gateHost s1 .l2 .powerGated))

end Sys2Proof.Machine
end

