-- ==== Sys2Proof/Machine/MasonSeq.lean ====
section
/-! DEFINITION. The Mason sequencers: posting, execution of words, switching, machine checks and scrub (chapter 16). -/

namespace Sys2Proof.Machine

/-- Registers and pins after one word (R525, R526): loads and decrements take effect at the end of its cycle. -/
def wordEffect (m : Mason) (w : BitVec 128) (i : WordIn) : Mason :=
  let clocks := if wBus w == 3 || wBus w == 4 then i.clocks else wCyc w + 1
  let opnd := fun k => ((m.opnd.toList)[k]?).getD (0 : Word)
  let argByte : Byte := BitVec.ofNat 8 ((opnd (wArg w / 4)).toNat / 2 ^ (8 * (wArg w % 4)))
  let imm : Byte := BitVec.ofNat 8 (wImm w)
  { m with
    ce := if wCeOn w then some (Fin.ofNat 8 (opnd 0).toNat) else none
    cle := wCle w
    ale := wAle w
    dq := if wBus w == 1 then (if wBsrc w then argByte else imm) else if wBus w == 2 then i.dq else m.dq
    stat := if wBus w == 2 then i.dq else m.stat
    tmr := if wTsrc w == 0 then BitVec.ofNat 32 (m.tmr.toNat - clocks) else opnd (wTsrc w)
    loopA := if wCntOp w == 1 then imm else if wCntOp w == 3 then BitVec.ofNat 8 (m.loopA.toNat - 1)
             else if wCntOp w == 5 then BitVec.ofNat 8 ((opnd 7).toNat / 256) else m.loopA
    loopB := if wCntOp w == 2 then imm else if wCntOp w == 4 then BitVec.ofNat 8 (m.loopB.toNat - 1) else m.loopB }

/-- A posted routine is dispatched by this word. -/
def dispatched (w : BitVec 128) (m : Mason) : Mason :=
  if wDispatch w && m.posted.isSome then { m with routine := m.posted, posted := none } else m

/-- One word of a channel: its effect, the next address, and the switch a safe word takes while one is pending (R527,
R539, R530). The event it reports, if any. -/
def masonWord (s : State) (c : Fin 16) (i : WordIn) : State × Nat × Bool :=
  let m := s.mason c
  match s.micro.bank m.bank with
  | none => (s, 0, false)
  | some u =>
    let w := u.word m.addr.toNat
    let pend := m.pendSince.isSome && m.patchReq
    let cond := condBit m ((tget s.media.bound c.val).getD []) pend w i
    let evt := wEvt w
    let m1 := wordEffect m w i
    let m2 := if wReqAck w && wSafe w then { m1 with abortReq := false, pfailReq := false } else m1
    let m3 := if evt == 0 then m2 else { m2 with report := some (evt, m2.stat), routine := none }
    if wSafe w && pend then
      match s.micro.bank (!m.bank) with
      | none => (setMason s c m3, evt, false)
      | some v =>
        let nw := v.word ((v.bySpid (wSpid w)).getD 0)
        let a := nextAddr v nw cond m3.posted
        let m4 := { dispatched nw m3 with addr := BitVec.ofNat 12 a, bank := !m.bank, pendSince := none, patchReq := false }
        (commitCandidate (setMason s c m4), evt, true)
    else
      let a := nextAddr u w cond m3.posted
      (setMason s c { dispatched w m3 with addr := BitVec.ofNat 12 a }, evt, false)

/-- Execute words until one reports an event or, where asked for, a switch is taken; one input per word. -/
def masonRun (c : Fin 16) (stopAtSwitch : Bool) : List WordIn → State → State
  | [], s => s
  | i :: is, s =>
    match masonWord s c i with
    | (s', evt, sw) => if stopAtSwitch then (if sw then s' else masonRun c stopAtSwitch is s')
                       else (if evt != 0 then s' else masonRun c stopAtSwitch is s')

/-- The Mason of a channel executes its IDLE word, the word at entry 0: nothing posted or running (R531). -/
def masonIdle (s : State) (c : Fin 16) : Bool :=
  (s.mason c).posted.isNone && (s.mason c).routine.isNone && s.inService c.val &&
  match s.micro.bank (s.mason c).bank with
  | some u => (s.mason c).addr.toNat == (u.entry[0]?).getD 0
  | none => false

/-- MASON_ROUTINE_POST: the core writes OPND0 to OPND7 and a routine number to an idle Mason, and the array operation it
stands for begins (R499, R531). A gated channel wakes (R147). A post to a busy Mason, or work the scheduler's rules forbid, does not happen. -/
def execMasonRoutinePost (ch : Fin 16) (routine : Fin 32) (opnds : Vector Word 8) (work : FlashWork) (s : State) :
    Host.Outcome State Fault Refusal :=
  if !s.gbl.coreOn || !masonIdle s ch || routine.val == 0 || 20 < routine.val then .next s
  else
    match startWork s ch work with
    | some s1 =>
      let s' := wakeDomain s1 (6 + ch.val)
      .next (setMason s' ch { s'.mason ch with opnd := opnds, posted := some routine })
    | none => .next s

/-- MASON_EVENT: words run until a routine ends and reports its event with STAT (R525 to R530). -/
def execMasonEvent (ch : Fin 16) (inputs : List WordIn) (s : State) : Host.Outcome State Fault Refusal :=
  if s.gbl.coreOn && s.inService ch.val then .next (masonRun ch false inputs s) else .next s

/-- SWITCH_TAKEN: words run until a safe word with a switch pending; the Mason goes on in the new bank at the same SPID
(R539, R542). -/
def execSwitchTaken (ch : Fin 16) (inputs : List WordIn) (s : State) : Host.Outcome State Fault Refusal :=
  if s.gbl.coreOn && s.inService ch.val && (s.mason ch).pendSince.isSome && !s.energy.pfSeq
  then .next (masonRun ch true inputs s) else .next s

/-- MC_SWITCH_TIMEOUT: 100 ms have passed since step 1, so the request is withdrawn and logged (R540). -/
def execMcSwitchTimeout (ch : Fin 16) (s : State) : Host.Outcome State Fault Refusal :=
  let m := s.mason ch
  if m.pendSince.isNone then .next s
  else
    .next (logEvent (setMason s ch { m with pendSince := none, patchReq := false }) logMcSwitchEnd
      [(0, 1, ch.val), (1, 1, 1), (2, 2, m.addr.toNat)])

/-! ## MC_CTRL (Table 6-24) -/

/-- CH_SEL and ONE_CH of a write (R539); in HALTED or FAILED only CH_SEL (R180). -/
def mcFields (s : State) (v : Word) : State :=
  { s with micro := { s.micro with chSel := Fin.ofNat 16 (bitsOf v.toNat 7 4)
                                   oneCh := if s.limited then s.micro.oneCh else v.getLsbD 2 } }

/-- SWITCH and FORCE are permitted: in the boot window, or with LIVE_PATCH (R173, R423); never in HALTED, FAILED, the
power-fail sequence or the park (R180, R548); and only with a valid standby bank. -/
def mcPermitted (s : State) : Bool :=
  !s.stopped && !s.energy.pfSeq && (!s.gbl.lock || s.prot.policy.getLsbD 5) && s.standbyValid

/-- The channels a write concerns: in service, CH_SEL alone with ONE_CH, and not yet in the standby bank of CH_SEL (R539, R543). -/
def mcConcerned (s : State) : List (Fin 16) :=
  s.serviceChs.filter (fun c => (!s.micro.oneCh || c == s.micro.chSel) &&
    (s.mason c).bank == (s.mason s.micro.chSel).bank)

/-- Table 16-7 step 1 on one channel; a gated channel is woken (R147). -/
def requestSwitch (s : State) (c : Fin 16) : State :=
  let s1 := wakeDomain s (6 + c.val)
  let m := s1.mason c
  if m.pendSince.isSome then s1
  else setMason s1 c { m with pendSince := some s1.gbl.tick, patchReq := true }

/-- R541 on one channel: restart at entry 0 of the other bank, RESET to the dies, cut operations re-issued. -/
def forceSwitch (s : State) (c : Fin 16) : State :=
  let s1 := wakeDomain s (6 + c.val)
  let b := !(s1.mason c).bank
  let e := match s1.micro.bank b with
    | some u => (u.entry[0]?).getD 0
    | none => 0
  let s2 := setMason s1 c { resetMason with bank := b, addr := BitVec.ofNat 12 e, lastCheck := (s1.mason c).lastCheck
                                            pfailReq := (s1.mason c).pfailReq }
  cutChannel s2 c.val true

/-- A write of MC_CTRL: its fields, then FORCE or SWITCH on the channels concerned; FORCE decides (R539, R541, R547). -/
def mcCtrlWrite (s : State) (v : Word) : State :=
  let s1 := mcFields s v
  if !mcPermitted s1 then s1
  else if v.getLsbD 1 then commitCandidate ((mcConcerned s1).foldl forceSwitch s1)
  else if v.getLsbD 0 then (mcConcerned s1).foldl requestSwitch s1
  else s1

/-- MC_SWITCH: a write of MC_CTRL with SWITCH requests a switch on the channels concerned (R539). -/
def execMcSwitch (value : Word) (s : State) : Host.Outcome State Fault Refusal :=
  if s.hostAccess then .next (mcCtrlWrite s (value ||| 1)) else .next s

/-- MC_FORCE: a write of MC_CTRL with FORCE makes the standby bank active at once (R541). -/
def execMcForce (value : Word) (s : State) : Host.Outcome State Fault Refusal :=
  if s.hostAccess then .next (mcCtrlWrite s (value ||| 2)) else .next s

/-! ## Machine checks (R532 to R534, Table 21-4) -/

/-- The class of a machine check (Table 21-4). -/
def mcCause (s : State) (c : Fin 16) (readbackOk referenceOk : Bool) : Nat :=
  if !referenceOk then 4
  else
    match (s.mason c).lastCheck with
    | some t => if (s.gbl.tick - t).toNat < 1000000 then 2 else if readbackOk then 1 else 3
    | none => if readbackOk then 1 else 3

/-- Restart at entry 0; with a switch pending the restart is its safe point (R532 step 4, R549). -/
def restartMason (s : State) (c : Fin 16) : State :=
  let m := s.mason c
  let b := if m.pendSince.isSome then !m.bank else m.bank
  let e := match s.micro.bank b with
    | some u => (u.entry[0]?).getD 0
    | none => 0
  commitCandidate (setMason s c { resetMason with
    bank := b, addr := BitVec.ofNat 12 e, lastCheck := m.lastCheck, pfailReq := m.pfailReq })

/-- MACHINE_CHECK: MC_CHECK, the log, then repair and restart, channel offline, or HALTED (R532, R533). -/
def execMachineCheck (ch : Fin 16) (addr : BitVec 12) (readbackOk referenceOk : Bool) (s : State) :
    Host.Outcome State Fault Refusal :=
  if !s.gbl.coreOn || !s.inService ch.val then .next s
  else
    let k := mcCause s ch readbackOk referenceOk
    let m := s.mason ch
    let s1 := setMason s ch { m with ce := none, cle := false, ale := false, lastCheck := some s.gbl.tick }
    let s2 := setIrq { s1 with micro := { s1.micro with
      checkPending := putBit s1.micro.checkPending ch.val true, checkChannel := ch, checkAddr := addr } } irqMcheck
    let s3 := { s2 with log := { s2.log with health := { s2.log.health with
      mcParity := satTo 0xFFFFFFFFFFFFFFFF (s2.log.health.mcParity + 1) } } }
    let s4 := logEvent s3 logMcParity [(0, 1, ch.val), (1, 1, k), (2, 1, b2n m.bank), (4, 2, addr.toNat)]
    if k == 4 then .next (enterHalted s4 causeMachineCheck ch.val)
    else if k == 1 then .next (cutChannel (restartMason s4 ch) ch.val false)
    else .next (takeOffline s4 ch.val 3)

/-- One finding of the scrub: copies 0 to 3 are repaired from the reference; a reference is reloaded (R534). -/
def scrubOne (s : State) (x : Fin 5 × Bool × BitVec 12) : State :=
  let s1 := { s with log := { s.log with health := { s.log.health with
    mcScrub := satTo 0xFFFFFFFFFFFFFFFF (s.log.health.mcScrub + 1) } } }
  logEvent s1 logMcScrub [(0, 1, x.1.val), (1, 1, b2n x.2.1), (2, 2, x.2.2.toNat)]

/-- MC_SCRUB: every copy and reference is read once a second; `bad` lists the words found in error (copy 4 is the
reference), each repaired. A standby reference is being reloaded until the next scrub (R534). -/
def execMcScrub (bad : List (Fin 5 × Bool × BitVec 12)) (s : State) : Host.Outcome State Fault Refusal :=
  if !s.gbl.coreOn then .next s
  else
    let s1 := bad.foldl scrubOne s
    .next { s1 with micro := { s1.micro with reloading := (bad.find? (fun x => x.1 == 4)).map (·.2.1) } }

end Sys2Proof.Machine
end

