-- ==== Sys2Proof/Machine/PowerFail.lean ====
section
/-! DEFINITION. The energy monitor, acknowledgment, the end of the power-fail sequence and the thermal monitor (R112, R381 to R395,
R752). -/

namespace Sys2Proof.Machine

/-! ## The energy monitor (R178, R381 to R388) -/

/-- FILL: ⌊100 × U ÷ H⌋ up to 127 (R385). -/
def fillOf (u h : Nat) : Nat := if h == 0 then (if 0 < u then 127 else 0) else satTo 127 (100 * u / h)

/-- What a sample publishes: VSENSE, H, FILL, HORIZON, and catch-up (R178, R385, R388). -/
def publishSample (s : State) (code : Nat) : State :=
  let s1 := { s with energy := { s.energy with samples := (code :: s.energy.samples).take 4, vsense := BitVec.ofNat 12 code } }
  let h := s1.horizonOf s1.vhNum
  let s2 := { s1 with energy := { s1.energy with
    h := h, horizon := BitVec.ofNat 24 (satTo 0xFFFFFF (h / 4096)), fill := BitVec.ofNat 7 (fillOf s1.uBytes h)
    bFill := s1.bFill } }
  if s2.uncovered && !s2.energy.pfSeq then noteGen { s2 with energy := { s2.energy with catchUp := true } } 6 else s2

/-- Samples in a row below VHOLD_TRIP_MV, which starts the sequence at four (R390). -/
def tripSample (s : State) : State :=
  let n := if s.vholdTrip != 0 && decide (s.vhNum * 1000 < s.vholdTrip * 40960000) then s.energy.trips + 1 else 0
  let s1 := { s with energy := { s.energy with trips := min 4 n } }
  if 4 ≤ n then startPowerFail s1 3 else s1

/-- ADC_SAMPLE: every 10 µs VHOLD_SENSE is sampled and corrected; the horizon is published, the first withheld write is
examined, a trip or a hold-up run goes on (R178, R381, R382, R386, R390, R565). -/
def execAdcSample (raw : BitVec 12) (s : State) : Host.Outcome State Fault Refusal :=
  if !s.gbl.coreOn then .next s
  else
    let code := s.adcCode raw.toNat
    .next (settle (tripSample (holdSample (publishSample s code) code)))

/-- ACK_RELEASE: withheld writes are acknowledged on receipt while the horizon allows (R34, R386). -/
def execAckRelease (s : State) : Host.Outcome State Fault Refusal := if s.gbl.coreOn then .next (settle s) else .next s

/-! ## The end of the power-fail sequence (R389, R391, R752) -/

/-- Every program, and every erase that is not suspended, has ended. -/
def State.flashQuiet (s : State) : Bool :=
  s.media.luns.all (fun l => match l.2.op with | .idle => true | .program .. => false | .erase _ => l.2.suspended)

/-- No commit of steps 2 and 3 remains that can still happen (R391, R394, R752). -/
def State.promisesOver (s : State) : Bool :=
  !s.sys.t6 || s.media.foreign || !mayProgram s ||
  (s.energy.summaryLeft == 0 && s.promised.all (fun r => s.energy.pfLost.contains r ||
    (match r with | .record k q => !recordReady s [] k q | _ => false)))

/-- Step 5 of Table 12-4: domains the register reads do not need are gated, DRAM keeps its self-refresh. -/
def parkDomains (d : Domains) : Domains :=
  Vector.ofFn (fun i =>
    let x := d[i]
    if x.mode == .offUntilReset || i.val < 3 then x
    else if i.val == 3 then { x with mode := if x.mode == .powerGated then .powerGated else .clockGated }
    else { x with mode := .powerGated })

/-- PF_SAFE: PWR_SAFE rises, then every FLx_WP_N goes low, and the device parks (R78, R389, R391, R396). -/
def execPfSafe (s : State) : Host.Outcome State Fault Refusal :=
  if !s.energy.pfSeq || s.energy.parked || !s.flashQuiet || !s.promisesOver then .next s
  else .next { s with pins := { s.pins with pwrSafe := true, wpN := 0 }, energy := { s.energy with parked := true }
                      doms := parkDomains s.doms }

/-! ## The thermal monitor (R112, Table 4-6, Table 6-10) -/

/-- Largest of a list of integers. -/
def maxInt : List Int → Int
  | [] => 0
  | a :: r => r.foldl max a

/-- Tj that enters step k, and below which it is left, in 0.25 °C. -/
def stepEnter (k : Nat) : Int := 400 + 20 * (k : Int)
def stepLeave (k : Nat) : Int := 380 + 20 * (k : Int)

/-- The thermal step at Tj, from the step in force; the critical step is entered and left otherwise (R114). -/
def stepAt (old : Fin 6) (tj : Int) : Fin 6 :=
  let holds := fun (k : Nat) => stepEnter k ≤ tj || (k ≤ old.val && stepLeave k ≤ tj)
  if old == 5 then 5 else if holds 4 then 4 else if holds 3 then 3 else if holds 2 then 2 else if holds 1 then 1 else 0

/-- Bin of TEMP_MIN for a mean Tj in 0.25 °C (Table 21-5a). -/
def tempBin (tj : Int) : Nat :=
  (([0, 25, 45, 65, 85, 95, 105, 110, 115, 120, 125] : List Int).filter (fun e => 4 * e ≤ tj)).length

/-- The minute count of the health log (R690). -/
def noteMinute (h : Health) (tj : Int) : Health :=
  let sum := h.minuteSum + tj
  if h.minuteCount + 1 < 60000 then { h with minuteSum := sum, minuteCount := h.minuteCount + 1 }
  else
    let b := tempBin (sum / 60000)
    { h with minuteSum := 0, minuteCount := 0
             tempMin := h.tempMin.mapIdx (fun i n => if i == b then satTo 0xFFFFFFFF (n + 1) else n) }

/-- THERMAL_SAMPLE: Tj is the mean of the last four samples of the hottest sensor; the step, TJ_PEAK, the minute bins and the
temperature trigger follow; the protective step asserts PE_WAKE_N (R112, R115, R559, R690). Readings in 0.25 °C. -/
def execThermalSample (s0 s1 s2 s3 : Int) (s : State) : Host.Outcome State Fault Refusal :=
  if !s.gbl.coreOn then .next s
  else
    let hot := maxInt [s0 + s.senseOff 0, s1 + s.senseOff 1, s2 + s.senseOff 2, s3 + s.senseOff 3]
    let l := (hot :: s.gbl.tjSamples).take 4
    let tj := clampInt (-2048) 2047 (l.sum / (l.length : Int))
    let step := stepAt s.gbl.thermStep tj
    let peak := if s.gbl.tjPeak == 0x80 then tj / 4 else max s.gbl.tjPeak.toInt (tj / 4)
    let t1 := { s with
      gbl := { s.gbl with tj := BitVec.ofInt 12 tj, tjSamples := l, thermStep := step, tjPeak := BitVec.ofInt 8 (clampInt (-128) 127 peak) }
      log := { s.log with health := noteMinute { s.log.health with tjMax := max s.log.health.tjMax tj } tj } }
    let t2 := if step != s.gbl.thermStep then setIrq t1 irqThermal else t1
    let t3 := if step == 4 && s.gbl.thermStep.val < 4 then assertWake t2 else t2
    .next (tempTrigger t3)

end Sys2Proof.Machine
end

