-- ==== Sys2Proof/Machine/HostReads.lean ====
section
/-! DEFINITION. What the host's reads return, aperture by aperture, and how the PHB address map sorts its accesses (R6, R163 to R166, R417,
R713). A read changes nothing but the capture of GBL_TICK_LO, which is a command of its own (R170). -/

namespace Sys2Proof.Machine

/-- The apertures of Table 6-1. -/
inductive Aperture where
  | regs | doorbells | window | msix
  deriving DecidableEq, Repr

/-- Byte `a` of the register page: its register is read whole and gives the byte its place (R6). -/
def State.regByte (s : State) (a : Nat) : Byte := BitVec.ofNat 8 (s.readReg (a / 4 * 4) / 2 ^ (8 * (a % 4)))

/-- The registers a read of `n` bytes acts on, in ascending order, whether it covers them whole or not (R6). A read that names 0x024
captures the tick (R170). -/
def regsRead (a n : Nat) : List Nat := ((List.range n).map (fun i => (a + i) / 4 * 4)).dedup

/-- Byte `x` of the DRAM window: 0 beyond populated DRAM (R165). -/
def State.winByte (s : State) (x : Nat) : Byte :=
  if x < s.winSize && s.winBase + x < s.dramBytes then memRead s.dram (s.winBase + x) else 0

/-- An entry of the MSI-X table as its 16 bytes hold it. -/
def MsixEntry.bytes (e : MsixEntry) : List Byte := leBytes 8 e.addr.toNat ++ leBytes 4 e.data.toNat ++ leBytes 4 (b2n e.masked)

/-- Byte `a` of the MSI-X page: the table, the Pending Bit Array, then 0 (R166). -/
def Pcie.msixByte (p : Pcie) (a : Nat) : Byte :=
  if a < 0x4000 then ((msixEntry p (a / 16)).bytes[a % 16]?).getD 0
  else if a < 0x4080 then BitVec.ofNat 8 (((p.pba.filter (fun v => v / 8 == a - 0x4000)).map (fun v => 2 ^ (v % 8))).sum)
  else 0

/-- What `n` bytes of an aperture read as. The MSI-X page answers aligned 32-bit and 64-bit reads; any other reads 0 in every byte (R166). A
read of the doorbell page returns 0 and rings nothing (R164). -/
def State.pageRead (s : State) (ap : Aperture) (a n : Nat) : List Byte :=
  match ap with
  | .regs => (List.range n).map (fun i => s.regByte (a + i))
  | .doorbells => List.replicate n 0
  | .window => (List.range n).map (fun i => s.winByte (a + i))
  | .msix => if (n == 4 || n == 8) && a % n == 0 then (List.range n).map (fun i => s.pcie.msixByte (a + i)) else List.replicate n 0

/-- A PCIe memory read; none is an Unsupported Request (R417). -/
def State.pcieRead (s : State) (ap : Aperture) (a n : Nat) : Option (List Byte) :=
  if !s.phb && s.hostAccess then some (s.pageRead ap a n) else none

/-- The PHB address map (Table 6-1): the aperture and the offset in it, or no aperture. -/
def phbDecode (a : Nat) : Option (Aperture × Nat) :=
  if a < 0x1000 then some (.regs, a)
  else if 0x4000 ≤ a && a < 0x8000 then some (.doorbells, a - 0x4000)
  else if 0x1000000 ≤ a && a < 0x4000000 then some (.window, a - 0x1000000)
  else none

/-- A beat of a PHB read: address bits [1:0] are ignored, and outside the apertures it returns 0 (R6, R163). -/
def State.phbRead (s : State) (a : Nat) : List Byte :=
  match phbDecode (a / 4 * 4) with
  | some (ap, x) => s.pageRead ap x 4
  | none => List.replicate 4 0

/-- What a beat of a PHB write is: a command on the register page or the doorbell page, bytes stored in the window, or nothing outside the
apertures (R163 to R165). -/
inductive PhbWrite where
  | command (c : Instr)
  | stores (bytes : List (Nat × Byte))
  | ignored
  deriving DecidableEq, Repr

/-- A beat of a PHB write with its byte enables. -/
def phbWrite (a : Nat) (v : Word) (be : BitVec 4) : PhbWrite :=
  match phbDecode (a / 4 * 4) with
  | some (.regs, x) => .command (.registerWrite (BitVec.ofNat 12 x) v be)
  | some (.doorbells, x) => .command (.doorbell (Fin.ofNat 4096 (x / 4)) be)
  | some (.window, x) => .stores (((List.range 4).filter (fun i => be.getLsbD i)).map (fun i =>
      (x + i, BitVec.ofNat 8 (v.toNat / 2 ^ (8 * i)))))
  | _ => .ignored

end Sys2Proof.Machine
end

