-- ==== Sys2Proof/Machine/Registers.lean ====
section
/-! DEFINITION. Writes to the register page, by offset (chapter 6), and the read of GBL_TICK_LO that captures the tick. -/

namespace Sys2Proof.Machine

/-! ## Global and protection registers -/

/-- A status bit that is set, unmasked by `mask`, signals while IRQ_EN is 1. -/
def State.signals (s : State) (mask : BitVec 13) : Bool := s.gbl.irqStatus &&& ~~~mask ≠ 0

/-- GBL_CTRL.IRQ_EN: setting it exposes the bits already set (R169). -/
def writeIrqEn (s : State) (v : Bool) : State :=
  let s1 := { s with gbl := { s.gbl with irqEn := v } }
  if v && !s.gbl.irqEn && s.signals s.gbl.irqMask then sendVector s1 0 else s1

/-- GBL_IRQ_MASK: a mask bit that clears may expose a set status bit (R169). -/
def writeIrqMask (s : State) (m : BitVec 13) : State :=
  let s1 := { s with gbl := { s.gbl with irqMask := m } }
  if s.gbl.irqEn && s.gbl.irqStatus &&& s.gbl.irqMask &&& ~~~m ≠ 0 then sendVector s1 0 else s1

/-- GBL_CTRL (Table 6-5): RO_REQ, IRQ_EN, then HALT_REQ before SOFT_RESET (R187); in HALTED and FAILED only IRQ_EN and
SOFT_RESET (R180). RO_REQ written together with HALT_REQ applies after the reset that leaves HALTED (R187, log 11). -/
def ctrlWrite (s : State) (v : Nat) : State :=
  let s1 := if bitOf v 3 && !s.limited then refresh { s with gbl := { s.gbl with roReq := true } } else s
  let s2 := writeIrqEn s1 (bitOf v 2)
  let s3 := if bitOf v 1 && !s.limited then enterHalted s2 causeHostHalt 0 else s2
  let s4 := if bitOf v 3 && bitOf v 1 && !s.limited then { s3 with aon := { s3.aon with roCarry := true } } else s3
  if bitOf v 0 then hostReset s4 2 else s4

/-- A write to an RWL register: it acts while BOOT_LOCK is clear, and is counted after (Table 0-2, R9, R171). -/
def rwlWrite (s : State) (off : Nat) (f : State → State) : State := if s.gbl.lock then violation s off else f s

/-- BOOT_LOCK: writing 1 closes the boot window; writing 0 has no effect (Table 6-11, R435). -/
def writeBootLock (s : State) (v : Nat) : State :=
  rwlWrite s 0x030 (fun s => if bitOf v 0 then refresh { s with gbl := { s.gbl with lock := true } } else s)

/-- PROT_QPART_MASK of the queue PROT_QPART_SEL names (R172). -/
def writeQpart (s : State) (v : Word) : State :=
  rwlWrite s 0x038 (fun s => { s with prot := { s.prot with
    qpart := if v = 0xFFFFFFFF then tdel s.prot.qpart s.prot.qpartSel.toNat else tput s.prot.qpart s.prot.qpartSel.toNat v } })

/-- PROT_POLICY, which the core publishes to the always-on logic (R657). -/
def writePolicy (s : State) (v : Nat) : State :=
  rwlWrite s 0x03C (fun s => { s with prot := { s.prot with policy := BitVec.ofNat 11 v }
                                      aon := { s.aon with policy := some (BitVec.ofNat 11 v) } })

/-- PHB_WIN: ignored while the admin queue, an I/O queue or a mover channel is enabled or running (R179). -/
def writePhbWin (s : State) (v : Nat) : State :=
  rwlWrite s 0x0D0 (fun s =>
    if s.adm.en || s.queues.qs.any (fun k => k.2.enabled) || s.mover.chs.any (fun c => c.state != .idle) then s
    else { s with prot := { s.prot with phbWin := BitVec.ofNat 13 v } })

/-! ## Admin queue (R175, R191, R196, R198) -/

/-- The queue parameters that ADMQ_CFG and the address registers give. -/
def State.admParams (s : State) : QParams :=
  { resetAdmq.p with
    base := s.adm.baseHi.toNat * 2 ^ 32 + s.adm.baseLo.toNat, shadow := s.adm.shadowHi.toNat * 2 ^ 32 + s.adm.shadowLo.toNat
    depthLog2 := s.adm.depthLog2.toNat, cacheMode := s.adm.cacheMode, prefetch := s.adm.prefetch.toNat
    crcReq := s.adm.crcReq }

/-- The configuration with EN = 1 is valid (R175). -/
def State.admOk (s : State) : Bool :=
  let p := s.admParams
  4 ≤ p.depthLog2 && p.depthLog2 ≤ 12 && placementOk s 0 p.base (64 * 2 ^ p.depthLog2) p.shadow

/-- Enable the admin queue at count 0, its shadow written (R175, R196, R198). -/
def admEnable (s : State) : State :=
  let s1 := modQueue s 0 (fun k => { resetAdmq with p := s.admParams, enabled := true, newestTag := k.newestTag })
  writeShadow { s1 with adm := { s1.adm with en := true, cfgErr := false } } 0

/-- A write of ADMQ_CFG (R175): with EN 1 before, only EN counts; with EN 0 before, the fields first. A write of EN = 1 before
IDLE is set is ignored (R191). -/
def admqCfgWrite (s : State) (v : Nat) : State :=
  if s.adm.en then (if bitOf v 16 then s else disableQueue s 0)
  else if bitOf v 16 && s.inflight 0 != 0 then s
  else
    let s1 := { s with adm := { s.adm with
      prefetch := BitVec.ofNat 8 (bitsOf v 15 8), crcReq := bitOf v 5, cacheMode := bitOf v 4
      depthLog2 := BitVec.ofNat 4 (v % 16) } }
    if !bitOf v 16 then s1
    else if s1.admOk then admEnable s1
    else { s1 with adm := { s1.adm with cfgErr := true } }

/-- QINV: cached copies of the selected queue are discarded; those the running scan fetched itself stay until it ends (R176,
R190, R209). -/
def invalidate (s : State) (all : Bool) (slot : Nat) : State :=
  modQueue s s.adm.qsel.toNat (fun k =>
    let hit := fun (c : CacheCopy) => all || c.slot == slot
    let own := fun (c : CacheCopy) => k.scan != .ended && decide (k.scanAge ≤ c.age)
    { k with stale := k.stale ++ (k.cache.filter (fun c => hit c && own c)).map (·.slot)
             cache := k.cache.filter (fun c => !hit c || own c)
             copies := k.copies.filter (fun c => !(c.older && (all || c.slot == slot))) })

/-! ## Mover, power, cascade -/

/-- Change the mover channel MOV_SEL names (R181). -/
def modSel (s : State) (f : MovCh → MovCh) : State := setMov s s.mover.sel (f s.movCh)

/-- Low and high halves of a 64-bit register. -/
def setLow (d : DWord) (v : Word) : DWord := BitVec.ofNat 64 (d.toNat / 2 ^ 32 * 2 ^ 32 + v.toNat)
def setHigh (d : DWord) (v : Word) : DWord := BitVec.ofNat 64 (d.toNat % 2 ^ 32 + v.toNat * 2 ^ 32)

/-- PWR_CTRL of a written value (Table 6-20). -/
def pwrOf (v : Nat) : PwrCtrl :=
  { pgIdle := BitVec.ofNat 8 (bitsOf v 23 16), cgIdle := BitVec.ofNat 8 (bitsOf v 15 8), statPage := bitOf v 6
    casPg := bitOf v 5, dramCg := bitOf v 4, sealPg := bitOf v 3, sealCg := bitOf v 2, chPg := bitOf v 1, chCg := bitOf v 0 }

/-- The domains after a change of PWR_CTRL: it governs the idle period that follows the work a domain is at; one that counts idle, or is
gated, keeps the enables its period began under (R194). -/
def State.domsUnder (s : State) (p : PwrCtrl) : Domains :=
  Vector.ofFn (fun d => if s.domBusy d.val then (s.doms[d]).touch p d.val else s.doms[d])

/-- PWR_CTRL (Table 6-20); in HALTED and FAILED only STAT_PAGE (R180). -/
def writePwr (s : State) (v : Nat) : State :=
  if s.limited then { s with pwr := { s.pwr with statPage := bitOf v 6 } }
  else { s with pwr := pwrOf v, doms := s.domsUnder (pwrOf v) }

/-- CAS_CTRL (Table 6-26): a port whose PORT_EN clears stops training; a link that is up stays up (R610). -/
def writeCas (s : State) (v : Nat) : State :=
  { s with cas := { s.cas with
    strict := bitOf v 4, joinEn := bitOf v 3, portEn := BitVec.ofNat 3 v
    ports := Vector.ofFn (fun i => let t := s.cas.ports[i]
      if bitOf v i.val then t else { t with training := false, rxTrain := 0 }) } }

/-- The registers that take writes in every state (R180). -/
def writeAlways (s : State) (off : Nat) (v : Word) : Option State :=
  match off with
  | 0x010 => some (ctrlWrite s v.toNat)
  | 0x01C => some { s with gbl := { s.gbl with irqStatus := s.gbl.irqStatus &&& ~~~(v.truncate 13) } }
  | 0x020 => some (writeIrqMask s (v.truncate 13))
  | 0x034 => some { s with prot := { s.prot with qpartSel := v.truncate 12 } }
  | 0x05C => some { s with adm := { s.adm with qsel := v.truncate 12 } }
  | 0x068 => some { s with mover := { s.mover with sel := Fin.ofNat 32 v.toNat } }
  | 0x084 => some (modSel s (fun m => { m with badSeen := m.badSeen && !bitOf v.toNat 4, aborted := m.aborted && !bitOf v.toNat 3 }))
  | 0x094 => some (writePwr s v.toNat)
  | 0x0B0 => some (mcCtrlWrite s v)
  | 0x0B4 => some { s with micro := { s.micro with checkPending := s.micro.checkPending &&& ~~~BitVec.ofNat 16 (v.toNat / 2 ^ 16) } }
  | 0x0C4 => some { s with cas := { s.cas with event := s.cas.event &&& ~~~(v.truncate 8) } }
  | 0x0CC => some { s with gbl := { s.gbl with scratch := v } }
  | _ => none

/-- The registers that take writes outside HALTED, FAILED and the park; every other offset ignores them (R1 to R3). ADMQ_BASE and
ADMQ_SHADOW are RW (Table 6-15): a write while EN is 1 changes the register, and the queue keeps the placement it was enabled with (R195;
DESIGN CHOICE, log 45). -/
def writeRunning (s : State) (off : Nat) (v : Word) : State :=
  match off with
  | 0x030 => writeBootLock s v.toNat
  | 0x038 => writeQpart s v
  | 0x03C => writePolicy s v.toNat
  | 0x040 => rwlWrite s 0x040 (fun s => { s with prot := { s.prot with retainMin := v.truncate 16 } })
  | 0x048 => { s with adm := { s.adm with baseLo := v &&& 0xFFFFF000 } }
  | 0x04C => { s with adm := { s.adm with baseHi := v } }
  | 0x050 => admqCfgWrite s v.toNat
  | 0x054 => { s with adm := { s.adm with shadowLo := v &&& 0xFFFFFFC0 } }
  | 0x058 => { s with adm := { s.adm with shadowHi := v } }
  | 0x064 => invalidate s (bitOf v.toNat 12) (v.toNat % 4096)
  | 0x06C => modSel s (fun m => { m with src := setLow m.src v })
  | 0x070 => modSel s (fun m => { m with src := setHigh m.src v })
  | 0x074 => modSel s (fun m => { m with dst := setLow m.dst v })
  | 0x078 => modSel s (fun m => { m with dst := setHigh m.dst v })
  | 0x07C => modSel s (fun m => { m with count := v })
  | 0x080 => movCtrlWrite s v
  | 0x088 => modSel s (fun m => { m with next := setLow m.next (v &&& 0xFFFFFFE0) })
  | 0x08C => modSel s (fun m => { m with next := setHigh m.next v })
  | 0x090 => modSel s (fun m => { m with burst := BitVec.ofNat 4 (bitsOf v.toNat 11 8), share := v.truncate 8 })
  | 0x0A4 => calCtrlWrite s v
  | 0x0BC => writeCas s v.toNat
  | 0x0D0 => writePhbWin s v.toNat
  | _ => s

/-- A write of a whole register that reaches the register page (R1 to R3, R180, R417). -/
def regWrite (s : State) (off : Nat) (v : Word) : State :=
  if !s.hostAccess then s
  else
    match writeAlways s off v with
    | some s1 => s1
    | none => if s.limited then s else writeRunning s off v

/-! ## The commands -/

/-- TICK_CAPTURE: a read of GBL_TICK_LO, of all its bytes or some (R6), captures the whole tick (R170). -/
def execTickCapture (s : State) : Host.Outcome State Fault Refusal :=
  .next (if s.hostAccess then { s with gbl := { s.gbl with capture := s.gbl.tick } } else s)

/-- REGISTER_WRITE: it must cover all four bytes of a register; PHB ignores address bits [1:0], a misaligned PCIe write covers
none whole (R6). -/
def execRegisterWrite (offset : BitVec 12) (value : Word) (be : BitVec 4) (s : State) : Host.Outcome State Fault Refusal :=
  let off := offset.toNat
  if be != 0xF || (!s.phb && off % 4 != 0) then .next s else .next (regWrite s (off / 4 * 4) value)

/-- A GBL_CTRL value from its bits. -/
def ctrlValue (ro irq halt soft : Bool) : Word := BitVec.ofNat 32 (8 * b2n ro + 4 * b2n irq + 2 * b2n halt + b2n soft)

/-- RO_REQ: a read-only request in effect until reset (R18, Table 6-5). -/
def execRoReq (irqEn : Bool) (s : State) : Host.Outcome State Fault Refusal :=
  .next (regWrite s 0x010 (ctrlValue true irqEn false false))

/-- HALT_REQ: the device enters HALTED with cause HOST_HALT; a soft reset of the same write follows (R187, R255). -/
def execHaltReq (roReq softReset irqEn : Bool) (s : State) : Host.Outcome State Fault Refusal :=
  .next (regWrite s 0x010 (ctrlValue roReq irqEn true softReset))

/-- SOFT_RESET: the host-facing state resets with the scope of Table 4-4 (R103, R106, R133). -/
def execSoftReset (roReq irqEn : Bool) (s : State) : Host.Outcome State Fault Refusal :=
  .next (regWrite s 0x010 (ctrlValue roReq irqEn false true))

/-- IRQ_ENABLE_WRITE: GBL_CTRL.IRQ_EN is set and exposes the status bits already set (R169). -/
def execIrqEnableWrite (s : State) : Host.Outcome State Fault Refusal :=
  .next (regWrite s 0x010 (ctrlValue false true false false))

/-- IRQ_MASK_WRITE: GBL_IRQ_MASK (R169). -/
def execIrqMaskWrite (mask : Word) (s : State) : Host.Outcome State Fault Refusal := .next (regWrite s 0x020 mask)

/-- BOOT_LOCK_SET: BOOT_LOCK.LOCK is written 1 (R435). -/
def execBootLockSet (s : State) : Host.Outcome State Fault Refusal := .next (regWrite s 0x030 1)

/-- ADMQ_ENABLE: ADMQ_CFG is written with EN = 1 (R175). -/
def execAdmqEnable (value : Word) (s : State) : Host.Outcome State Fault Refusal :=
  .next (regWrite s 0x050 (value ||| 0x00010000))

/-- ADMQ_DISABLE: ADMQ_CFG is written with EN = 0 (R175, R191). -/
def execAdmqDisable (value : Word) (s : State) : Host.Outcome State Fault Refusal :=
  .next (regWrite s 0x050 (value &&& 0xFFFEFFFF))

/-- QINV_SLOT: QINV is written with a slot and ALL 0 (R176). -/
def execQinvSlot (slot : BitVec 12) (s : State) : Host.Outcome State Fault Refusal :=
  .next (regWrite s 0x064 (slot.zeroExtend 32))

/-- QINV_ALL: QINV is written with ALL 1 (R176). -/
def execQinvAll (s : State) : Host.Outcome State Fault Refusal := .next (regWrite s 0x064 0x00001000)

end Sys2Proof.Machine
end

