-- ==== Sys2Proof/Machine/Dispatch.lean ====
section
/-! DEFINITION. One arm per command: its meaning, or its name where it has none yet. -/

namespace Sys2Proof.Machine

def exec (i : Instr) (s : State) : Host.Outcome State Fault Refusal :=
  match i with
  | .powerOn => Sys2Proof.Machine.execPowerOn s
  | .vaonLoss => Sys2Proof.Machine.execVaonLoss s
  | .resetAssert => Sys2Proof.Machine.execResetAssert s
  | .resetRelease straps rails testEn => Sys2Proof.Machine.execResetRelease straps rails testEn s
  | .strapCompare levels => Sys2Proof.Machine.execStrapCompare levels s
  | .coreRelease dramGib => Sys2Proof.Machine.execCoreRelease dramGib s
  | .pllLockTimeout => Sys2Proof.Machine.execPllLockTimeout s
  | .firmwareStart hashOk signOk identityOk => Sys2Proof.Machine.execFirmwareStart hashOk signOk identityOk s
  | .probe found mcOk => Sys2Proof.Machine.execProbe found mcOk s
  | .bootWindowEntry => Sys2Proof.Machine.execBootWindowEntry s
  | .recoveryStart => Sys2Proof.Machine.execRecoveryStart s
  | .footingCheck descOk written => Sys2Proof.Machine.execFootingCheck descOk written s
  | .recovered plinthOk scanned => Sys2Proof.Machine.execRecovered plinthOk scanned s
  | .fullService => Sys2Proof.Machine.execFullService s
  | .footingRebuild => Sys2Proof.Machine.execFootingRebuild s
  | .autoLock => Sys2Proof.Machine.execAutoLock s
  | .perstAssert => Sys2Proof.Machine.execPerstAssert s
  | .linkDown => Sys2Proof.Machine.execLinkDown s
  | .linkUp lanes gen => Sys2Proof.Machine.execLinkUp lanes gen s
  | .flr => Sys2Proof.Machine.execFlr s
  | .pfailAssert => Sys2Proof.Machine.execPfailAssert s
  | .vddCoreLow => Sys2Proof.Machine.execVddCoreLow s
  | .sysclkLoss => Sys2Proof.Machine.execSysclkLoss s
  | .thermalCritical => Sys2Proof.Machine.execThermalCritical s
  | .pfSafe => Sys2Proof.Machine.execPfSafe s
  | .railLoss bank => Sys2Proof.Machine.execRailLoss bank s
  | .adcSample raw => Sys2Proof.Machine.execAdcSample raw s
  | .ackRelease => Sys2Proof.Machine.execAckRelease s
  | .thermalSample s0 s1 s2 s3 => Sys2Proof.Machine.execThermalSample s0 s1 s2 s3 s
  | .domainGate d power packets => Sys2Proof.Machine.execDomainGate d power packets s
  | .domainWake d packets => Sys2Proof.Machine.execDomainWake d packets s
  | .tickCapture => Sys2Proof.Machine.execTickCapture s
  | .registerWrite offset value be => Sys2Proof.Machine.execRegisterWrite offset value be s
  | .roReq irqEn => Sys2Proof.Machine.execRoReq irqEn s
  | .haltReq roReq softReset irqEn => Sys2Proof.Machine.execHaltReq roReq softReset irqEn s
  | .softReset roReq irqEn => Sys2Proof.Machine.execSoftReset roReq irqEn s
  | .irqEnableWrite => Sys2Proof.Machine.execIrqEnableWrite s
  | .irqMaskWrite mask => Sys2Proof.Machine.execIrqMaskWrite mask s
  | .bootLockSet => Sys2Proof.Machine.execBootLockSet s
  | .admqEnable value => Sys2Proof.Machine.execAdmqEnable value s
  | .admqDisable value => Sys2Proof.Machine.execAdmqDisable value s
  | .qinvSlot slot => Sys2Proof.Machine.execQinvSlot slot s
  | .qinvAll => Sys2Proof.Machine.execQinvAll s
  | .doorbell n be => Sys2Proof.Machine.execDoorbell n be s
  | .queueScan bus => Sys2Proof.Machine.execQueueScan bus s
  | .scanResume q => Sys2Proof.Machine.execScanResume q s
  | .entryCrcReread q count bus => Sys2Proof.Machine.execEntryCrcReread q count bus s
  | .writeVisible q count => Sys2Proof.Machine.execWriteVisible q count s
  | .shadowWrite q => Sys2Proof.Machine.execShadowWrite q s
  | .coalTimeout q => Sys2Proof.Machine.execCoalTimeout q s
  | .read q count bus fl => Sys2Proof.Machine.execRead q count bus fl s
  | .write q count bus => Sys2Proof.Machine.execWrite q count bus s
  | .writeZeroes q count bus => Sys2Proof.Machine.execWriteZeroes q count bus s
  | .trim q count bus => Sys2Proof.Machine.execTrim q count bus s
  | .flush q count => Sys2Proof.Machine.execFlush q count s
  | .fence q count => Sys2Proof.Machine.execFence q count s
  | .streamOpen q count => Sys2Proof.Machine.execStreamOpen q count s
  | .streamAppend q count bus => Sys2Proof.Machine.execStreamAppend q count bus s
  | .streamMark q count => Sys2Proof.Machine.execStreamMark q count s
  | .streamClose q count => Sys2Proof.Machine.execStreamClose q count s
  | .streamRead q count bus fl => Sys2Proof.Machine.execStreamRead q count bus fl s
  | .rawRead q count bus cws retry => Sys2Proof.Machine.execRawRead q count bus cws retry s
  | .streamTransfer q count => Sys2Proof.Machine.execStreamTransfer q count s
  | .identify count bus => Sys2Proof.Machine.execIdentify count bus s
  | .attest count bus => Sys2Proof.Machine.execAttest count bus s
  | .createQueue count => Sys2Proof.Machine.execCreateQueue count s
  | .disableQueue count bus => Sys2Proof.Machine.execDisableQueue count bus s
  | .destroyQueue count => Sys2Proof.Machine.execDestroyQueue count s
  | .queryQueue count => Sys2Proof.Machine.execQueryQueue count s
  | .createPartition count bus => Sys2Proof.Machine.execCreatePartition count bus s
  | .deletePartition count => Sys2Proof.Machine.execDeletePartition count s
  | .setHold count => Sys2Proof.Machine.execSetHold count s
  | .setTime count => Sys2Proof.Machine.execSetTime count s
  | .getLog count bus => Sys2Proof.Machine.execGetLog count bus s
  | .setFeature count => Sys2Proof.Machine.execSetFeature count s
  | .getFeature count => Sys2Proof.Machine.execGetFeature count s
  | .loadProfile count bus => Sys2Proof.Machine.execLoadProfile count bus s
  | .loadMicrocode count bus => Sys2Proof.Machine.execLoadMicrocode count bus s
  | .commitFirmware count bus => Sys2Proof.Machine.execCommitFirmware count bus s
  | .startCalibration count => Sys2Proof.Machine.execStartCalibration count s
  | .attachMapStore count bus => Sys2Proof.Machine.execAttachMapStore count bus s
  | .detachMapStore count => Sys2Proof.Machine.execDetachMapStore count s
  | .cascadeEnumerate count held => Sys2Proof.Machine.execCascadeEnumerate count held s
  | .cascadeRoster count bus => Sys2Proof.Machine.execCascadeRoster count bus s
  | .adoptMedia count bus => Sys2Proof.Machine.execAdoptMedia count bus s
  | .sanitize count residue => Sys2Proof.Machine.execSanitize count residue s
  | .selfTest count r => Sys2Proof.Machine.execSelfTest count r s
  | .ashlarTimeout part stream => Sys2Proof.Machine.execAshlarTimeout part stream s
  | .capstoneSigned => Sys2Proof.Machine.execCapstoneSigned s
  | .retentionCheck => Sys2Proof.Machine.execRetentionCheck s
  | .flashStatusPoll lun answer => Sys2Proof.Machine.execFlashStatusPoll lun answer s
  | .flashResume lun fail => Sys2Proof.Machine.execFlashResume lun fail s
  | .gcReclaim => Sys2Proof.Machine.execGcReclaim s
  | .wearLevel => Sys2Proof.Machine.execWearLevel s
  | .refresh lun block soft3 => Sys2Proof.Machine.execRefresh lun block soft3 s
  | .footingFold => Sys2Proof.Machine.execFootingFold s
  | .dieRelocate => Sys2Proof.Machine.execDieRelocate s
  | .blockErase => Sys2Proof.Machine.execBlockErase s
  | .plinthWrite => Sys2Proof.Machine.execPlinthWrite s
  | .hmapScrub bus => Sys2Proof.Machine.execHmapScrub bus s
  | .overdrivePeriod waited bgBytes gcShare => Sys2Proof.Machine.execOverdrivePeriod waited bgBytes gcShare s
  | .healthCommit => Sys2Proof.Machine.execHealthCommit s
  | .calReqTrim value => Sys2Proof.Machine.execCalReqTrim value s
  | .calReqTrack value => Sys2Proof.Machine.execCalReqTrack value s
  | .calReqHoldup value => Sys2Proof.Machine.execCalReqHoldup value s
  | .calTrimRun results => Sys2Proof.Machine.execCalTrimRun results s
  | .calTrackRun results => Sys2Proof.Machine.execCalTrackRun results s
  | .calHoldupRun => Sys2Proof.Machine.execCalHoldupRun s
  | .holdupDischargeTimeout => Sys2Proof.Machine.execHoldupDischargeTimeout s
  | .holdupRechargeTimeout => Sys2Proof.Machine.execHoldupRechargeTimeout s
  | .holdupConditionTimeout => Sys2Proof.Machine.execHoldupConditionTimeout s
  | .calRepeat kind => Sys2Proof.Machine.execCalRepeat kind s
  | .mcSwitch value => Sys2Proof.Machine.execMcSwitch value s
  | .mcForce value => Sys2Proof.Machine.execMcForce value s
  | .switchTaken ch inputs => Sys2Proof.Machine.execSwitchTaken ch inputs s
  | .mcSwitchTimeout ch => Sys2Proof.Machine.execMcSwitchTimeout ch s
  | .machineCheck ch addr readbackOk referenceOk => Sys2Proof.Machine.execMachineCheck ch addr readbackOk referenceOk s
  | .mcScrub bad => Sys2Proof.Machine.execMcScrub bad s
  | .masonRoutinePost ch routine opnds work => Sys2Proof.Machine.execMasonRoutinePost ch routine opnds work s
  | .masonEvent ch inputs => Sys2Proof.Machine.execMasonEvent ch inputs s
  | .movStart value => Sys2Proof.Machine.execMovStart value s
  | .movAbort value => Sys2Proof.Machine.execMovAbort value s
  | .evtInEdge pin => Sys2Proof.Machine.execEvtInEdge pin s
  | .moverDescFetch ch bus => Sys2Proof.Machine.execMoverDescFetch ch bus s
  | .moverBurstStart ch => Sys2Proof.Machine.execMoverBurstStart ch s
  | .moverBurstDone ch bus => Sys2Proof.Machine.execMoverBurstDone ch bus s
  | .evtOutEnd pin => Sys2Proof.Machine.execEvtOutEnd pin s
  | .portTrain port => Sys2Proof.Machine.execPortTrain port s
  | .trainRetry port => Sys2Proof.Machine.execTrainRetry port s
  | .train port role version keystone => Sys2Proof.Machine.execTrain port role version keystone s
  | .ack port seq => Sys2Proof.Machine.execAck port seq s
  | .nak port seq => Sys2Proof.Machine.execNak port seq s
  | .credit port ent req rsp => Sys2Proof.Machine.execCredit port ent req rsp s
  | .replayTimeout port => Sys2Proof.Machine.execReplayTimeout port s
  | .creditTimer port => Sys2Proof.Machine.execCreditTimer port s
  | .leaveDetect port => Sys2Proof.Machine.execLeaveDetect port s
  | .entry port rx => Sys2Proof.Machine.execEntry port rx s
  | .pull port rx bus => Sys2Proof.Machine.execPull port rx bus s
  | .pulldata port rx => Sys2Proof.Machine.execPulldata port rx s
  | .rdata port rx bus => Sys2Proof.Machine.execRdata port rx bus s
  | .compl port rx => Sys2Proof.Machine.execCompl port rx s
  | .enum port rx => Sys2Proof.Machine.execEnum port rx s
  | .enumAck port rx => Sys2Proof.Machine.execEnumAck port rx s
  | .attestReq port rx => Sys2Proof.Machine.execAttestReq port rx s
  | .attestRsp port rx => Sys2Proof.Machine.execAttestRsp port rx s
  | .attestTimeout => Sys2Proof.Machine.execAttestTimeout s
  | .join port rx => Sys2Proof.Machine.execJoin port rx s
  | .leave port rx => Sys2Proof.Machine.execLeave port rx s
  | .keyq port rx => Sys2Proof.Machine.execKeyq port rx s
  | .keyrsp port rx => Sys2Proof.Machine.execKeyrsp port rx s
  | .mspReadStatus arg hcrc => Sys2Proof.Machine.execMspReadStatus arg hcrc s
  | .mspReadId arg hcrc => Sys2Proof.Machine.execMspReadId arg hcrc s
  | .readOtp arg hcrc => Sys2Proof.Machine.execReadOtp arg hcrc s
  | .readSnapshot arg hcrc => Sys2Proof.Machine.execReadSnapshot arg hcrc s
  | .orderSet arg payload hcrc => Sys2Proof.Machine.execOrderSet arg payload hcrc s
  | .orderClear arg payload hcrc => Sys2Proof.Machine.execOrderClear arg payload hcrc s
  | .burn arg payload hcrc => Sys2Proof.Machine.execBurn arg payload hcrc s
  | .mspBadOp op arg hcrc => Sys2Proof.Machine.execMspBadOp op arg hcrc s
  | .mspCsRise clocks failing => Sys2Proof.Machine.execMspCsRise clocks failing s
  | .orderApply => Sys2Proof.Machine.execOrderApply s
  | .disagreeTimeout => Sys2Proof.Machine.execDisagreeTimeout s
  | .thermometerBurn firmware => Sys2Proof.Machine.execThermometerBurn firmware s
  | .pfailDeassert => Sys2Proof.Machine.execPfailDeassert s
  | .perstRelease => Sys2Proof.Machine.execPerstRelease s
  | .presenceChange present => Sys2Proof.Machine.execPresenceChange present s
  | .blockLockAcquired port => Sys2Proof.Machine.execBlockLockAcquired port s
  | .blockLockLost port => Sys2Proof.Machine.execBlockLockLost port s
  | .configWrite change => Sys2Proof.Machine.execConfigWrite change s
  | .msixTableWrite offset value wide => Sys2Proof.Machine.execMsixTableWrite offset value wide s
  | .linkPowerState pm => Sys2Proof.Machine.execLinkPowerState pm s
  | .boundaryScanInstruction code cells levels straps rails testEn => Sys2Proof.Machine.execBoundaryScanInstruction code cells levels straps rails testEn s

end Sys2Proof.Machine
end

