-- ==== Sys2Proof/Machine/Idle.lean ====
section
/-! DEFINITION. What passes while no command waits: time. -/

namespace Sys2Proof.Machine

/-- GBL_TICK counts: it runs from the RESET_N rise on, until SYSCLK is lost (R100, R141). -/
def State.ticking (s : State) : Bool := s.pins.vaon && s.pins.resetN && !s.gbl.clockLost

/-- One microsecond of GBL_TICK (R141; DESIGN CHOICE, log 6: an empty queue stands for 1 µs). Each whole second with VDD_CORE
valid counts in CORE_ON_S (Table 21-5a). -/
def idleTick (s : State) : State :=
  if s.ticking then
    let t := s.gbl.tick + 1
    let h := s.log.health
    { s with
      gbl := { s.gbl with tick := t }
      log := { s.log with health := if s.gbl.coreOn && s.pins.vddCore && t.toNat % 1000000 == 0
        then { h with coreOnS := satTo 0xFFFFFFFFFFFFFFFF (h.coreOnS + 1) } else h } }
  else s

end Sys2Proof.Machine
end

