-- ==== Sys2Proof/Safety.lean ====
section
/-! DEFINITION. What a safe run is: no step ends in a fault or a refusal. -/

namespace Sys2Proof

/-- The outcome is a next state. -/
def Safe (o : Host.Outcome Machine.State Machine.Fault Machine.Refusal) : Prop := ∃ t, o = .next t

/-- Every one of the first `n` steps from `s` answers a next state. -/
def SafeRun : Nat → Machine.State → Prop
  | 0, _ => True
  | n + 1, s => ∃ t, Machine.step s = .next t ∧ SafeRun n t

/-- Power domains before and after accesses: each is as it was, or, unless it is off until reset, woken (R107, R110, R147). -/
def Machine.DomsWoken (p : Machine.PwrCtrl) (a b : Vector Machine.Domain 22) : Prop :=
  ∀ d : Fin 22, b[d] = a[d] ∨ (a[d].mode ≠ .offUntilReset ∧ b[d] = (a[d]).woken p d.val)

end Sys2Proof
end

