-- ==== Sys2Proof/Certificates/Slice0/Obligations.lean ====
section
/-! DEFINITION. The statements about the model, one `def Obligations.<Name> : Prop` each. A clause that quotes a state's record with
some fields changed says also that every other field keeps its value. -/

open Sys2Proof Sys2Proof.Machine

namespace Sys2Proof.Claims

/-! What several statements speak of. -/

/-- Every bit of the OTP array that was programmed is programmed still. -/
def OtpGrows (s t : State) : Prop := ∀ i : Fin 256, ∀ b : Nat, (s.aon.otp[i]).getLsbD b = true → (t.aon.otp[i]).getLsbD b = true

/-- The registers that follow the RWL rule, beside BOOT_LOCK itself: masks, policy, retention floor, DRAM window. -/
def RwlSame (s t : State) : Prop :=
  t.prot.qpart = s.prot.qpart ∧ t.prot.policy = s.prot.policy ∧ t.prot.retainMin = s.prot.retainMin ∧ t.prot.phbWin = s.prot.phbWin

/-- The two memories keep their canonical form, and the error log its bound of 4,096 entries (R687). -/
def StateInv (s : State) : Prop := memWf s.host = true ∧ memWf s.dram = true ∧ s.log.entries.length ≤ 4096

/-- The commands that begin or end a reset: power-on, loss of VAON, RESET_N either way, and the boundary-scan instruction that lets a
deferred rise of RESET_N through. -/
def isReset : Instr → Bool
  | .powerOn | .vaonLoss | .resetAssert | .resetRelease .. | .boundaryScanInstruction .. => true
  | _ => false

/-- What the commands of consumed entries, media work and timers leave alone: the always-on logic, the protection registers, the
admin-queue registers, PWR_CTRL and the Block Mover, and the power domains but for those that an access wakes. -/
def QuietFrame (s t : State) : Prop :=
  t.aon = s.aon ∧ t.prot = s.prot ∧ t.adm = s.adm ∧ t.pwr = s.pwr ∧ DomsWoken s.pwr s.doms t.doms ∧ t.mover = s.mover

/-- Every byte of shared memory and of attached DRAM reads as before. -/
def MemoryFrame (s t : State) : Prop := ∀ a : Nat, memRead t.host a = memRead s.host a ∧ memRead t.dram a = memRead s.dram a

/-- The device is up, runs, and no power-fail sequence is under way: the host reaches every register and nothing is limited. -/
def Runs (s : State) : Prop := s.hostAccess = true ∧ s.limited = false ∧ s.energy.pfSeq = false

/-- The commands of the frame below: entries of the queues, media work, calibration, the cascade's packets, timers. -/
def isQuiet : Instr → Bool
  | .ack .. | .ackRelease | .adoptMedia .. | .ashlarTimeout .. | .attachMapStore .. | .attest .. | .attestReq ..
  | .autoLock | .blockErase | .blockLockAcquired .. | .blockLockLost .. | .calHoldupRun | .calRepeat .. | .calReqHoldup ..
  | .calReqTrack .. | .calReqTrim .. | .calTrackRun .. | .calTrimRun .. | .capstoneSigned | .cascadeEnumerate ..
  | .cascadeRoster .. | .coalTimeout .. | .commitFirmware .. | .createPartition .. | .createQueue .. | .credit ..
  | .creditTimer .. | .deletePartition .. | .destroyQueue .. | .detachMapStore .. | .dieRelocate | .doorbell .. | .entry ..
  | .enum .. | .enumAck .. | .evtOutEnd .. | .fence .. | .flashResume .. | .flush .. | .footingCheck .. | .footingFold
  | .footingRebuild | .gcReclaim | .getFeature .. | .getLog .. | .healthCommit | .hmapScrub .. | .holdupConditionTimeout
  | .holdupDischargeTimeout | .holdupRechargeTimeout | .identify .. | .join .. | .keyq .. | .keyrsp .. | .loadMicrocode ..
  | .loadProfile .. | .mcScrub .. | .mcSwitchTimeout .. | .msixTableWrite .. | .overdrivePeriod .. | .perstRelease
  | .pfailDeassert | .plinthWrite | .pull .. | .pulldata .. | .queryQueue .. | .rawRead .. | .rdata .. | .read ..
  | .recovered .. | .recoveryStart | .refresh .. | .retentionCheck | .sanitize .. | .scanResume .. | .setFeature ..
  | .setHold .. | .setTime .. | .shadowWrite .. | .startCalibration .. | .streamAppend .. | .streamClose ..
  | .streamMark .. | .streamOpen .. | .streamRead .. | .streamTransfer .. | .thermalSample .. | .tickCapture | .train ..
  | .trim .. | .wearLevel | .write .. | .writeVisible .. | .writeZeroes .. => true
  | _ => false

/-- The commands that store nothing to shared memory or DRAM. -/
def storesNothing : Instr → Bool
  | .ack .. | .attestReq .. | .attestRsp .. | .attestTimeout | .autoLock | .blockErase | .blockLockAcquired ..
  | .blockLockLost .. | .burn .. | .calHoldupRun | .calRepeat .. | .calReqHoldup .. | .calReqTrack .. | .calReqTrim ..
  | .configWrite .. | .credit .. | .creditTimer .. | .dieRelocate | .disagreeTimeout | .domainGate .. | .domainWake ..
  | .doorbell .. | .entry .. | .enum .. | .enumAck .. | .evtInEdge .. | .evtOutEnd .. | .footingCheck .. | .footingFold
  | .footingRebuild | .fullService | .gcReclaim | .healthCommit | .join .. | .keyq .. | .linkPowerState .. | .masonEvent ..
  | .masonRoutinePost .. | .mcScrub .. | .mcSwitchTimeout .. | .moverBurstStart .. | .msixTableWrite .. | .mspBadOp ..
  | .mspCsRise .. | .mspReadId .. | .mspReadStatus .. | .orderClear .. | .orderSet .. | .overdrivePeriod .. | .perstRelease
  | .pfSafe | .pfailDeassert | .portTrain .. | .presenceChange .. | .railLoss .. | .readOtp .. | .readSnapshot ..
  | .recoveryStart | .retentionCheck | .scanResume .. | .switchTaken .. | .thermalSample .. | .thermometerBurn ..
  | .tickCapture | .train .. | .trainRetry .. | .wearLevel => true
  | _ => false

end Sys2Proof.Claims

open Sys2Proof.Claims

/-! ## The queue of commands -/

/-- The command in front of the queue runs on the state with the queue's rest. -/
def Obligations.StepTakesFront : Prop :=
  ∀ (c : Instr) (cs : List Instr) (s : State), step { s with pending := c :: cs } = exec c { s with pending := cs }

/-- With no command waiting a microsecond passes (the model's choice, log 6): GBL_TICK advances where R141 lets it, each whole second
with VDD_CORE valid counts in CORE_ON_S, and nothing else changes. -/
def Obligations.IdleStepCountsTick : Prop :=
  ∀ s : State, s.pending = [] →
    (s.ticking = false → step s = .next s) ∧
    (s.ticking = true → step s = .next { s with
      gbl := { s.gbl with tick := s.gbl.tick + 1 }
      log := { s.log with health := { s.log.health with
        coreOnS := if s.gbl.coreOn = true ∧ s.pins.vddCore = true ∧ (s.gbl.tick + 1).toNat % 1000000 = 0
          then satTo 0xFFFFFFFFFFFFFFFF (s.log.health.coreOnS + 1) else s.log.health.coreOnS } } })

/-- No command ends a run. Every command, with any operands and in any state, completes: exec answers a next state; and so does every step
of any number of steps from any state. -/
def Obligations.NoCommandStops : Prop :=
  (∀ (c : Instr) (s : State), ∃ t, exec c s = .next t) ∧ ∀ (n : Nat) (s : State), SafeRun n s

/-! ## Invariants of every step -/

/-- Every step keeps the canonical form of the two memories and the bound of the error log. -/
def Obligations.StepKeepsInv : Prop := ∀ s t : State, StateInv s → step s = .next t → StateInv t

/-- State.reset meets the invariant with no command waiting, and GBL_IRQ_MASK, GBL_IRQ_STATUS, LOCK, the halt cause, PWR_SAFE, WP_N,
ON_MEDIA and PORT_EN hold their Reset columns. -/
def Obligations.ResetMeetsInv : Prop :=
  StateInv State.reset ∧ State.reset.pending = [] ∧ State.reset.gbl.irqMask = 0x1FFF ∧ State.reset.gbl.irqStatus = 0 ∧
  State.reset.gbl.lock = false ∧ State.reset.gbl.halt = ⟨0, 0⟩ ∧ State.reset.pins.pwrSafe = true ∧ State.reset.pins.wpN = 0 ∧
  State.reset.energy.onMedia = true ∧ State.reset.cas.portEn = 7

/-- No step, not even a reset or the loss of VAON, clears a programmed bit of the OTP array. -/
def Obligations.OtpBitsNeverClear : Prop := ∀ s t : State, step s = .next t → OtpGrows s t

/-- Outside the resets the first halt cause stays, LOCK stays set, and while it is set the registers of the RWL rule keep their values. -/
def Obligations.FirstCauseAndLockLast : Prop :=
  ∀ (c : Instr) (s t : State), isReset c = false → exec c s = .next t →
    (s.gbl.halt.cause ≠ 0 → t.gbl.halt = s.gbl.halt) ∧ (s.gbl.lock = true → t.gbl.lock = true ∧ RwlSame s t)

/-- HALTED, FAILED and a power-fail sequence last until a reset. -/
def Obligations.StopsLastUntilReset : Prop :=
  ∀ (c : Instr) (s t : State), isReset c = false → exec c s = .next t →
    (s.gbl.halted = true → t.gbl.halted = true) ∧ (s.gbl.failed = true → t.gbl.failed = true) ∧
    (s.energy.pfSeq = true → t.energy.pfSeq = true)

/-- A command leaves the queue of waiting commands as it finds it, and sequence numbers of the error log only grow: over every command, the
resets among them. -/
def Obligations.QueueKeptAndLogSequenceGrows : Prop :=
  ∀ (c : Instr) (s t : State), exec c s = .next t → t.pending = s.pending ∧ s.log.nextSeq ≤ t.log.nextSeq

/-! ## Frames -/

/-- The commands of entries, media work, calibration, packets and timers leave the always-on logic, the protection registers, the
admin-queue registers, PWR_CTRL and the Block Mover as they are, and each power domain too, unless an access woke it. -/
def Obligations.EntryAndMediaFrame : Prop :=
  ∀ (c : Instr) (s t : State), isQuiet c = true → exec c s = .next t → QuietFrame s t

/-- The commands that store nothing leave every byte of shared memory and of attached DRAM as it is. -/
def Obligations.StoresNothingFrame : Prop :=
  ∀ (c : Instr) (s t : State), storesNothing c = true → exec c s = .next t → MemoryFrame s t

/-! ## Power, RESET_N and the straps -/

/-- POWER_ON without VAON brings up the always-on logic: the shadow is loaded from the OTP array, the newest valid Settings slot is in
force, the order mirror counts from 0, no policy is published, and CORE stays in reset with the GBL registers at their Reset columns; the
OTP, the committed log and the memories stay. -/
def Obligations.PowerOnResult : Prop :=
  ∀ s : State, s.pins.vaon = false →
    ∃ t, exec .powerOn s = .next t ∧ t.pins.vaon = true ∧ t.pins.resetN = false ∧ t.pins.pwrSafe = true ∧ t.pins.wpN = 0 ∧
      t.gbl = { resetGbl with state := .aonReady } ∧ t.aon.otp = s.aon.otp ∧ t.aon.shadow = s.aon.otp ∧
      t.aon.setInForce = newestSlot s.aon.otp ∧ t.aon.setRec = settingsOf s.aon.otp (newestSlot s.aon.otp) ∧
      t.aon.reqGen = 0 ∧ t.aon.ackGen = 0 ∧ t.aon.effGen = 0 ∧ t.aon.refused = 0 ∧ t.aon.policy = none ∧
      t.log.entries = s.log.entries ∧ t.host = s.host ∧ t.dram = s.dram

/-- VAON_LOSS resets the always-on logic and holds the core in reset. A burn that ran leaves a word that keeps its old bits and has at most
the payload's besides, and no other word changes. -/
def Obligations.VaonLossResult : Prop :=
  ∀ s : State, s.pins.vaon = true →
    (∀ f : Option MspFrame, s.aon.frame = f → (∀ w v fs d, f ≠ some ⟨some (w, v), fs, d⟩) →
      ∃ t, exec .vaonLoss s = .next t ∧ t.pins.vaon = false ∧ t.gbl = resetGbl ∧ t.pins.wpN = 0 ∧
        t.aon = { resetAon s.aon.otp with testEnSeen := s.aon.testEnSeen } ∧ t.log.entries = s.log.entries) ∧
    (∀ (w : Fin 256) (v : DWord) (fs : Nat) (d : List Byte), s.aon.frame = some ⟨some (w.val, v), fs, d⟩ →
      ∃ t, exec .vaonLoss s = .next t ∧ t.pins.vaon = false ∧ t.gbl = resetGbl ∧
        s.aon.otp[w] &&& ~~~t.aon.otp[w] = 0 ∧ t.aon.otp[w] &&& ~~~(s.aon.otp[w] ||| v) = 0 ∧
        ∀ i : Fin 256, i ≠ w → t.aon.otp[i] = s.aon.otp[i])

/-- RESET_ASSERT resets everything outside the always-on logic at once: every register at its Reset column, PWR_SAFE at its level, WP_N
low; the OTP, the orders of the mirror, the committed log and the memories stay. -/
def Obligations.ResetAssertScope : Prop :=
  ∀ s : State, s.pins.vaon = true →
    ∃ t, exec .resetAssert s = .next t ∧ t.gbl = resetGbl ∧ t.prot = resetProt s.aon.setRec ∧ t.adm = resetAdm ∧ t.pwr = resetPwr ∧
      t.mover = resetMover ∧ t.pcie = resetPcie ∧ t.queues = resetQueues ∧ t.stage.writes = [] ∧ t.doms = resetDomains ∧
      t.pins = { s.pins with
        resetN := false, deferredRise := false, wpN := 0, wake := false, clkreq := true, evtOut := 0, railLost := 0 } ∧
      t.aon.otp = s.aon.otp ∧ t.aon.shadow = s.aon.shadow ∧ t.aon.straps = s.aon.straps ∧ t.aon.policy = none ∧
      t.aon.reqCh = s.aon.reqCh ∧ t.aon.reqFlags = s.aon.reqFlags ∧ t.aon.reqGen = s.aon.reqGen ∧
      t.log.entries = s.log.entries ∧ t.log.held = [] ∧ t.host = s.host ∧ t.dram = s.dram

/-- RESET_RELEASE with the core off and no boundary-scan instruction that holds RESET_N: GBL_TICK starts at 0, the straps are latched, the
rails classified, the newest valid Settings slot of the shadow is in force with its reset values, TEST_EN is noted. With every required
rail the device is in AON_READY; with one missing and no cause recorded yet it is FAILED with the cause of a missing rail and its DETAIL.
-/
def Obligations.ResetReleaseResult : Prop :=
  ∀ (s : State) (straps : BitVec 8) (rails : RailLevels) (testEn : Bool),
    s.pins.vaon = true → s.pins.resetN = false → s.pins.deferredRise = false → scanHolds s.pins.jtag = false → s.gbl.coreOn = false →
    ∃ t, exec (.resetRelease straps rails testEn) s = .next t ∧ t.pins.resetN = true ∧ t.gbl.tick = 0 ∧
      t.gbl.strapsCompared = false ∧ t.aon.straps = straps ∧ t.aon.rails = classify straps rails ∧
      t.aon.setInForce = newestSlot s.aon.shadow ∧ t.prot = resetProt (settingsOf s.aon.shadow (newestSlot s.aon.shadow)) ∧
      (testEn = true → t.aon.testEnSeen = true) ∧
      (missingRail straps (classify straps rails) = none →
        t.gbl.state = .aonReady ∧ t.gbl.failed = s.gbl.failed ∧ t.gbl.halt = s.gbl.halt) ∧
      (∀ d : Nat, missingRail straps (classify straps rails) = some d → s.gbl.halt.cause = 0 →
        t.gbl.state = .failed ∧ t.gbl.failed = true ∧ t.gbl.halt = ⟨0x13, BitVec.ofNat 12 d⟩)

/-- While EXTEST (0), CLAMP (4) or HIGHZ (5) is current a rise of RESET_N is taken as still low; BYPASS (15), SAMPLE/PRELOAD (2) or
Test-Logic-Reset then latches the straps, and that moment is the rising edge. -/
def Obligations.ScanDefersReset : Prop :=
  (∀ (s : State) (straps : BitVec 8) (rails : RailLevels) (testEn : Bool),
    s.pins.vaon = true → s.pins.resetN = false → s.pins.deferredRise = false →
    s.pins.jtag = 0 ∨ s.pins.jtag = 4 ∨ s.pins.jtag = 5 →
    exec (.resetRelease straps rails testEn) s = .next { s with pins := { s.pins with deferredRise := true } }) ∧
  (∀ (s : State) (code : Option (BitVec 4)) (cells : BitVec 1545) (levels : BitVec 515) (straps : BitVec 8) (rails : RailLevels)
    (testEn : Bool), code = none ∨ code = some 15 ∨ code = some 2 → s.pins.deferredRise = true → s.gbl.coreOn = false →
    ∃ t, exec (.boundaryScanInstruction code cells levels straps rails testEn) s = .next t ∧ t.pins.resetN = true ∧
      t.pins.deferredRise = false ∧
      t.aon.straps = straps ∧ t.gbl.tick = 0 ∧ t.gbl.strapsCompared = false)

/-- STRAP_COMPARE passes equal straps and puts the device into FAILED with STRAP_UNSTABLE on others, the latched values standing. A
boundary-scan instruction with no rise deferred is current as loaded only where R82 and R83 let it, else as BYPASS; it shifts 0b0001 out of
the instruction register; SAMPLE/PRELOAD and EXTEST capture the boundary register and take the cells shifted in. While RESET_N is low each
ball with its rail but PWR_SAFE and MSP_MISO is in its reset state, and HIGHZ releases the scanned balls that are no inputs. -/
def Obligations.StrapsAndScanResult : Prop :=
  (∀ (s : State) (levels : BitVec 8), s.pins.vaon = true → s.pins.resetN = true → s.gbl.strapsCompared = false →
    (levels = s.aon.straps → exec (.strapCompare levels) s = .next { s with gbl := { s.gbl with strapsCompared := true } }) ∧
    (levels ≠ s.aon.straps → s.gbl.halt.cause = 0 → ∃ t, exec (.strapCompare levels) s = .next t ∧ t.gbl.failed = true ∧
      t.gbl.halt = ⟨0x12, 0⟩ ∧ (s.gbl.coreOn = false → t.gbl.state = .failed ∧ t.aon = s.aon))) ∧
  (∀ (s : State) (code : BitVec 4) (cells : BitVec 1545) (levels : BitVec 515) (straps : BitVec 8) (rails : RailLevels) (testEn : Bool),
    s.pins.deferredRise = false →
    let j : BitVec 4 := if code = 2 then 2 else if (code = 0 ∨ code = 4 ∨ code = 5) ∧ s.pins.resetN = false then code else 15
    exec (.boundaryScanInstruction (some code) cells levels straps rails testEn) s = .next { s with
      free := s.free + 1
      pins := { s.pins with
        irOut := 1, jtag := j
        cells := if j = 2 ∨ j = 0 then cells else s.pins.cells
        captured := if j = 2 ∨ j = 0 then s.capture levels else s.pins.captured } }) ∧
  (∀ (s : State) (x : Sig), s.railUp x.rail = true → s.pins.resetN = false →
    (scanHolds s.pins.jtag = false → x ≠ .pwrSafe → x ≠ .mspMiso → s.ball x = x.resetDrive) ∧
    (s.pins.jtag = 5 → x.scanned = true → x.inputOnly = false → s.ball x = .hiZ)) ∧
  (∀ (s : State) (x : Sig), s.railUp x.rail = false → s.ball x = .hiZ)

/-! ## From t2 to full service -/

/-- CORE_RELEASE starts the core and every domain in its mode of Table 4-5; LPDDR4X counts where both of its rails are present; in PCIe
mode with PE_PERST_N high the link trains; a PFAIL_N that is low starts the power-fail sequence. A PLL that has not locked puts the device
into FAILED with PLL_LOCK where no cause is recorded yet. -/
def Obligations.CoreReleaseResult : Prop :=
  ∀ s : State, s.pins.vaon = true → s.pins.resetN = true → s.gbl.coreOn = false → s.gbl.failed = false →
    (∀ g : Fin 9, s.pins.vddCore = true →
      let n : Fin 9 := if s.aon.rails.dram2 = true ∧ s.aon.rails.dramQ = true then g else 0
      let r : State := { s with
        gbl := { s.gbl with coreOn := true, dramGib := n }, doms := Vector.ofFn (fun d => idleDomain (startDomain s n.val d.val))
        pcie := if s.phb = true ∨ s.pins.perstN = false then s.pcie
          else { s.pcie with training := s.pcie.training || s.pcie.link == .down } }
      (s.pins.pfailN = true → exec (.coreRelease g) s = .next r) ∧
      (s.pins.pfailN = false → exec (.coreRelease g) s = .next (startPowerFail r 1) ∧ (startPowerFail r 1).energy.pfSeq = true)) ∧
    (s.gbl.halt.cause = 0 → ∃ t, exec .pllLockTimeout s = .next t ∧ t.gbl.failed = true ∧ t.gbl.state = .failed ∧
      t.gbl.halt = ⟨0x11, 0⟩ ∧ t.gbl.coreOn = false)

/-- FIRMWARE_START runs the newer of the slots that verify; with none, or with a failed engine test, the device is FAILED with HW_FAULT. -/
def Obligations.FirmwareStartResult : Prop :=
  ∀ s : State, s.gbl.coreOn = true → s.gbl.failed = false → s.gbl.up = false → s.media.probed = false → s.energy.pfSeq = false →
    (∀ a b : FwSlot, slotGood s s.sys.fwA = some a → slotGood s s.sys.fwB = some b →
      ∃ t, exec (.firmwareStart true true true) s = .next t ∧ t.gbl.fwVersion = BitVec.ofNat 16 (max a.version b.version) ∧
        t.gbl.keyOk = true ∧ t.gbl.sealFault = false ∧ t.gbl.failed = false) ∧
    (∀ a : FwSlot, slotGood s s.sys.fwA = some a → slotGood s s.sys.fwB = none →
      ∃ t, exec (.firmwareStart true true true) s = .next t ∧ t.gbl.fwVersion = BitVec.ofNat 16 a.version ∧ t.sys.runB = false) ∧
    (∀ b : FwSlot, slotGood s s.sys.fwA = none → slotGood s s.sys.fwB = some b →
      ∃ t, exec (.firmwareStart true true true) s = .next t ∧ t.gbl.fwVersion = BitVec.ofNat 16 b.version ∧ t.sys.runB = true) ∧
    (∀ h k d : Bool, s.gbl.halt.cause = 0 →
      (slotGood s s.sys.fwA = none ∧ slotGood s s.sys.fwB = none) ∨ (h && k && d) = false →
      ∃ t, exec (.firmwareStart h k d) s = .next t ∧ t.gbl.failed = true ∧ t.gbl.halt = ⟨0x16, 0⟩)

/-- PROBE: with a stored image that passes its check and at least four LUNs found, bank 0 holds that image, WP_N of the present banks that
have not been lost since is high, and channels without a LUN are gated until reset. Otherwise the device is FAILED with HW_FAULT or
TOO_FEW_LUNS, where no cause is recorded yet. -/
def Obligations.ProbeResult : Prop :=
  ∀ (s : State) (found : List (LunId × DWord)) (mcOk : Bool), s.gbl.coreOn = true → s.gbl.failed = false → s.gbl.up = false →
    s.media.probed = false → s.energy.pfSeq = false →
    (mcOk = true → s.sys.stored ≠ none → 4 ≤ (probeAll s found).media.luns.length →
      ∃ t, exec (.probe found mcOk) s = .next t ∧ t = probeAll s found ∧ t.micro.bank0 = s.sys.stored ∧
        t.pins.wpN = s.aon.rails.bankPresent &&& ~~~s.pins.railLost ∧ t.media.probed = true ∧ t.gbl.failed = false ∧
        ∀ d : Fin 22, 6 ≤ d.val → t.media.chPresent.getLsbD (d.val - 6) = false → t.doms[d].mode = .offUntilReset) ∧
    (s.gbl.halt.cause = 0 → mcOk = false ∨ s.sys.stored = none →
      ∃ t, exec (.probe found mcOk) s = .next t ∧ t.gbl.failed = true ∧ t.gbl.halt = ⟨0x16, 0⟩) ∧
    (s.gbl.halt.cause = 0 → mcOk = true → s.sys.stored ≠ none → (probeAll s found).media.luns.length < 4 →
      ∃ t, exec (.probe found mcOk) s = .next t ∧ t.gbl.failed = true ∧ t.gbl.halt = ⟨0x14, 0⟩)

/-- BOOT_WINDOW_ENTRY: the register file answers, PROT_POLICY is published, a Keystone is member 0, and the orders the MSP has posted are
applied; with none posted the device is in its boot window. -/
def Obligations.BootWindowEntryResult : Prop :=
  ∀ s : State, s.gbl.coreOn = true → s.gbl.failed = false → s.gbl.up = false → s.media.probed = true → s.energy.pfSeq = false →
    exec .bootWindowEntry s = .next (applyOrders (refresh { s with
      gbl := { s.gbl with up := true }
      pcie := { s.pcie with crs := false }
      aon := { s.aon with policy := some s.prot.policy }
      cas := if s.keystone then { s.cas with enumerated := true, memberId := 0, depth := 0 } else s.cas }) 0 0) ∧
    (s.pins.vaon = true → s.pins.resetN = true → s.gbl.halted = false → s.gbl.lock = false → s.aon.reqCh = 0 → s.aon.reqFlags = 0 →
      ∃ t, exec .bootWindowEntry s = .next t ∧ t.gbl.up = true ∧ t.gbl.state = .bootWindow ∧ t.pcie.crs = false ∧
        t.aon.policy = some s.prot.policy ∧ t.aon.ackGen = s.aon.reqGen ∧ t.aon.effGen = s.aon.reqGen ∧
        (s.keystone = true → t.cas.enumerated = true ∧ t.cas.memberId = 0 ∧ t.cas.depth = 0))

/-- RECOVERY_START commits the next value of the boot counter; blank media get a new system area with boot counter 1, and blank and foreign
media are RECOVERED at once. -/
def Obligations.RecoveryStartResult : Prop :=
  ∀ s : State, s.gbl.up = true → s.gbl.failed = false → s.sys.t6 = false → s.energy.pfSeq = false →
    (s.sys.present = true → s.sys.owner = s.serial → ∃ t, exec .recoveryStart s = .next t ∧ t.sys.t6 = true ∧
      t.sys.bootStored = s.sys.bootStored + 1 ∧ t.sys.boot = s.sys.bootStored + 1 ∧ t.gbl.recovered = s.gbl.recovered ∧
      t.log.held = []) ∧
    (s.sys.present = true → s.sys.owner ≠ s.serial → ∃ t, exec .recoveryStart s = .next t ∧ t.sys.t6 = true ∧
      t.media.foreign = true ∧ t.gbl.recovered = true ∧ t.sys.bootStored = s.sys.bootStored) ∧
    (s.sys.present = false → ∃ t, exec .recoveryStart s = .next t ∧ t.sys.t6 = true ∧ t.sys.present = true ∧
      t.sys.owner = s.serial ∧ t.sys.boot = 1 ∧ t.gbl.recovered = true ∧ t.parts = [])

/-- FOOTING_CHECK opens the Footing with the capacity of the Footing blocks that read as erased, up to the target of R424, or opens none in
the cases of R429. RECOVERED ends the replay, reports the losses, writes a Plinth and sets RECOVERED; in HALTED the replayed streams are
sealed. -/
def Obligations.FootingAndRecoveryResult : Prop :=
  (∀ (s : State) (descOk : Bool) (written : List (LunId × Nat)), s.sys.t6 = true → s.media.footDecided = false → s.stopped = false →
    s.gbl.fullService = false → s.energy.pfSeq = false →
    let dropped := (written.map (fun b => blkKey (lunKey b.1) b.2)).filter s.footBlocks.contains
    let erased := s.footMibOf (s.footBlocks.filter (fun k => !dropped.contains k)).length
    (s.media.foreign = true ∨ s.readOnlyCond = true ∨ descOk = false ∨ s.sys.fMax = 0 ∨ erased = 0 ∨
        s.parts.any (fun p => p.2.isStream) = false →
      exec (.footingCheck descOk written) s =
        .next { s with media := { s.media with footDecided := true, footDropped := dropped } }) ∧
    (s.media.foreign = false → s.readOnlyCond = false → descOk = true → s.sys.fMax ≠ 0 → erased ≠ 0 →
        s.parts.any (fun p => p.2.isStream) = true →
      exec (.footingCheck descOk written) s = .next { s with
        gbl := { s.gbl with footingOpen := true }
        media := { s.media with footDecided := true, footDropped := dropped, footMib := min erased s.footTarget
                                footFree := min erased s.footTarget * 1048576 } })) ∧
  (∀ (s : State) (plinthOk : Bool) (scanned : Nat), s.sys.t6 = true → s.gbl.recovered = false → s.gbl.failed = false →
    s.energy.pfSeq = false → s.media.foreign = false →
    let r := writePlinth (clearLoss (reportWithdrawn (reportPowerFail (reportLostAck
      (replayAll (if plinthOk then s else logEvent s logPlinthLost [(0, 8, scanned)]) false true)))))
    let t := refresh { r with gbl := { r.gbl with recovered := true } }
    exec (.recovered plinthOk scanned) s = .next (settle (if t.gbl.halted then sealOpen t afHalt cfHalt else t)))

/-- FULL_SERVICE absorbs the Footing in one step. FOOTING_REBUILD takes Quarry blocks one by one, none while host writes need blocks and the
Quarry holds fewer than Q_LOW, and publishes the capacity it has, up to the target. AUTO_LOCK sets LOCK and AUTO together and logs it. -/
def Obligations.FullServiceResult : Prop :=
  ∀ s : State,
    (s.gbl.lock = true → s.gbl.recovered = true → s.gbl.fullService = false → s.stopped = false → s.energy.pfSeq = false →
      ∃ t, exec .fullService s = .next t ∧ t.gbl.fullService = true ∧ t.gbl.footingOpen = false ∧
        (∀ c ∈ t.media.courses, c.2.role ≠ .footing) ∧ (∀ x ∈ t.streams.tbl, x.2.inFooting = false) ∧ t.queues = s.queues) ∧
    (s.gbl.fullService = true → s.media.foreign = false → s.parts.any (fun p => p.2.isStream) = true → s.energy.pfSeq = false →
      s.stopped = false →
      let n := s.footBlocksFor s.footTarget
      let r := takeFooting n n s
      let mib := min r.footTarget (r.footMibOf r.footBlocks.length)
      exec .footingRebuild s = .next { r with media := { r.media with footMib := mib, footFree := mib * 1048576 } } ∧
      (s.hostNeeds = true → s.quarry < s.qLow → r = s)) ∧
    (s.gbl.coreOn = true → s.gbl.lock = false → ∃ t, exec .autoLock s = .next t ∧ t.gbl.lock = true ∧ t.gbl.auto = true ∧
      (s.sys.t6 = true → s.media.foreign = false → s.energy.pfSeq = false →
        ∃ e, e ∈ t.log.entries ∧ e.type = 0x0012 ∧ e.seq = s.log.nextSeq))

/-! ## Balls, rails, link -/

/-- In PHB mode PE_PERST_N changes nothing but the level of its own ball, whatever the state. -/
def Obligations.PhbIgnoresPerst : Prop :=
  ∀ s : State, s.phb = true →
    exec .perstAssert s = .next { s with pins := { s.pins with perstN := false } } ∧
    exec .perstRelease s = .next { s with pins := { s.pins with perstN := true } }

/-- The PCIe link, in PCIe mode with the core running. A fall of PE_PERST_N is link loss with the host-facing reset; its rise releases
PE_WAKE_N and starts training. The data link layer going down from a link that is up enters Orphan. Coming up, it ends Orphan where the
device is in it, wakes the HOST domain, and gives L0 with the lanes and the generation negotiated, PE_WAKE_N released and PE_CLKREQ_N
held. FLR over a link that is up is the host-facing reset of its column. -/
def Obligations.LinkResult : Prop :=
  ∀ s : State, s.phb = false → s.gbl.coreOn = true →
    (let r := enterOrphan { s with pins := { s.pins with perstN := false } }
     exec .perstAssert s = .next (hostReset { r with pcie := { r.pcie with link := .down, training := false } } 0)) ∧
    exec .perstRelease s = .next { s with
      pins := { s.pins with perstN := true, wake := false }
      pcie := { s.pcie with training := s.pcie.training || s.pcie.link == .down } } ∧
    (s.pcie.orphan = false → s.pcie.link ≠ .down → exec .linkDown s = .next (enterOrphan s)) ∧
    (∀ lanes gen : Fin 5, s.pins.perstN = true → ∃ t, exec (.linkUp lanes gen) s = .next t ∧
      (let r := wakeDomain (releaseWake (if s.pcie.orphan then leaveOrphan s else s)) 2
       t = { r with pcie := { r.pcie with link := .l0, training := false, lanes := lanes, gen := gen }
                    pins := { r.pins with clkreq := true } }) ∧
      t.pcie.link = .l0 ∧ t.pcie.training = false ∧ t.pcie.lanes = lanes ∧ t.pcie.gen = gen ∧ t.pins.wake = false ∧ t.pins.clkreq = true ∧
      t.doms[(2 : Fin 22)].mode ≠ .clockGated ∧ t.doms[(2 : Fin 22)].mode ≠ .powerGated) ∧
    (s.linkUp = true → exec .flr s = .next (hostReset s 1))

/-- The host-facing reset (0 link loss, 1 FLR, 2 soft reset): the admin-queue registers and the selectors return to their Reset columns,
the mover too unless the link was lost, while the policy, the masks, the always-on logic and PWR_CTRL stay, and the domains but for those
that an access wakes; a device that is HALTED or FAILED stays so. -/
def Obligations.HostResetScope : Prop :=
  ∀ (s : State) (kind : Fin 3),
    (hostReset s kind).adm = resetAdm ∧ (hostReset s kind).prot = { s.prot with qpartSel := 0 } ∧
    (hostReset s kind).aon = s.aon ∧ (hostReset s kind).pwr = s.pwr ∧ DomsWoken s.pwr s.doms (hostReset s kind).doms ∧
    (kind ≠ 0 → (hostReset s kind).mover = resetMover) ∧ (kind = 0 → (hostReset s kind).mover = { s.mover with sel := 0 }) ∧
    (s.gbl.halted = true → (hostReset s kind).gbl.halted = true) ∧ (s.gbl.failed = true → (hostReset s kind).gbl.failed = true)

/-- The PCIe function: a configuration write sets its field, or the writable bits of another dword of configuration space, and MSI-X vectors
that are pending are sent once nothing masks them (Pcie.flush); the MSI-X table takes aligned writes; the link's power states gate and wake
the HOST domain: clock gated in L1 and L1.1, power gated in L1.2 and L2. -/
def Obligations.PcieFunctionResult : Prop :=
  ∀ s : State, s.phb = false →
    (∀ c : ConfigChange, s.gbl.coreOn = true → s.linkUp = true → s.pcie.crs = false →
      ∃ t, exec (.configWrite c) s = .next t ∧ t.gbl = s.gbl ∧
        (match c with
          | .msix e f => t.pcie.msixEn = e ∧ t.pcie.msixFuncMask = f
          | .msi e g a d => t.pcie.msiEn = e ∧ t.pcie.msiCount = 2 ^ g.val ∧ t.pcie.msiAddr = a ∧ t.pcie.msiData = d
          | .msiMask m => t.pcie.msiMask = m
          | .dstate d => t.pcie.d3hot = d
          | .memSpace e => t.pcie.mse = e
          | .dword n v => t.pcie.config = (s.pcie.writeDword n.toNat v).config)) ∧
    (∀ (off : BitVec 15) (v : DWord), s.hostAccess = true → off.toNat < 0x4000 →
      (off.toNat % 4 = 0 → exec (.msixTableWrite off v false) s =
        .next { s with pcie := (msixPut s.pcie off.toNat (v.toNat % 2 ^ 32)).flush }) ∧
      (off.toNat % 8 = 0 → exec (.msixTableWrite off v true) s =
        .next { s with pcie := (msixPut (msixPut s.pcie off.toNat (v.toNat % 2 ^ 32)) (off.toNat + 4) (v.toNat / 2 ^ 32)).flush }) ∧
      (off.toNat % 4 ≠ 0 → exec (.msixTableWrite off v false) s = .next s)) ∧
    (s.gbl.coreOn = true → s.pcie.orphan = false → s.pcie.link ≠ .down →
      exec (.linkPowerState .l0) s = .next (wakeDomain { s with pins := { s.pins with clkreq := true }
                                                                pcie := { s.pcie with link := .l0 } } 2) ∧
      exec (.linkPowerState .l1) s = .next { s with pins := { s.pins with clkreq := true }, pcie := { s.pcie with link := .l1 }
                                                    doms := s.doms.set 2 { s.doms[2] with mode := .clockGated, fenceClosed := true } } ∧
      exec (.linkPowerState .l11) s = .next { s with pins := { s.pins with clkreq := false }, pcie := { s.pcie with link := .l11 }
                                                     doms := s.doms.set 2 { s.doms[2] with mode := .clockGated, fenceClosed := true } } ∧
      exec (.linkPowerState .l12) s = .next { s with pins := { s.pins with clkreq := false }, pcie := { s.pcie with link := .l12 }
                                                     doms := s.doms.set 2 { s.doms[2] with mode := .powerGated, fenceClosed := true } } ∧
      exec (.linkPowerState .l2) s = .next { s with pins := { s.pins with clkreq := true, wake := s.pins.resetN || s.pins.wake }
                                                    pcie := { s.pcie with link := .l2 }
                                                    doms := s.doms.set 2 { s.doms[2] with mode := .powerGated, fenceClosed := true } })

/-! ## Power failure, temperature, domains -/

/-- If PFAIL_N returns high the sequence goes on: only the ball's level changes, and with it PWR_STATUS.PFAIL; the sequence still ends in the
park. -/
def Obligations.PfailHighSequenceGoesOn : Prop :=
  (∀ s : State, exec .pfailDeassert s = .next { s with pins := { s.pins with pfailN := true } }) ∧
  (∀ s : State, s.energy.pfSeq = true → s.energy.parked = false → s.flashQuiet = true → s.promisesOver = true →
    ∃ t u, exec .pfailDeassert s = .next t ∧ t.energy = s.energy ∧ exec .pfSafe t = .next u ∧ u.energy.parked = true ∧
      u.energy.pfSeq = true ∧ u.pins.pfailN = true ∧ u.pins.wpN = 0)

/-- A second start event in the sequence or the park starts nothing: no operation of a start changes a state in which the sequence runs; a
fall of PFAIL_N or VDD_CORE leaves its level, and PE_WAKE_N, alone changed; loss of SYSCLK and the critical thermal step leave the start
cause of the sequence and the summary it programs as they are. -/
def Obligations.SecondStartEventHasNoEffect : Prop :=
  ∀ s : State, s.energy.pfSeq = true →
    (∀ n : Nat, startPowerFail s n = s) ∧
    (s.pins.vaon = true → exec .pfailAssert s = .next { s with pins := { s.pins with
      pfailN := false, wake := if s.phb = true ∨ s.pins.resetN = false then s.pins.wake else true } }) ∧
    exec .vddCoreLow s = .next { s with pins := { s.pins with vddCore := false } } ∧
    (∃ t, exec .sysclkLoss s = .next t ∧ t.energy.pfStart = s.energy.pfStart ∧ t.energy.gasp = s.energy.gasp) ∧
    (∃ t, exec .thermalCritical s = .next t ∧ t.energy.pfStart = s.energy.pfStart ∧ t.energy.gasp = s.energy.gasp)

/-- The start events of a device that runs: PFAIL_N, VDD_CORE with PFAIL_N high, loss of SYSCLK, the critical thermal step. Each starts the
power-fail sequence, takes PWR_SAFE low and sets the PFAIL bit; loss of SYSCLK also fails the device, with CLOCK_LOSS as the first cause,
and the critical step halts it, with THERMAL as the first cause, in FAILED too. PF_SAFE parks a device whose programs have ended and whose
promises are kept: PWR_SAFE high, every WP_N low, the domains as parkDomains gates them. -/
def Obligations.PowerFailStartAndParkResult : Prop :=
  (∀ s : State, s.gbl.coreOn = true → s.energy.pfSeq = false →
    (s.pins.vaon = true → ∃ t, exec .pfailAssert s = .next t ∧ t.energy.pfSeq = true ∧ t.pins.pfailN = false ∧
      t.pins.pwrSafe = false ∧ t.gbl.irqStatus.getLsbD 3 = true) ∧
    (s.pins.pfailN = true → ∃ t, exec .vddCoreLow s = .next t ∧ t.energy.pfSeq = true ∧ t.pins.vddCore = false ∧
      t.pins.pwrSafe = false ∧ t.gbl.irqStatus.getLsbD 3 = true) ∧
    (s.pins.pfailN = false → exec .vddCoreLow s = .next { s with pins := { s.pins with vddCore := false } }) ∧
    (s.gbl.clockLost = false → ∃ t, exec .sysclkLoss s = .next t ∧ t.energy.pfSeq = true ∧ t.pins.pwrSafe = false ∧
      t.gbl.irqStatus.getLsbD 3 = true ∧ t.gbl.failed = true ∧ (s.gbl.halt.cause = 0 → t.gbl.halt = ⟨0x10, 0⟩)) ∧
    (s.gbl.thermStep ≠ 5 → ∃ t, exec .thermalCritical s = .next t ∧ t.energy.pfSeq = true ∧ t.pins.pwrSafe = false ∧
      t.gbl.irqStatus.getLsbD 3 = true ∧ t.gbl.halted = true ∧ t.gbl.failed = s.gbl.failed ∧
      (s.gbl.halt.cause = 0 → t.gbl.halt = ⟨0x05, 0⟩))) ∧
  (∀ s : State, s.energy.pfSeq = true → s.energy.parked = false → s.flashQuiet = true → s.promisesOver = true →
    exec .pfSafe s = .next { s with pins := { s.pins with pwrSafe := true, wpN := 0 }, energy := { s.energy with parked := true }
                                    doms := parkDomains s.doms })

/-- RAIL_LOSS records that the bank's rail is lost and takes its four channels offline, unless the device is FAILED. PRESENCE_CHANGE takes the
levels, sets PRESENCE_CHG of each port that changed, and asserts PE_WAKE_N at a gain in PCIe mode, RESET_N being high. -/
def Obligations.RailsAndPresenceResult : Prop :=
  (∀ (s : State) (b : Fin 4), s.gbl.coreOn = true → s.aon.rails.bankPresent.getLsbD b.val = true →
    let r : State := { s with pins := { s.pins with railLost := putBit s.pins.railLost b.val true } }
    exec (.railLoss b) s = .next (if s.gbl.failed = true then r else takeOffline (takeOffline (takeOffline (takeOffline r
      (4 * b.val) 1) (4 * b.val + 1) 1) (4 * b.val + 2) 1) (4 * b.val + 3) 1)) ∧
  (∀ (s : State) (c why : Nat), c < 16 → s.media.chPresent.getLsbD c = true →
    (takeOffline s c why).media.offline.getLsbD c = true) ∧
  (∀ (s : State) (p : BitVec 3), s.gbl.coreOn = true → s.aon.rails.cas = true → p ≠ s.pins.present →
    ∃ t, exec (.presenceChange p) s = .next t ∧ t.pins.present = p ∧
      t.cas.event = s.cas.event ||| (s.pins.present ^^^ p).zeroExtend 8 ∧ t.gbl.irqStatus.getLsbD 8 = true ∧
      (s.phb = false → s.pins.resetN = true → p &&& ~~~s.pins.present ≠ 0 → t.pins.wake = true) ∧
      ∀ i : Fin 3, (s.pins.present ^^^ p).getLsbD i.val = false → t.cas.ports[i] = s.cas.ports[i]) ∧
  (∀ (s : State) (p : BitVec 3), s.aon.rails.cas = false →
    exec (.presenceChange p) s = .next { s with pins := { s.pins with present := p } })

/-- ADC_SAMPLE corrects the code and publishes VSENSE, H, HORIZON and FILL by the formulas of R382 and R385; then a hold-up run goes on, a
trip is judged, and the pass of conditions runs (settle), as it does on ACK_RELEASE. A thermal sample takes the mean of the last four of the
hottest sensor, corrected, and the step that follows from it. -/
def Obligations.SampleResult : Prop :=
  ∀ s : State, s.gbl.coreOn = true →
    (∀ raw : BitVec 12, exec (.adcSample raw) s =
      .next (settle (tripSample (holdSample (publishSample s (s.adcCode raw.toNat)) (s.adcCode raw.toNat))))) ∧
    (∀ code : Nat,
      let r : State := { s with energy := { s.energy with samples := (code :: s.energy.samples).take 4, vsense := BitVec.ofNat 12 code } }
      (publishSample s code).energy.h = r.horizonOf r.vhNum ∧
      (publishSample s code).energy.horizon = BitVec.ofNat 24 (min 0xFFFFFF (r.horizonOf r.vhNum / 4096)) ∧
      (publishSample s code).energy.fill = BitVec.ofNat 7 (if r.horizonOf r.vhNum = 0 then (if 0 < s.uBytes then 127 else 0)
        else min 127 (100 * s.uBytes / r.horizonOf r.vhNum))) ∧
    exec .ackRelease s = .next (settle s) ∧
    (∀ s0 s1 s2 s3 : Int, ∃ t, exec (.thermalSample s0 s1 s2 s3) s = .next t ∧
      (let l := (max (max (max (s0 + s.senseOff 0) (s1 + s.senseOff 1)) (s2 + s.senseOff 2)) (s3 + s.senseOff 3) :: s.gbl.tjSamples).take 4
       t.gbl.tjSamples = l ∧ t.gbl.tj = BitVec.ofInt 12 (clampInt (-2048) 2047 (l.sum / (l.length : Int))) ∧
       t.gbl.thermStep = stepAt s.gbl.thermStep (clampInt (-2048) 2047 (l.sum / (l.length : Int)))))

/-- A domain that may be gated, with nothing parked, is gated with its fence closed, and what then reaches the fence parks, up to 32 packets,
or stalls its sender; with something parked it is not gated. A wake reopens the fence and delivers what is parked, what arrives and what
stalled, in order. A domain off until reset is not gated, and a wake returns the packets to their senders. -/
def Obligations.DomainResult : Prop :=
  ∀ (s : State) (d : Fin 22), s.gbl.coreOn = true →
    (∀ (power : Bool) (ps : List Nat), s.doms[d].mode = .on → s.doms[d].parked = [] → mayGate s d power = true →
      s.energy.pfSeq = false →
      exec (.domainGate d power ps) s = .next { s with doms := s.doms.set d { s.doms[d] with
        mode := if power then .powerGated else .clockGated, fenceClosed := true
        parked := ps.take 32, stalled := s.doms[d].stalled ++ ps.drop 32 } }) ∧
    (∀ (power : Bool) (ps : List Nat), s.doms[d].parked ≠ [] → exec (.domainGate d power ps) s = .next s) ∧
    (∀ ps : List Nat, s.doms[d].mode ≠ .offUntilReset → s.doms[d].stalled = [] → (s.doms[d].parked ++ ps).length ≤ 32 →
      ∃ t, exec (.domainWake d ps) s = .next t ∧ t = { s with doms := t.doms } ∧ t.doms[d].mode = .on ∧ t.doms[d].fenceClosed = false ∧
        t.doms[d].parked = [] ∧ t.doms[d].delivered = s.doms[d].delivered ++ s.doms[d].parked ++ ps ∧
        ∀ e : Fin 22, e ≠ d → t.doms[e] = s.doms[e]) ∧
    (∀ (power : Bool) (ps : List Nat), s.doms[d].mode = .offUntilReset → exec (.domainGate d power ps) s = .next s ∧
      exec (.domainWake d ps) s = .next { s with doms := s.doms.set d { s.doms[d] with returned := s.doms[d].returned ++ ps } })

/-! ## The register page -/

/-- The offsets of the register page that are assigned to a register (Tables 6-3 to 6-27): 0x000 to 0x0D0, each a multiple of 4. An offset
not assigned reads 0, and a write to it changes nothing. -/
def Obligations.ReservedOffsetsReadZero : Prop :=
  ∀ (s : State) (off : BitVec 12), 0x0D4 ≤ off.toNat →
    (s.gbl.up = true → s.readReg off.toNat = 0) ∧
    ∀ (v : Word) (be : BitVec 4), exec (.registerWrite off v be) s = .next s

/-- A write reaches a register only whole and aligned (R6), only once the register file answers and, in PCIe mode, over a link that is up
(R417); the read-write registers then hold what was written, a selector moves nothing it named before (R181). -/
def Obligations.RegisterWriteResult : Prop :=
  (∀ (s : State) (off : BitVec 12) (v : Word) (be : BitVec 4),
    be ≠ 0xF ∨ (s.phb = false ∧ off.toNat % 4 ≠ 0) ∨ s.hostAccess = false → exec (.registerWrite off v be) s = .next s) ∧
  (∀ (s : State) (v : Word), s.hostAccess = true →
    exec (.registerWrite 0x01C v 0xF) s =
      .next { s with gbl := { s.gbl with irqStatus := s.gbl.irqStatus &&& ~~~(v.truncate 13) } } ∧
    exec (.registerWrite 0x034 v 0xF) s = .next { s with prot := { s.prot with qpartSel := v.truncate 12 } } ∧
    exec (.registerWrite 0x05C v 0xF) s = .next { s with adm := { s.adm with qsel := v.truncate 12 } } ∧
    exec (.registerWrite 0x068 v 0xF) s = .next { s with mover := { s.mover with sel := Fin.ofNat 32 v.toNat } } ∧
    exec (.registerWrite 0x0C4 v 0xF) s = .next { s with cas := { s.cas with event := s.cas.event &&& ~~~(v.truncate 8) } } ∧
    exec (.registerWrite 0x0CC v 0xF) s = .next { s with gbl := { s.gbl with scratch := v } }) ∧
  (∀ (s : State) (v : Word), s.hostAccess = true → s.limited = false →
    exec (.registerWrite 0x048 v 0xF) s = .next { s with adm := { s.adm with baseLo := v &&& 0xFFFFF000 } } ∧
    exec (.registerWrite 0x04C v 0xF) s = .next { s with adm := { s.adm with baseHi := v } } ∧
    exec (.registerWrite 0x054 v 0xF) s = .next { s with adm := { s.adm with shadowLo := v &&& 0xFFFFFFC0 } } ∧
    exec (.registerWrite 0x058 v 0xF) s = .next { s with adm := { s.adm with shadowHi := v } } ∧
    exec (.registerWrite 0x07C v 0xF) s =
      .next { s with mover := { s.mover with chs := s.mover.chs.set s.mover.sel { s.mover.chs[s.mover.sel] with count := v } } }) ∧
  (∀ (s : State) (off : BitVec 12) (v : Word) (be : BitVec 4), s.limited = true →
    off.toNat / 4 * 4 ∉ [0x010, 0x01C, 0x020, 0x034, 0x05C, 0x068, 0x084, 0x094, 0x0B0, 0x0B4, 0x0C4, 0x0CC] →
    exec (.registerWrite off v be) s = .next s)

/-- The RWL rule over two commands in arrival order. Where LOCK is written first, the later write to an RWL register is ignored and counted
in PROT_VIOLATIONS with its offset; where the RWL write comes first it stands, and LOCK is set after it. PROT_RETAIN_MIN (0x040),
PROT_QPART_MASK (0x038) and PROT_POLICY (0x03C) stand for the RWL registers besides BOOT_LOCK and PHB_WIN. -/
def Obligations.RwlWriteAfterLockIgnored : Prop :=
  (∀ (s : State) (off : BitVec 12) (v : Word) (rest : List Instr), s.hostAccess = true → s.limited = false →
    off = 0x030 ∨ off = 0x038 ∨ off = 0x03C ∨ off = 0x040 ∨ off = 0x0D0 →
    ∃ a b, step { s with pending := .bootLockSet :: .registerWrite off v 0xF :: rest } = .next a ∧ step a = .next b ∧
      b.gbl.lock = true ∧ RwlSame s b ∧ b.prot.lastOffset = off ∧
      (s.gbl.lock = false → b.prot.count = if s.prot.count = 0xFFFF then 0xFFFF else s.prot.count + 1) ∧
      b.gbl.irqStatus.getLsbD 10 = true) ∧
  (∀ (s : State) (v : Word) (rest : List Instr), s.hostAccess = true → s.limited = false → s.gbl.lock = false →
    (∃ a b, step { s with pending := .registerWrite 0x040 v 0xF :: .bootLockSet :: rest } = .next a ∧ step a = .next b ∧
      b.gbl.lock = true ∧ b.prot.retainMin = v.truncate 16 ∧ b.prot.count = s.prot.count) ∧
    (∃ a b, step { s with pending := .registerWrite 0x03C v 0xF :: .bootLockSet :: rest } = .next a ∧ step a = .next b ∧
      b.gbl.lock = true ∧ b.prot.policy = v.truncate 11 ∧ b.aon.policy = some (v.truncate 11) ∧ b.prot.count = s.prot.count) ∧
    (∃ a b, step { s with pending := .registerWrite 0x038 v 0xF :: .bootLockSet :: rest } = .next a ∧ step a = .next b ∧
      b.gbl.lock = true ∧ b.qmask s.prot.qpartSel.toNat = v ∧ b.prot.count = s.prot.count))

/-- The device ignores a write to PHB_WIN while the admin queue is enabled or an I/O queue is or a mover channel runs, and counts it only
with LOCK set; otherwise the window moves. -/
def Obligations.PhbWinIgnoredWhileInUse : Prop :=
  ∀ (s : State) (v : Word), s.hostAccess = true → s.limited = false →
    (s.gbl.lock = false → s.adm.en = true ∨ (∃ k ∈ s.queues.qs, k.2.enabled = true) ∨ (∃ c : Fin 32, s.mover.chs[c].state ≠ .idle) →
      exec (.registerWrite 0x0D0 v 0xF) s = .next s) ∧
    (s.gbl.lock = true → ∃ t, exec (.registerWrite 0x0D0 v 0xF) s = .next t ∧ t.prot.phbWin = s.prot.phbWin ∧
      t.prot.lastOffset = 0x0D0 ∧ t.prot.count = if s.prot.count = 0xFFFF then 0xFFFF else s.prot.count + 1) ∧
    (s.gbl.lock = false → s.adm.en = false → (∀ k ∈ s.queues.qs, k.2.enabled = false) → (∀ c : Fin 32, s.mover.chs[c].state = .idle) →
      exec (.registerWrite 0x0D0 v 0xF) s = .next { s with prot := { s.prot with phbWin := v.truncate 13 } })

/-- TICK_CAPTURE holds the whole tick. RO_REQ is set by a write that carries it, and with LOCK and RECOVERED set the state is then
READ_ONLY. BOOT_LOCK sets LOCK and leaves AUTO, the protection registers, the always-on logic and the queues. IRQ_EN and GBL_IRQ_MASK take
their values, and a status bit that the write exposes sends one message in PCIe mode outside the power-fail sequence. -/
def Obligations.ControlRegisterResult : Prop :=
  ∀ s : State, s.hostAccess = true →
    exec .tickCapture s = .next { s with gbl := { s.gbl with capture := s.gbl.tick } } ∧
    (s.limited = false → ∃ t, exec (.roReq s.gbl.irqEn) s = .next t ∧ t.gbl.roReq = true ∧ t.gbl.irqEn = s.gbl.irqEn ∧
      (s.pins.vaon = true → s.pins.resetN = true → s.gbl.lock = true → s.gbl.recovered = true → t.gbl.state = .readOnly)) ∧
    (s.limited = false → s.gbl.lock = false → ∃ t, exec .bootLockSet s = .next t ∧ t.gbl.lock = true ∧ t.gbl.auto = s.gbl.auto ∧
      t.prot = s.prot ∧ t.aon = s.aon ∧ t.queues = s.queues) ∧
    (∃ t, exec .irqEnableWrite s = .next t ∧ t.gbl = { s.gbl with irqEn := true } ∧
      (s.gbl.irqEn = true ∨ s.gbl.irqStatus &&& ~~~s.gbl.irqMask = 0 → t.pcie = s.pcie) ∧
      (s.gbl.irqEn = false → s.gbl.irqStatus &&& ~~~s.gbl.irqMask ≠ 0 → s.phb = false → s.energy.pfSeq = false →
        t.pcie = s.pcie.send 0)) ∧
    (∀ m : Word, ∃ t, exec (.irqMaskWrite m) s = .next t ∧ t.gbl = { s.gbl with irqMask := m.truncate 13 } ∧
      (s.gbl.irqEn = true → s.gbl.irqStatus &&& s.gbl.irqMask &&& ~~~(m.truncate 13) ≠ 0 → s.phb = false → s.energy.pfSeq = false →
        t.pcie = s.pcie.send 0))

/-- One write to GBL_CTRL with HALT_REQ and SOFT_RESET: HALTED first with HOST_HALT, then the soft reset, and the device stays HALTED. A
request for READ_ONLY in the write that halts applies after the reset that leaves HALTED. -/
def Obligations.HaltThenSoftReset : Prop :=
  (∀ (s : State) (ro irqEn : Bool), s.hostAccess = true → s.limited = false → s.gbl.halt.cause = 0 →
    (∃ t, exec (.haltReq ro true irqEn) s = .next t ∧ t.gbl.halted = true ∧ t.gbl.halt = ⟨0x02, 0⟩ ∧ t.adm = resetAdm ∧
      t.mover = resetMover ∧ (ro = true → t.aon.roCarry = true)) ∧
    (∃ t, exec (.haltReq ro false irqEn) s = .next t ∧ t.gbl.halted = true ∧ t.gbl.halt = ⟨0x02, 0⟩ ∧
      (ro = true → t.aon.roCarry = true))) ∧
  (∀ s : State, s.pins.vaon = true → ∃ t, exec .resetAssert s = .next t ∧ t.gbl.halted = false ∧ t.aon.roCarry = s.aon.roCarry) ∧
  (∀ (s : State) (straps : BitVec 8) (rails : RailLevels) (testEn : Bool),
    s.pins.vaon = true → s.pins.resetN = false → s.pins.deferredRise = false → scanHolds s.pins.jtag = false → s.gbl.coreOn = false →
    ∃ t, exec (.resetRelease straps rails testEn) s = .next t ∧ t.gbl.roReq = s.aon.roCarry ∧ t.aon.roCarry = false)

/-- SOFT_RESET returns the admin-queue registers, the Block Mover and QPART_SEL to their Reset columns, leaves PROT_POLICY and the queue
masks, and a device that is HALTED or FAILED stays so. -/
def Obligations.SoftResetResult : Prop :=
  ∀ (s : State) (ro irqEn : Bool), s.hostAccess = true →
    ∃ t, exec (.softReset ro irqEn) s = .next t ∧ t.adm = resetAdm ∧ t.mover = resetMover ∧ t.prot.qpartSel = 0 ∧
      t.prot.policy = s.prot.policy ∧ t.prot.qpart = s.prot.qpart ∧
      (s.gbl.halted = true → t.gbl.halted = true) ∧ (s.gbl.failed = true → t.gbl.failed = true)

/-- ADMQ_CFG and QINV, the device neither stopped nor parked. A write of EN = 1 while disabled and idle with a valid configuration enables
the admin queue, at count 0; with an invalid one it sets CFG_ERR alone. With EN = 1 a write of EN = 1 changes nothing, and clearing EN
disables the queue and leaves the entries in flight. QINV drops the cached copies of the selected queue, one slot's or all, that no running
scan fetched itself, and moves neither HEAD nor DONE. -/
def Obligations.AdminQueueRegisterResult : Prop :=
  ∀ s : State, s.hostAccess = true → s.limited = false →
    (∀ v : Word, s.adm.en = false → s.inflight 0 = 0 →
      let r : State := { s with adm := { s.adm with
        prefetch := BitVec.ofNat 8 (v.toNat / 256), crcReq := v.getLsbD 5, cacheMode := v.getLsbD 4, depthLog2 := v.truncate 4 } }
      (r.admOk = true → exec (.admqEnable v) s = .next (admEnable r) ∧ (admEnable r).adm.en = true ∧
        ∀ k, tget (admEnable r).queues.qs 0 = some k → k.enabled = true ∧ k.head = 0 ∧ k.done = 0) ∧
      (r.admOk = false → exec (.admqEnable v) s = .next { r with adm := { r.adm with cfgErr := true } })) ∧
    (∀ v : Word, s.adm.en = true → exec (.admqEnable v) s = .next s ∧ ∃ t, exec (.admqDisable v) s = .next t ∧ t.adm.en = false ∧
      (∀ k, tget t.queues.qs 0 = some k → k.enabled = false ∧ k.pend = false) ∧ t.queues.jobs = s.queues.jobs) ∧
    (∀ slot : BitVec 12, exec (.qinvSlot slot) s = .next (invalidate s false slot.toNat)) ∧
    exec .qinvAll s = .next (invalidate s true 0) ∧
    (∀ (all : Bool) (slot : Nat) (k k' : Queue), tget s.queues.qs s.adm.qsel.toNat = some k →
      tget (invalidate s all slot).queues.qs s.adm.qsel.toNat = some k' →
      k'.p = k.p ∧ k'.head = k.head ∧ k'.done = k.done ∧
      (k.scan = .ended → ∀ c ∈ k'.cache, c ∈ k.cache ∧ all = false ∧ c.slot ≠ slot))

/-! ## The Queue Engine -/

/-- A doorbell rings an enabled queue once its four bytes are written, and in PHB mode acknowledges its signal; a queue that does not exist,
or is disabled, is not rung, and nothing is rung while HALTED, FAILED or parked. -/
def Obligations.DoorbellResult : Prop :=
  ∀ (s : State) (n : Fin 4096) (k : Queue), s.hostAccess = true →
    (tget s.queues.qs n.val = some k →
      ∃ t, exec (.doorbell n 0xF) s = .next t ∧
        tget t.queues.qs n.val = some { k with
          pend := if k.enabled = true ∧ s.limited = false then true else k.pend
          phbSignal := if s.phb = true then false else k.phbSignal } ∧
        ∀ m, m ≠ n.val → tget t.queues.qs m = tget s.queues.qs m) ∧
    (tget s.queues.qs n.val = none → exec (.doorbell n 0xF) s = .next s) ∧
    (∀ be : BitVec 4, be ≠ 0xF → exec (.doorbell n be) s = .next s)

/-- QUEUE_SCAN visits the admin queue where it is due, else the I/O queue whose turn it is; a paused scan goes on once its slot is free. The
second read of an entry after a CRC mismatch: a failed read ends the entry with SC_BUS_ERROR and faults its queue; an armed entry whose CRC
matches is judged as read then, and a FENCE so accepted pauses its scan; one whose CRC mismatches again ends with SC_CRC_MISMATCH. -/
def Obligations.QueueScanResult : Prop :=
  (∀ (s : State) (b : Bus), s.gbl.up = true → s.limited = false → s.energy.pfSeq = false →
    (adminDue (absorbBus s b) = true → exec (.queueScan b) s = .next (settle (beginScan b 0 100000 (absorbBus s b)))) ∧
    (adminDue (absorbBus s b) = false → exec (.queueScan b) s = .next (settle (visitIo b (absorbBus s b))))) ∧
  (∀ (s : State) (q : Fin 4096) (k : Queue), tget s.queues.qs q.val = some k → k.scan = .paused → k.enabled = true →
    slotInFlight s q.val k.depth (k.head.toNat % k.depth) = false →
    ∃ t, exec (.scanResume q) s = .next t ∧ tget t.queues.qs q.val = some { k with scan := .turn } ∧
      ∀ m, m ≠ q.val → tget t.queues.qs m = tget s.queues.qs m) ∧
  (∀ (s : State) (q : Fin 4096) (c : Word) (b : Bus) (j : Job) (k : Queue), s.job? q.val c = some j → tget s.queues.qs q.val = some k →
    j.phase = .crcWait → j.detached = false → s.energy.pfSeq = false → s.ringsOn = true →
    let s0 := absorbBus s b
    (shReadN s0 b (k.slotAddr (c.toNat % k.depth)) 64 = none → exec (.entryCrcReread q c b) s =
      .next (settle (queueFault (complete (countBus s0) j { status := 0x0B }) q.val 1 (k.slotAddr (c.toNat % k.depth))))) ∧
    (∀ e : List Byte, shReadN s0 b (k.slotAddr (c.toNat % k.depth)) 64 = some e →
      (eOwn e = 0x80 → eCrc e = (crc16 (bytesAt e 0 60)).toNat →
        let s1 := judge b (setJob s0 { j with bytes := e }) { j with bytes := e }
        exec (.entryCrcReread q c b) s = .next (settle
          (match s1.queues.jobs.find? (fun x => x.order == j.order && x.phase == .ready) with
            | some x => settleRoom s1 x
            | none => if fenceHolds s1 q.val && k.scan != .ended then setScan s1 q.val (.fenced c) else s1))) ∧
      (eOwn e = 0x80 → eCrc e ≠ (crc16 (bytesAt e 0 60)).toNat →
        exec (.entryCrcReread q c b) s = .next (settle (malformed s0 j 0x10 0)))))

/-- WRITE_VISIBLE gives a fetched write its place once no earlier conflicting entry of its queue waits. SHADOW_WRITE writes HEAD and DONE
to the shadow's device half, 8 bytes little-endian with zeros after them, and no other byte of shared memory. COAL_TIMEOUT signals a queue
with completions unsignalled, and none is then unsignalled. -/
def Obligations.VisibilityAndShadowResult : Prop :=
  (∀ (s : State) (q : Fin 4097) (c : Word) (j : Job), s.job? q.val c = some j → j.phase = .fetched → waits s j = false →
    s.energy.pfSeq = false → exec (.writeVisible q c) s = .next (settle (placeFetched s j))) ∧
  (∀ (s : State) (q : Fin 4096) (k : Queue), tget s.queues.qs q.val = some k → k.shadowDue = true → s.phb = false →
    s.pcie.orphan = false → s.energy.pfSeq = false →
    ∃ t, exec (.shadowWrite q) s = .next t ∧
      memReadN t.host (k.p.shadow + 32) 8 = leBytes 4 k.head.toNat ++ leBytes 4 k.done.toNat ∧
      (∀ i < 24, memRead t.host (k.p.shadow + 40 + i) = 0) ∧
      (∀ a, a < k.p.shadow + 32 ∨ k.p.shadow + 64 ≤ a → memRead t.host a = memRead s.host a) ∧
      tget t.queues.qs q.val = some { k with shadowDue := false }) ∧
  (∀ (s : State) (q : Fin 4096) (k : Queue), tget s.queues.qs q.val = some k → k.p.irqEn = true → 0 < k.unsignalled →
    s.mayWriteShared = true → ∃ t, exec (.coalTimeout q) s = .next t ∧ t = signalQueue s q.val ∧
      ∀ k', tget t.queues.qs q.val = some k' → k'.unsignalled = 0)

/-! ## Commands of consumed entries -/

/-- Block commands. READ: with a flash read still to come it waits as readFlash says; with no unit lost it delivers the newest visible
bytes of its blocks (rangeBytes, R334); from the first lost unit on it ends with SC_UNCORRECTABLE after the bytes before it and CR0 at that
block (R460), or with SC_CHANNEL_FAULT where its channel is gone. WRITE fetches its data, from memory or over the cascade, and SC_BUS_ERROR
ends one whose buffers fail. WRITE_ZEROES and TRIM take their place in the visibility order. FLUSH takes up its scope, and a FLUSH or FENCE
that runs is judged in the pass of conditions (settle). READ or WRITE of a range outside the partition or beyond MAX_XFER, and WRITE_ZEROES
or TRIM outside the partition, completes with SC_OUT_OF_RANGE; a command of a span runs on its members. -/
def Obligations.BlockCommandsResult : Prop :=
  ∀ (s : State) (q : Fin 4097) (c : Word) (b : Bus) (fl : FlashRead) (j : Job),
    let p := ePart j.bytes
    let first := eLba j.bytes * s.lbsOf p
    let len := eLen j.bytes * s.lbsOf p
    let s0 := absorbBus s b
    let m := takeLeaves s0 b p first len
    (readyJob s q.val c opRead = some j →
      (isSpanJob s j = true → exec (.read q c b fl) s = .next (spanStart s0 b j)) ∧
      (isSpanJob s j = false → rangeOk s j.bytes = false ∨ maxXfer < len →
        exec (.read q c b fl) s = .next (finishWith s j scOutOfRange)) ∧
      (isSpanJob s j = false → rangeOk s j.bytes = true → len ≤ maxXfer →
        (j.sglErr = true → exec (.read q c b fl) s = .next (finishBus s0 j)) ∧
        (j.sglErr = false →
          let flash := readFlash m j fl (unitIn p fl.lost) (unitIn p fl.rebuilt) (rangeRefs m p first len)
          (∀ r, flash = .inl r → exec (.read q c b fl) s = .next r) ∧
          (∀ r, flash = .inr (r, []) → exec (.read q c b fl) s =
            .next (deliver r j (rangeBytes m p first len) len { status := 0x00, result := len })) ∧
          (∀ r u x k rest, flash = .inr (r, (u, x, k) :: rest) →
            let n := max first (u * 4096) - first
            let r1 := logLostUnits r p (s.lbsOf p) (((u, x, k) :: rest).map (fun y => (y.1, y.2.1)))
            (k = scChannelFault → exec (.read q c b fl) s = .next (finishWith r1 j scChannelFault)) ∧
            (k ≠ scChannelFault → exec (.read q c b fl) s = .next (deliver r1 j ((rangeBytes m p first len).take n) n
              { status := 0x04, result := n, cr0 := (first + n) / s.lbsOf p })))))) ∧
    (readyJob s q.val c opWrite = some j →
      (isSpanJob s j = true → exec (.write q c b) s = .next (spanStart s b j)) ∧
      (isSpanJob s j = false → rangeOk s j.bytes = false ∨ maxXfer < len →
        exec (.write q c b) s = .next (finishWith s j scOutOfRange)) ∧
      (isSpanJob s j = false → rangeOk s j.bytes = true → len ≤ maxXfer →
        (j.origin.isSome = true → exec (.write q c b) s =
          .next (sendPulls (setJob m { j with phase := .running, data := [] }) j len)) ∧
        (j.origin = none → j.sglErr = false → gather m b j.segs = none → exec (.write q c b) s = .next (finishBus m j)) ∧
        (∀ d, j.origin = none → j.sglErr = false → gather m b j.segs = some d →
          exec (.write q c b) s = .next (settle (setJob m { j with phase := .fetched, data := d }))))) ∧
    (readyJob s q.val c opWriteZeroes = some j → exec (.writeZeroes q c b) s = .next (
      if isSpanJob s j then spanStart s0 b j else if rangeOk s j.bytes then settle (placeZero m j false) else finishWith s j scOutOfRange)) ∧
    (readyJob s q.val c opTrim = some j → exec (.trim q c b) s = .next (
      if isSpanJob s j then spanStart s0 b j else if rangeOk s j.bytes then settle (placeZero m j true) else finishWith s j scOutOfRange)) ∧
    (s.job? q.val c = some j → j.op = opFlush → s.energy.pfSeq = false →
      (j.phase = .running → exec (.flush q c) s = .next (settle s)) ∧
      (j.phase = .ready → waits s j = false → s.cas.enumerating = none → exec (.flush q c) s = .next (spanFlush s j))) ∧
    (s.job? q.val c = some j → j.op = opFence → s.energy.pfSeq = false → j.phase = .running →
      exec (.fence q c) s = .next (settle s))

/-- A completion in PCIe mode: the record of Table 7-4 lies at its slot, outside it and the device half of the queue's shadow no byte of shared
memory changes, nor any of DRAM; the entry leaves those in flight and no other queue changes. A FLUSH or FENCE that runs completes with SC_OK in
the pass of conditions once its scope is served, the FLUSH as ON_MEDIA, and waits until then. -/
def Obligations.CompletionRecordWritten : Prop :=
  (∀ (s : State) (j : Job) (c : Compl) (k : Queue), s.phb = false → s.mayWriteShared = true → j.origin = none → j.detached = false →
    tget s.queues.qs j.q = some k →
    let a := k.p.base + 64 * (j.count.toNat % k.depth)
    (a + 64 ≤ k.p.shadow + 32 ∨ k.p.shadow + 64 ≤ a →
      memReadN (complete s j c).host a 64 = recordBytes j s.gbl.tick c (scLogged c.status || c.logged)) ∧
    (∀ x, x < a ∨ a + 64 ≤ x → x < k.p.shadow + 32 ∨ k.p.shadow + 64 ≤ x →
      memRead (complete s j c).host x = memRead s.host x) ∧
    (complete s j c).dram = s.dram ∧ (∀ x ∈ (complete s j c).queues.jobs, x.order ≠ j.order) ∧
    (∀ m, m ≠ j.q → tget (complete s j c).queues.qs m = tget s.queues.qs m)) ∧
  (∀ (s : State) (j : Job), j.phase = .running →
    (j.op = opFlush → settleJob s j = if flushDone s j then complete s j { status := 0x00, onMedia := true } else s) ∧
    (j.op = opFence → settleJob s j = if fenceDone s j then releaseFence (complete s j { status := 0x00 }) j.q else s))

/-- Delivering read data in PCIe mode stores to the command's buffers alone: a byte of shared memory outside every buffer there, and a byte of
DRAM outside every buffer there, reads as before; where one buffer of shared memory takes all the data, it holds them. -/
def Obligations.DeliveryStoresOnlyBuffers : Prop :=
  ∀ (s : State) (segs : List Seg) (bs : List Byte), s.phb = false →
    (∀ x, (∀ g ∈ segs, g.dram = false → x < g.addr ∨ g.addr + g.len ≤ x) →
      memRead (scatter s segs bs).1.host x = memRead s.host x) ∧
    (∀ x, (∀ g ∈ segs, g.dram = true → x < g.addr ∨ g.addr + g.len ≤ x) →
      memRead (scatter s segs bs).1.dram x = memRead s.dram x) ∧
    (∀ g, segs = [g] → g.dram = false → g.discard = false → g.len = bs.length → s.mayWriteShared = true →
      (scatter s segs bs).2 = true ∧ memReadN (scatter s segs bs).1.host g.addr bs.length = bs)

/-- The stream commands: STREAM_OPEN creates the next stream or answers the handle of an open one; STREAM_APPEND takes its data in where the
partition has room for it and for the appends admitted before it; STREAM_MARK takes its place in the visibility order; STREAM_CLOSE ends the
running Ashlar with CLOSE and waits for that record; STREAM_READ reads records or data, and RAW_READ delivers the codewords up to one that is
torn or fails; STREAM_TRANSFER asks for the source's certificate, or takes the roster's on the Keystone. -/
def Obligations.StreamCommandsResult : Prop :=
  ∀ (s : State) (q : Fin 4097) (c : Word) (b : Bus) (fl : FlashRead) (j : Job),
    let p := ePart j.bytes
    let s0 := absorbBus s b
    (readyJob s q.val c opStreamOpen = some j → isSpanJob s j = false → ∀ part, tget s.parts p = some part → part.isStream = true →
      eLen j.bytes ≤ 65535 → eStream j.bytes ≤ part.maxStream → part.lostNums.contains (eStream j.bytes) = false →
      unassigned s p (eStream j.bytes) = false →
      (∀ h, eStream j.bytes = 0 → part.nextStream ≠ 65536 → s.openStreams < 1024 → s.usedUnits p + s.openIn p + 2 ≤ part.capUnits →
        freeHandle s = some h → exec (.streamOpen q c) s = .next (createStream s j p h)) ∧
      (∀ t h, eStream j.bytes ≠ 0 → s.strm? (sKey p (eStream j.bytes)) = some t → t.cond = .opened → t.handle = some h →
        exec (.streamOpen q c) s = .next (finish (setStream s (sKey p (eStream j.bytes)) { t with handle := some h }) j
          { status := 0x00, onMedia := true, result := openResult (eStream j.bytes) h, cr0 := t.endOff, cr1 := t.newestAshlar })) ∧
      (∀ t, eStream j.bytes ≠ 0 → s.strm? (sKey p (eStream j.bytes)) = some t → t.cond ≠ .opened →
        exec (.streamOpen q c) s = .next (finishWith s j scStreamClosed))) ∧
    (readyJob s q.val c opStreamAppend = some j → isSpanJob s j = false → eLen j.bytes ≠ 0 → eLen j.bytes ≤ maxXfer → j.mark ≠ 0 →
      ∀ t, s.strm? j.mark = some t → t.cond = .opened →
      let k := sPart j.mark
      let need := appendGrowth { t with endOff := pendingEnd s j.mark t } (eLen j.bytes) + pendingUnits s k + s.usedUnits k + s.openIn k
      (s.capOf k < need → exec (.streamAppend q c b) s = .next (finishWith s j scNoSpace)) ∧
      (need ≤ s.capOf k →
        (j.origin.isSome = true → exec (.streamAppend q c b) s =
          .next (sendPulls (setJob s0 { j with phase := .running, data := [] }) j (eLen j.bytes))) ∧
        (∀ d, j.origin = none → j.sglErr = false → gather s0 b j.segs = some d →
          exec (.streamAppend q c b) s = .next (settle (setJob s0 { j with phase := .fetched, data := d }))))) ∧
    (readyJob s q.val c opStreamMark = some j → isSpanJob s j = false →
      exec (.streamMark q c) s = .next (if j.mark = 0 then finishWith s j scStreamClosed else settle (placeMark s j))) ∧
    (isSpanJob s j = true →
      (readyJob s q.val c opStreamOpen = some j → exec (.streamOpen q c) s = .next (spanStart s noBus j)) ∧
      (readyJob s q.val c opStreamAppend = some j → exec (.streamAppend q c b) s = .next (spanStart s b j)) ∧
      (readyJob s q.val c opStreamMark = some j → exec (.streamMark q c) s = .next (spanStart s noBus j)) ∧
      (readyJob s q.val c opStreamClose = some j → exec (.streamClose q c) s = .next (spanStart s noBus j)) ∧
      (readyJob s q.val c opStreamRead = some j → exec (.streamRead q c b fl) s = .next (spanStart s0 b j))) ∧
    (readyJob s q.val c opStreamClose = some j → isSpanJob s j = false → ∀ t, s.strm? j.mark = some t →
      (j.mark = 0 ∨ t.cond ≠ .opened → exec (.streamClose q c) s = .next (finishWith s j scStreamClosed)) ∧
      (j.mark ≠ 0 → t.cond = .opened →
        (closeWaits s j = true → exec (.streamClose q c) s = .next s) ∧
        (closeWaits s j = false → ∀ t1, (endOrEmpty s j.mark t afClose 0 cfClose (eTime j.bytes)).strm? j.mark = some t1 →
        exec (.streamClose q c) s = .next (settle (setJob
          (setStream (endOrEmpty s j.mark t afClose 0 cfClose (eTime j.bytes)) j.mark { t1 with cond := .closed, handle := none })
          { j with phase := .record (t.endedSeq + 1), result := t.endOff, ashlar := t.endedSeq }))))) ∧
    (readyJob s q.val c opStreamRead = some j → isSpanJob s j = false → eLen j.bytes ≠ 0 → eLen j.bytes ≤ maxXfer → j.sglErr = false →
      ∀ part t, tget s.parts p = some part → part.isStream = true → s.strm? (sKey p (eStream j.bytes)) = some t →
      exec (.streamRead q c b fl) s = .next (if fOpt j.bytes then readRecords s0 j (sKey p (eStream j.bytes)) t fl
        else readStream s0 j (sKey p (eStream j.bytes)) t fl)) ∧
    (∀ cws retry, readyJob s q.val c opRawRead = some j → (tget s.parts p).isSome = true →
      let a := eLba j.bytes
      let n := eLen j.bytes
      let size := if fOpt j.bytes then 4128 else 4096
      let cw := max 1 (cwPerPage (s.profOf (paLun a)))
      let start := paPage a * cwPerPage (s.profOf (paLun a)) + paCw a
      (rawBlock s a = true → rawOwned s (paBlock a) p = false →
        exec (.rawRead q c b cws retry) s = .next (finishWith s j scAccessDenied)) ∧
      (rawOk s a n = true → n * size ≤ maxXfer → rawOwned s (paBlock a) p = true →
        (s.media.offline.getLsbD (keyCh (paLun a)) = true →
          exec (.rawRead q c b cws retry) s = .next (finishWith s j scChannelFault)) ∧
        (s.media.offline.getLsbD (keyCh (paLun a)) = false → s.domMode (6 + keyCh (paLun a)) ≠ .offUntilReset → j.sglErr = false →
          rawBusy s (paBlock a) (paPage a) ((start + n - 1) / cw) = false →
          exec (.rawRead q c b cws retry) s = .next (readRaw s0 j cws retry)))) ∧
    (∀ cws retry, let a := eLba j.bytes
      let n := eLen j.bytes
      let size := if fOpt j.bytes then 4128 else 4096
      let cw := max 1 (cwPerPage (s.profOf (paLun a)))
      let start := paPage a * cw + paCw a
      let place := fun (i : Nat) => ((start + i) / cw, (start + i) % cw)
      let flash := reachFlash s j (((List.range n).map (fun i => (paBlock a, (place i).1))).eraseDups) retry
      (∀ r, flash = .inl r → readRaw s j cws retry = r) ∧
      (∀ r taken, flash = .inr (r, taken) →
        let rs := ((List.range n).map (fun i =>
          rawOutcome r taken (paBlock a) (place i).1 (place i).2 ((cws[i]?).getD .good))).mapIdx (fun i x => rawCw r j i x)
        let failed := (List.range n).filter (fun i => ((rs[i]?).map (·.2.2)).getD false)
        let hit := fun (x : Ref) => failed.any (fun i => refCovers r x (physAddr (paBlock a) (place i).1 (place i).2))
        let r1 := (ownRetries r j).foldl (fun t x => endRetry t x.1 x.2 hit false) r
        let r2 : State := { r1 with free := r1.free + 4128 * n }
        let data := rs.flatMap (·.1)
        (rs.findIdx? (fun x => x.2.1 || x.2.2) = none →
          readRaw s j cws retry = deliver r2 j data data.length { status := 0x00, result := data.length }) ∧
        (∀ i x, rs.findIdx? (fun x => x.2.1 || x.2.2) = some i → rs[i]? = some x →
          (x.2.1 = true → readRaw s j cws retry = deliver r2 j data (size * i) { status := scTorn, result := size * i }) ∧
          (x.2.1 = false → readRaw s j cws retry = deliver r2 j data (size * i)
            { status := 0x04, result := size * i, cr0 := physAddr (paBlock a) (place i).1 (place i).2 })))) ∧
    (readyJob s q.val c opStreamTransfer = some j → ∀ part, tget s.parts p = some part → part.isStream = true →
      (s.cas.enumerated = false → exec (.streamTransfer q c) s = .next (finishWith s j scMemberGone)) ∧
      (s.cas.enumerated = true → eLba j.bytes % 4096 = s.cas.memberId →
        exec (.streamTransfer q c) s = .next (finishWith s j scOutOfRange)) ∧
      (s.cas.enumerated = true → eLba j.bytes % 4096 ≠ s.cas.memberId →
        let tr : Transfer := ⟨j.q, j.count, s.ownTxn, eLba j.bytes % 4096, bitsOf (eAttr j.bytes) 20 16, eStream j.bytes, none, 0, none, [],
          0, 0⟩
        let s1 := setJob (takeTxn s) { j with phase := .running }
        let s2 : State := { s1 with cas := { s1.cas with transfers := s1.cas.transfers ++ [tr] } }
        exec (.streamTransfer q c) s = .next (if s.keystone = true then transferCert s2 tr (s.rosterCert (eLba j.bytes % 4096))
          else sendPkt s2 ⟨0x16, 1, true, 0, s.srcId, s.ownTxn, 0, leBytes 2 (eLba j.bytes % 4096)⟩)))

/-- What time and the signer do to streams: the running Ashlar closes with TIMED at its limit, the signed Capstone takes its place in the
chain, and the expired streams that nothing holds go, on the device's own media once recovery is over. -/
def Obligations.StreamTimeResult : Prop :=
  ∀ s : State,
    (∀ (p : Fin 32) (n : BitVec 16) (t : Strm) (r : Running), s.strm? (sKey p.val n.toNat) = some t → t.running = some r →
      s.energy.pfSeq = false →
      exec (.ashlarTimeout p n) s = .next (settle (endRunning s (sKey p.val n.toNat) t r afTimed 0 0 0 false))) ∧
    (∀ key rest t f n h ds, s.streams.sign = key :: rest → s.energy.pfSeq = false → s.gbl.sealFault = false →
      s.strm? key = some t → t.due = .capstone f n h :: ds →
      let s1 := wakeDomain { s with streams := { s.streams with sign := rest } } 4
      let t1 := { t with
        recs := t.recs ++ [t.settle s1 key (.capstone f n h)]
        due := ds
        closeUtc := if bitOf f 0 then utcAt s1.streams.utc s1.gbl.tick.toNat else t.closeUtc }
      exec .capstoneSigned s = .next (settle (setStream s1 key (t1.flushDue s1 key ds)))) ∧
    (s.mayRelease = true → exec .retentionCheck s =
      .next { releaseExpired s with streams := { (releaseExpired s).streams with lastCheck := s.gbl.tick } }) ∧
    (∀ x ∈ s.streams.tbl, expired s x.2 = true → x.2.cond ≠ .opened ∧ x.2.retain ≠ 0) ∧
    (∀ x ∈ s.streams.tbl, x.2.holds ≠ [] → unheld s x.1 x.2 = false)

/-! ## Admin commands -/

/-- IDENTIFY delivers the structure its CNS names, ATTEST the signed buffer, GET_LOG bytes of a page with its length and generation.
CREATE_QUEUE enables a new queue or answers SC_OUT_OF_RANGE; DISABLE_QUEUE stops a queue, and with RECLAIM ends its armed entries or waits
where reclaim waits; DESTROY_QUEUE removes an idle queue, else SC_NOT_READY; QUERY_QUEUE reports one. SET_TIME releases what has expired
where expiry is evaluated. GET_FEATURE answers a value; SET_FEATURE keeps the new value and answers the old one. -/
def Obligations.AdminReadAndQueueResult : Prop :=
  ∀ (s : State) (c : Word) (b : Bus) (j : Job),
    let s0 := absorbBus s b
    let si := absorbBus { s with free := s.free + 24 } b
    let q := ePs j.bytes
    let id := eAttr j.bytes
    let p := ePart j.bytes
    (adminJob s c opIdentify = some j → eLen j.bytes ≠ 0 → eLen j.bytes ≤ 4096 → j.sglErr = false →
      (eAttr j.bytes % 4 = 0 → exec (.identify c b) s =
        .next (deliver si j (bytesAt s.identDevice 0 (eLen j.bytes)) (eLen j.bytes) { status := 0x00, result := 4096 })) ∧
      (eAttr j.bytes % 4 = 2 → exec (.identify c b) s =
        .next (deliver si j (bytesAt s.cert 0 (eLen j.bytes)) (eLen j.bytes) { status := 0x00, result := 256 })) ∧
      (∀ part, eAttr j.bytes % 4 = 1 → tget s.parts p = some part → exec (.identify c b) s =
        .next (deliver si j (bytesAt (s.identPart p part) 0 (eLen j.bytes)) (eLen j.bytes) { status := 0x00, result := 64 })) ∧
      (∀ x, eAttr j.bytes % 4 = 1 → tget s.parts p = none → tget s.cas.spans p = some x → exec (.identify c b) s =
        .next (deliver si j (bytesAt (s.identSpan p x) 0 (eLen j.bytes)) (eLen j.bytes) { status := 0x00, result := 64 }))) ∧
    (∀ d, adminJob s c opAttest = some j → j.sglErr = false → gather s0 b j.segs = some d →
      exec (.attest c b) s = .next (deliver (wakeDomain s0 4) j (s0.attestation d) 128 { status := 0x00, result := 128 })) ∧
    (adminJob s c opCreateQueue = some j →
      ((q = 0 ∨ (tget s.queues.qs q).isSome = true ∨ queueParamsOk s (queueParams j.bytes) = false) →
        exec (.createQueue c) s = .next (finishWith s j scOutOfRange)) ∧
      (q ≠ 0 → q ≤ 4095 → tget s.queues.qs q = none → queueParamsOk s (queueParams j.bytes) = true →
        placementOk s q (queueParams j.bytes).base (64 * 2 ^ (queueParams j.bytes).depthLog2) (queueParams j.bytes).shadow = true →
        exec (.createQueue c) s = .next (finishOk (writeShadow
          { s with queues := { s.queues with qs := tput s.queues.qs q (newQueue (queueParams j.bytes)) } } q) j 0))) ∧
    (adminJob s c opDisableQueue = some j → q ≠ 0 → q ≤ 4095 → ∀ k, tget s.queues.qs q = some k →
      (k.enabled = false → j.mark = 0 → exec (.disableQueue c b) s = .next (finishOk s j 0)) ∧
      (k.enabled = true → j.mark = 0 → bitOf (eAttr j.bytes) 0 = false →
        exec (.disableQueue c b) s = .next (finishOk (disableQueue s0 q) j 0)) ∧
      (j.mark ≠ 0 → bitOf (eAttr j.bytes) 0 = false → exec (.disableQueue c b) s = .next (finishOk s0 j 0)) ∧
      (k.enabled = true ∨ j.mark ≠ 0 → bitOf (eAttr j.bytes) 0 = true →
        ∀ r n fin, reclaim b q (k.depth + 1) (if j.mark = 0 then disableQueue s0 q else s0) j.result = (r, n, fin) →
          exec (.disableQueue c b) s =
            .next (if fin then finishOk r j n else settle (setJob r { j with mark := 1, result := n })))) ∧
    (adminJob s c opDestroyQueue = some j → q ≠ 0 → q ≤ 4095 → (tget s.queues.qs q).isSome = true →
      exec (.destroyQueue c) s = .next (if s.qIdle q then finishOk { s with queues := { s.queues with qs := tdel s.queues.qs q } } j 0
        else finishWith s j scNotReady)) ∧
    (adminJob s c opQueryQueue = some j → q ≤ 4095 → ∀ k, tget s.queues.qs q = some k →
      exec (.queryQueue c) s = .next (finish s j {
        status := 0x00, result := k.p.lengthWord.toNat + k.p.attrWord.toNat * 2 ^ 32, cr0 := k.head.toNat + k.done.toNat * 2 ^ 32,
        cr1 := s.regQstat q + s.inflight q * 2 ^ 32 })) ∧
    (adminJob s c opSetTime = some j → exec (.setTime c) s = .next (finishOk (if s.mayRelease then releaseExpired s else s) j j.result)) ∧
    (adminJob s c opGetLog = some j → eLen j.bytes ≠ 0 → eLen j.bytes ≤ maxXfer → eLba j.bytes < (s.logPage id p).length →
      (id ≠ 3 ∧ id ≠ 4 ∨ (tget s.parts p).isSome = true) → j.sglErr = false →
      let d := ((s.logPage id p).drop (eLba j.bytes)).take (eLen j.bytes)
      exec (.getLog c b) s = .next (deliver (notePage s0 id p) j d d.length {
        status := 0x00, result := d.length, cr0 := (s.logPage id p).length, cr1 := (notePage s0 id p).pageGen id p })) ∧
    (adminJob s c opGetFeature = some j → exec (.getFeature c) s = .next (match s.feature id p with
      | some v => finishOk s j v
      | none => finishWith s j scOutOfRange)) ∧
    (∀ old, adminJob s c opSetFeature = some j → s.media.foreign = false → (id = 6 → s.sys.fMax ≠ 0 ∧ eLba j.bytes ≤ s.sys.fMax) →
      s.feature id p = some old → featureOk id (eLba j.bytes) = true →
      exec (.setFeature c) s = .next (finishSaved (putFeature s id p (eLba j.bytes)) j old)) ∧
    (∀ v old, 1 ≤ id → id ≤ 7 → (id = 6 → s.sys.fMax ≠ 0) → s.feature id p = some old → (putFeature s id p v).feature id p = some v)

/-- Partitions. CREATE_PARTITION, with room and a free number, makes the partition, and for an XTS partition draws a key and delivers it
wrapped; SC_FOOTING_ONLY outside full service. DELETE_PARTITION of a partition answers SC_HELD, SC_NOT_READY with I/O outstanding, or
clears it and frees its blocks; of a span it answers SC_NOT_READY with I/O outstanding, or removes the span and its handles; of neither,
SC_OUT_OF_RANGE. SET_HOLD adds or removes one of at most eight references of a partition or stream. SANITIZE needs its permission and
answers SC_HELD or SC_NOT_READY, else erases and reports what residue is left. ADOPT_MEDIA needs its permission, and with keys that unwrap
takes foreign media over. On the device's own media, where the clause says so. -/
def Obligations.PartitionCommandsResult : Prop :=
  ∀ (s : State) (c : Word) (b : Bus) (j : Job),
    let s0 := absorbBus s b
    let p := ePart j.bytes
    let units := (eLba j.bytes + 1023) / 1024 * 1024
    (adminJob s c opCreatePartition = some j → s.media.foreign = false →
      (s.gbl.fullService = false → exec (.createPartition c b) s = .next (finishWith s j scFootingOnly)) ∧
      (s.gbl.fullService = true → s.partUsed p = false → eLba j.bytes ≠ 0 → units ≤ s.freeUnits →
        (s.gbl.dramGib.val ≠ 0 ∨ s.allocUnits + units ≤ 536870912) →
        (bitOf (eAttr j.bytes) 2 = false → exec (.createPartition c b) s =
          .next (finishSaved { s with parts := tput s.parts p (newPart j.bytes units) } j (newPart j.bytes units).result)) ∧
        (∀ d, bitOf (eAttr j.bytes) 2 = true → j.sglErr = false → gather s0 b j.segs = some d →
          let k := drawKey s0.free
          let w := keyWrap (bytesAt d 0 32) k.1
          exec (.createPartition c b) s = .next (deliver { s0 with
            parts := tput s0.parts p { newPart j.bytes units with keyFleet := some w, keyDev := some (s0.wrapOwn k.1) }, free := k.2 }
            j w 72 { status := 0x00, onMedia := true, result := (newPart j.bytes units).result })))) ∧
    (adminJob s c opDeletePartition = some j → s.media.foreign = false → s.gbl.fullService = true → tget s.parts p = none →
      ((tget s.cas.spans p).isSome = true → ioOutstanding s p = true → exec (.deletePartition c) s = .next (finishWith s j scNotReady)) ∧
      ((tget s.cas.spans p).isSome = true → ioOutstanding s p = false → exec (.deletePartition c) s = .next (finishSaved { s with cas := { s.cas with
        spans := tdel s.cas.spans p, spanHandles := s.cas.spanHandles.filter (fun h => sPart h.2.1 != p) } } j 0)) ∧
      (tget s.cas.spans p = none → exec (.deletePartition c) s = .next (finishWith s j scOutOfRange))) ∧
    (adminJob s c opDeletePartition = some j → s.media.foreign = false → s.gbl.fullService = true → ∀ part, tget s.parts p = some part →
      (partHeld s p = true → exec (.deletePartition c) s = .next (finishWith s j scHeld)) ∧
      (partHeld s p = false → ioOutstanding s p = true → exec (.deletePartition c) s = .next (finishWith s j scNotReady)) ∧
      (partHeld s p = false → ioOutstanding s p = false → exec (.deletePartition c) s =
        .next (finishSaved (freeEmpty { clearPart s p with parts := tdel (clearPart s p).parts p }) j part.capUnits))) ∧
    (adminJob s c opSetHold = some j → s.media.foreign = false → s.gbl.fullService = true → ∀ part, tget s.parts p = some part →
      let r := BitVec.ofNat 64 (eLba j.bytes)
      let set := bitOf (eAttr j.bytes) 16
      let n := eStream j.bytes
      (n = 0 →
        (∀ l, holdRefs part.holds r set = .ok l → exec (.setHold c) s =
          .next (finishSaved { s with parts := tput s.parts p { part with holds := l } } j l.length)) ∧
        (∀ e, holdRefs part.holds r set = .error e → exec (.setHold c) s = .next (finishWith s j e))) ∧
      (n ≠ 0 → s.strm? (sKey p n) = none → exec (.setHold c) s = .next (finishWith s j scOutOfRange)) ∧
      (∀ t, n ≠ 0 → s.strm? (sKey p n) = some t →
        (∀ l, holdRefs t.holds r set = .ok l → exec (.setHold c) s =
          .next (finishSaved (setStream s (sKey p n) { t with holds := l }) j l.length)) ∧
        (∀ e, holdRefs t.holds r set = .error e → exec (.setHold c) s = .next (finishWith s j e)))) ∧
    (∀ (l : List DWord) (r : DWord),
      (r ∉ l → l.length < 8 → holdRefs l r true = .ok (l ++ [r])) ∧ (r ∉ l → 8 ≤ l.length → holdRefs l r true = .error scNoSpace) ∧
      (r ∈ l → holdRefs l r true = .ok l ∧ holdRefs l r false = .ok (l.filter (· != r))) ∧
      (r ∉ l → holdRefs l r false = .error scOutOfRange)) ∧
    (∀ residue, adminJob s c opSanitize = some j →
      let all := bitOf (eAttr j.bytes) 0
      let crypto := bitOf (eAttr j.bytes) 1
      let ps := if all then s.parts.map (·.1) else [p]
      let isXts := fun (p : Nat) => ((tget s.parts p).map (·.xts)).getD false
      let ks := if crypto then ps.filter isXts else []
      let es := ps.filter (fun p => !ks.contains p)
      (s.prot.policy.getLsbD 8 = false → exec (.sanitize c residue) s = .next (finishWith s j scAccessDenied)) ∧
      (s.prot.policy.getLsbD 8 = true → s.media.foreign = false → s.gbl.fullService = true →
        (all = true ∨ ((tget s.parts p).isSome = true ∧ (crypto = false ∨ isXts p = true))) →
        (ps.any (partHeld s) = true → exec (.sanitize c residue) s = .next (finishWith s j scHeld)) ∧
        (ps.any (partHeld s) = false → ps.any (ioOutstanding s) = true →
          exec (.sanitize c residue) s = .next (finishWith s j scNotReady)) ∧
        (∀ s1, ps.any (partHeld s) = false → ps.any (ioOutstanding s) = false → sanitizeParts s ks es = some s1 →
          let left := if es.isEmpty then 0 else min residue s.rubble
          let s2 := if left = 0 then s1 else logEvent s1 logSanitizeResidue [(0, 1, if all then 0xFF else p), (4, 4, left)]
          exec (.sanitize c residue) s = .next (finish (freeEmpty s2) j
            { status := 0x00, onMedia := true, result := (ps.map s.usedUnits).sum, cr0 := left, logged := 0 < left })))) ∧
    (adminJob s c opAdoptMedia = some j →
      (s.prot.policy.getLsbD 9 = false → exec (.adoptMedia c b) s = .next (finishWith s j scAccessDenied)) ∧
      (s.prot.policy.getLsbD 9 = true → s.gbl.fullService = true → s.media.foreign = true → j.sglErr = false →
        ∀ d keys, gather s0 b j.segs = some d →
        unwrapKeys (bytesAt d 0 32) s0.parts = .ok keys →
        let s1 := adopt s0 keys
        exec (.adoptMedia c b) s = .next (finishSaved (refresh { s1 with
          media := { s1.media with relocating := s1.media.relocating ++
            (missingLuns s1).filter (fun l => !s1.media.relocating.contains l) }
          gbl := { s1.gbl with roEol := s1.sys.eol } }) j s0.parts.length)))

/-- Images and service. LOAD_PROFILE, LOAD_MICROCODE and COMMIT_FIRMWARE refuse an image by the first check that fails, each logged, or
take it: a profile stored where PERSIST asks for it, microcode into the standby bank, firmware into the slot not running. START_CALIBRATION
requests its kinds and waits. ATTACH_MAP_STORE judges its descriptors, then NOT_READY, and attaches the regions that can be read;
DETACH_MAP_STORE detaches. SELF_TEST answers the tests that failed and what follows from them, or SC_NOT_READY behind another.
CASCADE_ENUMERATE starts on an idle Keystone and ends with the Roster once every position is visited; CASCADE_ROSTER delivers entries,
accepts a HELD one, or clears one that is not present. -/
def Obligations.ImageAndServiceResult : Prop :=
  ∀ (s : State) (c : Word) (b : Bus) (j : Job),
    let s0 := absorbBus s b
    (adminJob s c opLoadProfile = some j →
      (eLen j.bytes ≠ 512 → exec (.loadProfile c b) s = .next (refuseImage s j 3 1 scOutOfRange)) ∧
      (∀ img, eLen j.bytes = 512 → j.sglErr = false → gather s0 b j.segs = some img →
        (∀ row st, profileCheck s0 (bitOf (eAttr j.bytes) 0) img = some (row, st) →
          exec (.loadProfile c b) s = .next (refuseImage s0 j 3 row st)) ∧
        (profileCheck s0 (bitOf (eAttr j.bytes) 0) img = none → exec (.loadProfile c b) s = .next (
          if bitOf (eAttr j.bytes) 0 then finishSaved { s0 with sys := { s0.sys with
            profiles := s0.sys.profiles.filter (fun q => pfId q != pfId img) ++ [img] } } j (pfId img)
          else finishOk s0 j (pfId img))))) ∧
    (adminJob s c opLoadMicrocode = some j →
      (j.window = false → s.prot.policy.getLsbD 5 = false → exec (.loadMicrocode c b) s = .next (refuseImage s j 2 1 scAccessDenied)) ∧
      (∀ img, (j.window = true ∨ s.prot.policy.getLsbD 5 = true) → 340 ≤ eLen j.bytes → eLen j.bytes ≤ maxXfer → j.sglErr = false →
        gather s0 b j.segs = some img →
        exec (.loadMicrocode c b) s = .next (match ucodeCheck s0 img with
          | some (row, st) => refuseImage s0 j 2 row st
          | none => finishSaved (loadStandby s0 (imgUcode img)) j (imgUcode img).version))) ∧
    (adminJob s c opCommitFirmware = some j →
      (j.window = false → s.prot.policy.getLsbD 6 = false → exec (.commitFirmware c b) s = .next (refuseImage s j 1 1 scAccessDenied)) ∧
      (∀ img, (j.window = true ∨ s.prot.policy.getLsbD 6 = true) → eLen j.bytes ≤ maxXfer → earlierRuns s j opCommitFirmware = false →
        j.sglErr = false → gather s0 b j.segs = some img →
        let slot : Option FwSlot := some ⟨fieldAt img 12 2, fieldAt img 14 1, true⟩
        exec (.commitFirmware c b) s = .next (
          if imageSigned Config.firmwareKey img = false then refuseImage s0 j 1 2 scAccessDenied
          else if fieldAt img 14 1 < s0.fwTherm then refuseImage s0 j 1 3 scAccessDenied
          else if fwHeaderOk img = false then refuseImage s0 j 1 4 scOutOfRange
          else finishSaved { s0 with
            sys := if s0.sys.runB then { s0.sys with fwA := slot } else { s0.sys with fwB := slot } } j (fieldAt img 12 2)))) ∧
    (adminJob s c opStartCalibration = some j → exec (.startCalibration c) s =
      .next (settle (setJob ((bitList 3 (eAttr j.bytes)).foldl requestKind s) { j with phase := .calibrating }))) ∧
    (adminJob s c opAttachMapStore = some j → s.gbl.fullService = true →
      (s.phb = true → exec (.attachMapStore c b) s = .next (finishWith s j scOutOfRange)) ∧
      (∀ img, s.phb = false → eLen j.bytes ≠ 0 → eLen j.bytes ≤ 64 → j.sglErr = false → gather s0 b j.segs = some img →
        let es := (List.range (eLen j.bytes)).map (regionAt img)
        let rs := acceptRegions s0 b es
        let s1 := (List.range (es.length - rs.length)).foldl (fun s _ => countBus s) s0
        (regionsOk es = false → exec (.attachMapStore c b) s = .next (finishWith s0 j scOutOfRange)) ∧
        (regionsOk es = true → (s.hmap.attached || earlierRuns s j opDetachMapStore) = true →
          exec (.attachMapStore c b) s = .next (finishWith s0 j scNotReady)) ∧
        (regionsOk es = true → (s.hmap.attached || earlierRuns s j opDetachMapStore) = false →
          (rs = [] → exec (.attachMapStore c b) s = .next (finishBus s0 j)) ∧
          (rs ≠ [] → exec (.attachMapStore c b) s = .next (finishOk (attachMap s1 rs) j rs.length))))) ∧
    (adminJob s c opDetachMapStore = some j → s.gbl.fullService = true →
      exec (.detachMapStore c) s = .next (finishOk (if s.hmap.attached then detachMap s else s) j 0)) ∧
    (∀ r, adminJob s c opSelfTest = some j → s.gbl.fullService = true →
      (earlierRuns s j opSelfTest = true → exec (.selfTest c r) s = .next (finishWith s j scNotReady)) ∧
      (earlierRuns s j opSelfTest = false →
        let mask := r.failed.toNat &&& s.selfTestMask (eAttr j.bytes == 1)
        let s1 := if mask = 0 then s else logEvent s logSelfTest [(0, 1, eAttr j.bytes), (4, 4, mask), (8, 8, r.detail.toNat)]
        let s2 := refresh (selfTestUnits (finish s1 j { status := 0x00, cr0 := mask, logged := mask != 0 }) mask r)
        let s3 : State := if bitOf mask 2 || bitOf mask 3 then { s2 with gbl := { s2.gbl with sealFault := true } } else s2
        exec (.selfTest c r) s = .next (settle (if mask &&& 0x23F = 0 then s3 else enterFailed s3 0x15 0 (!bitOf mask 2))))) ∧
    (∀ held e, s.job? 0 c = some j → s.cas.enumerating = some e → j.phase = .running → e.count = c → s.cas.attests = [] →
      e.toVisit = [] → s.energy.pfSeq = false → exec (.cascadeEnumerate c held) s = .next (enumEnd s j e held)) ∧
    (∀ held, adminJob s c opCascadeEnumerate = some j → s.cas.enumerating = none →
      (s.keystone = false → exec (.cascadeEnumerate c held) s = .next (finishWith s j scAccessDenied)) ∧
      (s.keystone = true → s.gbl.fullService = true → s.cas.fwds = [] → s.cas.spanOps = [] →
        ∀ e, (enumStart s j).cas.enumerating = some e → exec (.cascadeEnumerate c held) s =
          .next (if e.toVisit.isEmpty && (enumStart s j).cas.attests.isEmpty then enumEnd (enumStart s j) j e held else enumStart s j))) ∧
    (adminJob s c opCascadeRoster = some j → s.keystone = true → s.gbl.fullService = true →
      let id := eLba j.bytes % 4096
      (eAttr j.bytes = 0 → eLen j.bytes ≠ 0 → eLen j.bytes ≤ maxXfer → j.sglErr = false →
        let rs := (s.cas.roster.filter (fun r => id ≤ r.1)).take (eLen j.bytes / 128)
        let d := rs.flatMap (fun r => rosterBytes r.1 r.2)
        exec (.cascadeRoster c b) s = .next (deliver s0 j d d.length { status := 0x00, result := rs.length })) ∧
      (∀ r, eAttr j.bytes = 1 → tget s.cas.roster id = some r → r.state = 2 →
        exec (.cascadeRoster c b) s = .next (finishSaved (acceptHeld s id r) j 0)) ∧
      (∀ r, eAttr j.bytes = 2 → tget s.cas.roster id = some r → ¬ (r.state = 1 ∧ r.present = true) →
        exec (.cascadeRoster c b) s = .next (finishSaved { s with cas := { s.cas with roster := tdel s.cas.roster id } } j 0)))

/-! ## Media work and calibration -/

/-- Media work. A poll takes effect on a LUN in service, and one that finds an erase ended puts the block into the Quarry with its count
raised; a suspended operation goes on, with FAIL as a fault. Where background programs run, garbage collection below Q_LOW, wear levelling
beyond the spread, refresh of a Course's block, the Footing fold, die relocation and Plinths act as their moves give, and the first two do
nothing where nothing is due; blocks are erased and the health page committed wherever background work runs. The Host Map Store's scrub
reads and refills the slots of its region. The 10 ms period takes the figures of the period that ended and leaves blocks, stage, partitions
and queues. -/
def Obligations.MediaWorkResult : Prop :=
  (∀ (s : State) (lun : LunId) (a : PollAnswer), s.gbl.coreOn = true → s.energy.parked = false → s.liveLuns.contains (lunKey lun) = true →
    exec (.flashStatusPoll lun a) s = .next (settle (pollLun s (lunKey lun) a))) ∧
  (∀ (s : State) (lun : LunId) (l : Lun) (b : Nat), tget s.media.luns (lunKey lun) = some l → l.op = .erase b →
    let k := opBlock s (lunKey lun) (.erase b)
    tget (pollLun s (lunKey lun) .done).media.blocks k = some ⟨.quarry, s.blkErases k + 1, 0⟩) ∧
  (∀ (s : State) (lun : LunId) (l : Lun), s.gbl.coreOn = true → tget s.media.luns (lunKey lun) = some l → l.suspended = true →
    l.failed = false → s.energy.pfSeq = false →
    let s1 := modLun s (lunKey lun) (fun l => { l with suspended := false, waiting := 0, since := s.gbl.tick })
    exec (.flashResume lun false) s = .next s1 ∧
    exec (.flashResume lun true) s = .next (settle (faultStatus s1 (lunKey lun) (opBlock s1 (lunKey lun) l.op)))) ∧
  (∀ s : State, s.mayMove = true →
    (s.qLow ≤ s.quarry → exec .gcReclaim s = .next s) ∧
    (∀ id v c s1, s.gcShareOk = true → s.quarry < s.qLow → gcVictim s = some (id, v) → tget s.media.courses id = some c → emptyCourse s id = some s1 →
      exec .gcReclaim s = .next (noteVictim (eraseBlocks s1 c.blocks) v)) ∧
    (wearSpread s = false → exec .wearLevel s = .next s) ∧
    (∀ id w s1, wearSpread s = true → leastWorn s = some (id, w) → emptyCourse (openWorn s id) id = some s1 →
      exec .wearLevel s = .next s1) ∧
    (∀ (lun : LunId) (block : BitVec 20) (soft3 : Bool) id m, s.blkUse (blkKey (lunKey lun) block.toNat) = .course →
      blockOwner s (blkKey (lunKey lun) block.toNat) = some (id, m) →
      exec (.refresh lun block soft3) s = .next (settle (freeEmpty (retireBlock s id m false)))) ∧
    (∀ id c s1, s.gbl.fullService = true → s.media.courses.find? (fun c => c.2.role == .cold && !c.2.isOpen &&
      c.2.groups.all (· == 1) && 1 < maxOf (s.profs.map pfBits)) = some (id, c) → emptyCourse s id = some s1 → exec .footingFold s = .next s1) ∧
    (s.media.relocating = [] → exec .dieRelocate s = .next s) ∧
    (∀ l rest s1, s.media.relocating = l :: rest →
      let onDie := fun (i : Nat) (c : Course) (g : Nat × Nat × List Ref) =>
        (c.blocks[g.1]?).map blkLun == some l && rowRebuilds s i g.1 g.2.1
      let refs := (newestFirst s.media.courses).flatMap (fun c => (c.2.pages.filter (onDie c.1 c.2)).flatMap (fun g => g.2.2))
      placeMoved s (refs.filter (refValid s)) = some s1 →
      exec .dieRelocate s = .next (refresh (freeEmpty (modMedia s1 (fun m => { m with
        relocating := rest
        courses := tmap m.courses (fun i c => { c with pages := c.pages.filter (fun g => !onDie i c g) }) }))))) ∧
    exec .plinthWrite s = .next (settle (writePlinth s))) ∧
  (∀ s : State, s.background = true →
    exec .blockErase s = .next (eraseBlocks (freeEmpty s) ((freedBlocks (freeEmpty s)).take 1)) ∧
    (s.sys.t6 = true → exec .healthCommit s = .next (commitHealth s))) ∧
  (∀ (s : State) (b : Bus) (r : Nat) (rest : List Nat), s.hmap.scrubbing = r :: rest → s.hmapOn = true →
    let s0 := absorbBus s b
    let s1 := (s0.hmap.slots.filter (fun x => x.1 / 1048576 == r)).foldl (scrubSlot b) s0
    exec (.hmapScrub b) s =
      .next (refresh { s1 with hmap := { s1.hmap with scrubbing := s1.hmap.scrubbing.filter (· != r) } })) ∧
  (∀ (s : State) (waited : Bool) (bg gc : Nat), s.gbl.coreOn = true → s.media.probed = true → s.energy.pfSeq = false →
    ∃ t, exec (.overdrivePeriod waited bg gc) s = .next t ∧ t.media.pace.nowAll = 0 ∧ t.media.pace.nowBlock = 0 ∧
      t.media.pace.periods = ((s.media.pace.nowAll, s.media.pace.nowBlock) :: s.media.pace.periods).take 50 ∧
      (waited = true → t.media.pace.pressed = s.media.pace.pressed + 1 ∧ t.media.pace.unpressed = 0) ∧
      t.media.blocks = s.media.blocks ∧ t.stage = s.stage ∧ t.parts = s.parts ∧ t.queues = s.queues)

/-- Calibration. A CAL_CTRL write requests its kinds, TEMP_DELTA and AUTO_EN taken, and does nothing while the device is HALTED, FAILED or
parked. A run of kind 0 or 1 with results for every unit requested judges them all and closes. A hold-up run that waits starts its
discharge once its conditions hold, else goes on waiting, and its condition limit concludes it; the discharge limit leads to the recharge,
or concludes with the second, as the recharge limit does. CAL_REPEAT requests the units noted for a repeat, and for the hold-up once its
conditions hold. -/
def Obligations.CalibrationResult : Prop :=
  (∀ (s : State) (v : Word), s.hostAccess = true → s.limited = false →
    exec (.calReqTrim v) s = .next (calCtrlWrite s (v ||| 1)) ∧ exec (.calReqTrack v) s = .next (calCtrlWrite s (v ||| 2)) ∧
    exec (.calReqHoldup v) s = .next (calCtrlWrite s (v ||| 4)) ∧
    exec (.calReqHoldup 0) s =
      .next (requestKind (noteGen { s with sys := { s.sys with calDelta := 1 }, cal := { s.cal with autoEn := false } } 7) 2)) ∧
  (∀ (s : State) (v : Word), s.limited = true →
    exec (.calReqTrim v) s = .next s ∧ exec (.calReqTrack v) s = .next s ∧ exec (.calReqHoldup v) s = .next s) ∧
  (∀ (s : State) (rs : List (Nat × Sweep × Sweep)), s.calRuns = true → s.cal.req0 ≠ [] → (∀ u ∈ s.cal.req0, (tget rs u).isSome = true) →
    let r := trimAll rs s.cal.req0 { s with cal := { s.cal with req0 := [] } }
    exec (.calTrimRun rs) s = .next (closeRun r.1 0 r.2.1 r.2.2 (r.2.2.any (trimStopped r.1)))) ∧
  (∀ (s : State) (rs : List (Nat × Search × Search)), s.calRuns = true → s.gbl.recovered = true → s.media.foreign = false →
    s.cal.req0 = [] → s.cal.req1 ≠ [] → (∀ u ∈ s.cal.req1, (tget rs u).isSome = true) →
    let r := trackAll rs s.cal.req1 { s with cal := { s.cal with req1 := [] } }
    exec (.calTrackRun rs) s = .next (closeRun r.1 1 r.2.1 r.2.2 (r.2.2.any (trackStopped r.1)))) ∧
  (∀ (s : State) (since : DWord), s.cal.hold = .waiting since →
    (s.calRuns = true → s.holdCond = true → exec .calHoldupRun s = .next (startDischarge s false s.vhNum none)) ∧
    (s.holdCond = false → exec .calHoldupRun s = .next s) ∧
    exec .holdupConditionTimeout s = .next (concludeHold s none none)) ∧
  (∀ (s : State) (since : DWord) (k0 : Option (Nat × DWord)) (v0 : Nat) (first : Option Nat),
    (s.cal.hold = .discharging false since k0 v0 first → ∃ t, exec .holdupDischargeTimeout s = .next t ∧
      t.cal = { s.cal with hold := .recharging s.gbl.tick v0 none }) ∧
    (s.cal.hold = .discharging true since k0 v0 first →
      exec .holdupDischargeTimeout s = .next (concludeHold (setCalPin s false) first none)) ∧
    (s.cal.hold = .recharging since v0 first → exec .holdupRechargeTimeout s = .next (concludeHold s first none))) ∧
  (∀ s : State, s.calRuns = true → s.stopped = false →
    exec (.calRepeat 0) s = .next (requestCal { s with cal := { s.cal with rep0 := [] } } 0 (s.cal.rep0.filter s.trimUnits.contains)) ∧
    exec (.calRepeat 1) s = .next (requestCal { s with cal := { s.cal with rep1 := [] } } 1 (s.cal.rep1.filter s.trackUnits.contains)) ∧
    (s.cal.holdRep = true → s.holdCond = true → s.cal.hold = .idle →
      exec (.calRepeat 2) s =
        .next (noteGen { s with cal := { s.cal with holdRep := false, hold := .waiting s.gbl.tick } } 7)))

/-! ## Masons, Block Mover -/

/-- Masons. MC_CTRL's SWITCH requests a switch on the channels concerned and FORCE takes the standby bank on them at once, where permitted;
HALTED, FAILED and the power-fail sequence take the fields alone, and where registers are limited CH_SEL alone. An idle Mason takes a
routine and its work begins, the channel woken. Words run to an event, or to a switch that is pending. A request that times out is
withdrawn and logged. A machine check is recorded and logged, then halts the device (reference bad), restarts the Mason (readback good) or
takes the channel offline. The scrub logs each word found and reloads the bank whose reference failed. -/
def Obligations.MasonResult : Prop :=
  (∀ (s : State) (v : Word), s.hostAccess = true →
    (s.stopped = true ∨ s.energy.pfSeq = true →
      exec (.mcSwitch v) s = .next (mcFields s (v ||| 1)) ∧ exec (.mcForce v) s = .next (mcFields s (v ||| 2))) ∧
    (s.limited = true → mcFields s v = { s with micro := { s.micro with chSel := Fin.ofNat 16 (bitsOf v.toNat 7 4) } }) ∧
    (mcPermitted (mcFields s (v ||| 2)) = true → let s1 := mcFields s (v ||| 2)
      exec (.mcForce v) s = .next (commitCandidate ((mcConcerned s1).foldl forceSwitch s1))) ∧
    (v.getLsbD 1 = false → mcPermitted (mcFields s (v ||| 1)) = true → let s1 := mcFields s (v ||| 1)
      exec (.mcSwitch v) s = .next ((mcConcerned s1).foldl requestSwitch s1))) ∧
  (∀ (s : State) (ch : Fin 16) (r : Fin 32) (o : Vector Word 8) (w : FlashWork) (s' : State), s.gbl.coreOn = true →
    masonIdle s ch = true → r ≠ 0 → r.val ≤ 20 → startWork s ch w = some s' →
    let t := wakeDomain s' (6 + ch.val)
    exec (.masonRoutinePost ch r o w) s = .next (setMason t ch { t.mason ch with opnd := o, posted := some r })) ∧
  (∀ (s : State) (ch : Fin 16) (i : List WordIn), s.gbl.coreOn = true → s.inService ch.val = true →
    exec (.masonEvent ch i) s = .next (masonRun ch false i s) ∧
    ((s.mason ch).pendSince.isSome = true → s.energy.pfSeq = false → exec (.switchTaken ch i) s = .next (masonRun ch true i s))) ∧
  (∀ (s : State) (ch : Fin 16), (s.mason ch).pendSince.isSome = true →
    exec (.mcSwitchTimeout ch) s = .next (logEvent (setMason s ch { s.mason ch with pendSince := none, patchReq := false }) logMcSwitchEnd
      [(0, 1, ch.val), (1, 1, 1), (2, 2, (s.mason ch).addr.toNat)])) ∧
  (∀ (s : State) (ch : Fin 16) (a : BitVec 12) (rb ro : Bool), s.gbl.coreOn = true → s.inService ch.val = true →
    let r := setMason s ch { s.mason ch with ce := none, cle := false, ale := false, lastCheck := some s.gbl.tick }
    let r1 := setIrq { r with micro := { r.micro with
      checkPending := putBit r.micro.checkPending ch.val true, checkChannel := ch, checkAddr := a } } irqMcheck
    let r2 : State := { r1 with log := { r1.log with health := { r1.log.health with
      mcParity := satTo 0xFFFFFFFFFFFFFFFF (r1.log.health.mcParity + 1) } } }
    let k := mcCause s ch rb ro
    let r3 := logEvent r2 logMcParity [(0, 1, ch.val), (1, 1, k), (2, 1, b2n (s.mason ch).bank), (4, 2, a.toNat)]
    exec (.machineCheck ch a rb ro) s = .next (if k = 4 then enterHalted r3 0x04 ch.val
      else if k = 1 then cutChannel (restartMason r3 ch) ch.val false else takeOffline r3 ch.val 3) ∧
    (ro = false → k = 4) ∧ (ro = true → (s.mason ch).lastCheck = none → k = if rb = true then 1 else 3)) ∧
  (∀ (s : State) (bad : List (Fin 5 × Bool × BitVec 12)), s.gbl.coreOn = true → let s1 := bad.foldl scrubOne s
    exec (.mcScrub bad) s = .next { s1 with micro := { s1.micro with reloading := (bad.find? (fun x => x.1 == 4)).map (·.2.1) } })

/-- Block Mover. START and ABORT are writes of MOV_CTRL, ignored where registers are limited. START runs an idle channel, in list mode or
with bytes to move; with none and no pulse chosen it stays IDLE. ABORT with START starts nothing and sets ABORTED; ABORT alone on an idle
channel changes no state. ABORT of a running channel keeps its oldest burst alone, or with none unfinished stops it as aborted. An edge of
EVT_IN starts the idle channels that select it. A descriptor that is read begins its run, or completes at once with no bytes; a failed
fetch stops the channel with BAD_SEEN. A burst starts at the next destination address with the length of its rules; one that is done leaves
MOV_COUNT at the bytes remaining, the last ends the transfer, and a failed access is a bus error. An EVT_OUT pin but the calibration pin
returns low. -/
def Obligations.MoverResult : Prop :=
  (∀ (s : State) (v : Word), s.hostAccess = true →
    (s.limited = false → exec (.movStart v) s = .next (movCtrlWrite s (v ||| 1)) ∧
      exec (.movAbort v) s = .next (movCtrlWrite s (v ||| 2))) ∧
    (s.limited = true → exec (.movStart v) s = .next s ∧ exec (.movAbort v) s = .next s)) ∧
  (∀ (s : State) (v : Word), s.hostAccess = true → s.limited = false → s.energy.pfSeq = false →
    (s.mov s.mover.sel).state = .idle →
    (v.getLsbD 1 = false → v.getLsbD 2 = true → ∃ t, exec (.movStart v) s = .next t ∧
      (t.mov s.mover.sel).state = .running ∧ (t.mov s.mover.sel).count = (s.mov s.mover.sel).count) ∧
    (v.getLsbD 1 = false → v.getLsbD 2 = false → (s.mov s.mover.sel).count ≠ 0 → ∃ t, exec (.movStart v) s = .next t ∧
      (t.mov s.mover.sel).state = .running ∧ (t.mov s.mover.sel).run.isSome = true) ∧
    (v.getLsbD 1 = false → v.getLsbD 2 = false → (s.mov s.mover.sel).count = 0 → v.getLsbD 6 = false → v.getLsbD 7 = false →
      ∃ t, exec (.movStart v) s = .next t ∧ (t.mov s.mover.sel).state = .idle) ∧
    (v.getLsbD 0 = true → ∃ t, exec (.movAbort v) s = .next t ∧ (t.mov s.mover.sel).state = .idle ∧
      (t.mov s.mover.sel).aborted = true ∧ (t.mov s.mover.sel).count = (s.mov s.mover.sel).count) ∧
    (v.getLsbD 0 = false → ∃ t, exec (.movAbort v) s = .next t ∧ (t.mov s.mover.sel).state = .idle ∧
      (t.mov s.mover.sel).aborted = (s.mov s.mover.sel).aborted)) ∧
  (∀ (s : State) (v : Word), s.hostAccess = true → s.limited = false → (s.mov s.mover.sel).state = .running →
    (∀ x xs, (s.mov s.mover.sel).bursts = x :: xs → ∃ t, exec (.movAbort v) s = .next t ∧
      (t.mov s.mover.sel).state = .aborting ∧ (t.mov s.mover.sel).bursts = [x]) ∧
    ((s.mov s.mover.sel).bursts = [] → ∃ t, exec (.movAbort v) s = .next t ∧
      (t.mov s.mover.sel).state = .idle ∧ (t.mov s.mover.sel).aborted = true)) ∧
  (∀ (s : State) (pin : Fin 4), s.gbl.coreOn = true → s.limited = false → s.energy.pfSeq = false →
    exec (.evtInEdge pin) s = .next (eachMov (fun s c =>
      if (s.mov c).evtInEn = true ∧ (s.mov c).evtInSel = pin then startCh 33 s c else s) s)) ∧
  (∀ (s : State) (ch : Fin 32) (b : Bus), (s.mov ch).state = .running → (s.mov ch).mode = true → (s.mov ch).run = none →
    let s1 := absorbBus s b
    (movRead s1 b false (s.mov ch).next.toNat 32 = none → ∃ t, exec (.moverDescFetch ch b) s = .next t ∧
      (t.mov ch).state = .idle ∧ (t.mov ch).badSeen = true ∧ (t.mov ch).count = 0) ∧
    (∀ d, movRead s1 b false (s.mov ch).next.toNat 32 = some d →
      let s2 := setMov s1 ch
        { s.mov ch with run := some (descRun d), count := BitVec.ofNat 32 (descRun d).count, begun := 0, bursts := [] }
      exec (.moverDescFetch ch b) s = .next (if (descRun d).count = 0 then movDone s2 ch (descRun d) false else s2))) ∧
  (∀ (s : State) (ch : Fin 32) (r : MovRun), (s.mov ch).run = some r → (s.mov ch).state = .running → (s.mov ch).bursts.length < 4 →
    (s.mov ch).begun < r.count →
    let p := r.dst + (s.mov ch).begun
    let n := burstLen r.edge (s.mov ch).burstSize p (r.dst + r.count)
    exec (.moverBurstStart ch) s = .next (setMov s ch { s.mov ch with begun := (s.mov ch).begun + n
                                                                      bursts := (s.mov ch).bursts ++ [⟨p, n⟩] })) ∧
  (∀ (s : State) (ch : Fin 32) (b : Bus) (r : MovRun) (x : Burst) (xs : List Burst), (s.mov ch).run = some r →
    (s.mov ch).bursts = x :: xs →
    let s1 := absorbBus s b
    (burstData s1 b r x = none → exec (.moverBurstDone ch b) s = .next (movBad s1 ch r)) ∧
    (∀ d s2, burstData s1 b r x = some d → movWrite s1 r.dstDram x.dst d = (s2, true) →
      let r1 : MovRun := { r with moved := r.moved + x.len }
      let s3 := setMov s2 ch
        { s.mov ch with run := some r1, bursts := xs, count := BitVec.ofNat 32 (r.count - (r.moved + x.len)) }
      exec (.moverBurstDone ch b) s = .next (
        if r.count ≤ r.moved + x.len then movDone s3 ch r1 ((s.mov ch).state == .aborting)
        else if (s.mov ch).state = .aborting then movStop s3 ch true else s3)) ∧
    (∀ d s2, burstData s1 b r x = some d → movWrite s1 r.dstDram x.dst d = (s2, false) →
      exec (.moverBurstDone ch b) s = .next (movBad s1 ch r))) ∧
  (∀ (s : State) (pin : Fin 4), s.calPin ≠ some pin →
    exec (.evtOutEnd pin) s = .next { s with pins := { s.pins with evtOut := putBit s.pins.evtOut pin.val false } })

/-! ## The cascade -/

/-- Cascade ports. Training starts, and starts again, on a port that may train; 16 compatible TRAIN blocks in a row bring the link up, an
incompatible version or role starts the count again, a wrong role logged once. Block lock comes and goes, and a port without block lock or
presence is lost at LEAVE_DETECT. ACK frees what it names and sends what waited; NAK and the replay limit count a replay, and NAK fails the
link at the 17th without an ACK. A credit timer notes what was returned; a CREDIT block takes the new counts and sends what waited. -/
def Obligations.PortResult : Prop :=
  (∀ (s : State) (p : Fin 3), s.mayTrain p = true →
    ∃ t, exec (.portTrain p) s = .next t ∧ exec (.trainRetry p) s = .next t ∧ t.cas.ports[p].training = true ∧ t.cas.ports[p].rxTrain = 0) ∧
  (∀ (s : State) (p : Fin 3) (role version : Byte) (ks : Bool), s.casOn = true → s.cas.ports[p].training = true →
    s.cas.ports[p].blockLock = true →
    (version ≠ 1 ∨ 1 < role.toNat → exec (.train p role version ks) s = .next (modPort s p (fun t => { t with rxTrain := 0 }))) ∧
    (version = 1 → role.toNat ≤ 1 → ¬ (role = 1 ↔ p = 0) ∨ (ks = true ∧ s.keystone = true) →
      exec (.train p role version ks) s = .next (modPort
        (if s.cas.ports[p].roleLogged = true then s else logEvent s logCascade [(0, 1, 1), (1, 1, p.val)]) p
        (fun t => { t with rxTrain := 0, roleLogged := true }))) ∧
    (version = 1 → ¬ (ks = true ∧ s.keystone = true) → (role = 1 ↔ p = 0) → role.toNat ≤ 1 →
      (s.cas.ports[p].rxTrain < 15 → exec (.train p role version ks) s =
        .next (modPort s p (fun t => { t with rxTrain := t.rxTrain + 1 }))) ∧
      (15 ≤ s.cas.ports[p].rxTrain → exec (.train p role version ks) s = .next (portUp s p)))) ∧
  (∀ (s : State) (p : Fin 3), s.casOn = true →
    (∃ t, exec (.blockLockAcquired p) s = .next t ∧ t.cas.ports[p].blockLock = true ∧
      t.cas.ports[p].trained = s.cas.ports[p].trained ∧ ∀ q : Fin 3, q ≠ p → t.cas.ports[q] = s.cas.ports[q]) ∧
    (s.cas.ports[p].blockLock = true → ∃ t, exec (.blockLockLost p) s = .next t ∧ t.cas.ports[p].blockLock = false ∧
      t.cas.ports[p].rxTrain = 0 ∧ t.cas.ports[p].trained = s.cas.ports[p].trained ∧ t.cas.ports[p].lostAt.isSome = true) ∧
    (s.cas.ports[p].blockLock = false ∨ s.pins.present.getLsbD p.val = false →
      exec (.leaveDetect p) s = .next (portLoss s p))) ∧
  (∀ (s : State) (p : Fin 3) (seq : BitVec 12), s.rxOn p = true →
    ((s.cas.ports[p].ackTo seq).length ≠ s.cas.ports[p].replay.length → exec (.ack p seq) s =
      .next (modPort s p (fun t => { t with replay := t.ackTo seq, replays := 0 }.drain [] [] t.waiting))) ∧
    (s.cas.ports[p].replay.any (fun x => x.1 == seq) = true →
      (s.cas.ports[p].replays < 16 → exec (.nak p seq) s = .next (modPort s p (fun t => { t with replays := t.replays + 1 }))) ∧
      (16 ≤ s.cas.ports[p].replays → exec (.nak p seq) s = .next (linkFail s p)))) ∧
  (∀ (s : State) (p : Fin 3), s.casOn = true → s.cas.ports[p].trained = true →
    (s.cas.ports[p].replay ≠ [] → s.cas.ports[p].replays < 16 →
      exec (.replayTimeout p) s = .next (modPort s p (fun t => { t with replays := t.replays + 1 }))) ∧
    exec (.creditTimer p) s = .next (modPort s p (fun t => { t with credSent := t.rxFreed }))) ∧
  (∀ (s : State) (p : Fin 3) (a b c : BitVec 16), s.rxOn p = true → exec (.credit p a b c) s =
    .next (modPort s p (fun t => { t with freed := #v[a, b, c] }.drain [] [] t.waiting)))

/-- Cascade packets. The receiver takes a packet with the next SEQ, a good CRC and no STOMP and acknowledges it; on a CRC error or a gap
ahead it sends a NAK with the SEQ it expects. A packet taken frees its credit; one for another device is relayed, and one for this device
acts by its type: ENUM, ENUM_ACK, ATTEST_REQ, ATTEST_RSP, JOIN, LEAVE, KEYQ, KEYRSP, PULLDATA, COMPL, PULL and RDATA as stated, an ENTRY is
held for admission or, in HALTED or FAILED, answered SC_ABORTED. A malformed packet is dropped. The attestation limit settles the oldest
one as failed. -/
def Obligations.PacketResult : Prop :=
  (∀ (s : State) (p : Fin 3) (rx : Rx), s.rxOn p = true → rx.stomp = false →
    (rx.crcOk = true → rx.seq = s.cas.ports[p].rxSeq → (receive s p rx).2 = true ∧
      (receive s p rx).1.cas.ports[p].rxSeq = s.cas.ports[p].rxSeq + 1 ∧
      (receive s p rx).1.cas.ports[p].linkSent = some (true, rx.seq)) ∧
    (rx.crcOk = false ∨ (1 ≤ (rx.seq - s.cas.ports[p].rxSeq).toNat ∧ (rx.seq - s.cas.ports[p].rxSeq).toNat < 2048) →
      (receive s p rx).2 = false ∧ (receive s p rx).1.cas.ports[p].rxSeq = s.cas.ports[p].rxSeq ∧
      (receive s p rx).1.cas.ports[p].linkSent = some (false, s.cas.ports[p].rxSeq))) ∧
  (∀ (s : State) (p : Fin 3) (rx : Rx), (receive s p rx).2 = true →
    let s1 := freeRx (receive s p rx).1 p rx.pkt
    let mine := s1.forMe p rx.pkt
    (pktOk 0x10 rx.pkt = true → exec (.enum p rx) s = .next (if mine then takeEnum s1 rx.pkt else relay s1 p rx.pkt)) ∧
    (pktOk 0x11 rx.pkt = true → exec (.enumAck p rx) s = .next (if mine then s1 else relay s1 p rx.pkt)) ∧
    (pktOk 0x12 rx.pkt = true → exec (.attestReq p rx) s = .next (if mine then
      sendPort (wakeDomain s1 4) p.val ⟨0x13, 2, true, rx.pkt.src, s1.srcId, rx.pkt.txn, 0, s1.attestation rx.pkt.payload ++ s1.cert⟩
      else relay s1 p rx.pkt)) ∧
    (pktOk 0x13 rx.pkt = true → exec (.attestRsp p rx) s = .next (if mine then
      (match s1.cas.attests.find? (fun a => a.txn == rx.pkt.txn) with
        | some a => settleAttest s1 a (if attestPasses s1 a rx.pkt.payload then some rx.pkt.payload else none)
        | none => s1) else relay s1 p rx.pkt)) ∧
    (pktOk 0x14 rx.pkt = true →
      (mine = false → exec (.join p rx) s = .next (relay s1 p rx.pkt)) ∧
      (mine = true → s1.keystone = false → exec (.join p rx) s = .next s1) ∧
      (∀ d pos, mine = true → s1.keystone = true → fieldAt rx.pkt.payload 0 4 = 1 ∨ fieldAt rx.pkt.payload 0 4 = 2 →
        tget s1.standing rx.pkt.src = some (d, pos) →
        exec (.join p rx) s = .next (joinAt s1 (d + 1) (pos + fieldAt rx.pkt.payload 0 4 * 4 ^ d)))) ∧
    (pktOk 0x15 rx.pkt = true → exec (.leave p rx) s = .next (
      if mine = false then relay s1 p rx.pkt
      else if s1.keystone = true then keystoneLeave s1 (leaveIds rx.pkt)
      else if p = 0 ∧ (leaveIds rx.pkt).contains s1.cas.memberId = true then loseUp s1
      else membersLeft s1 (fun i => (leaveIds rx.pkt).contains i))) ∧
    (pktOk 0x16 rx.pkt = true → exec (.keyq p rx) s = .next (
      if mine = false then relay s1 p rx.pkt
      else if s1.keystone = true then
        sendPkt s1 ⟨0x17, 2, true, rx.pkt.src, s1.srcId, rx.pkt.txn, 0, s1.rosterCert (fieldAt rx.pkt.payload 0 2 % 4096)⟩
      else s1)) ∧
    (pktOk 0x17 rx.pkt = true → exec (.keyrsp p rx) s = .next (if mine then
      (match s1.cas.transfers.find? (fun x => x.txn == rx.pkt.txn && x.cert.isNone) with
        | some tr => transferCert s1 tr rx.pkt.payload
        | none => s1) else relay s1 p rx.pkt)) ∧
    (pktOk 0x03 rx.pkt = true → exec (.pulldata p rx) s = .next (if mine then
      (match s1.cas.transfers.find? (fun x => x.txn == rx.pkt.txn && x.source == rx.pkt.src) with
        | some tr => transferData s1 tr rx.pkt
        | none => entryData s1 rx.pkt) else relay s1 p rx.pkt)) ∧
    (pktOk 0x05 rx.pkt = true → exec (.compl p rx) s = .next (if mine then entryDone s1 rx.pkt else relay s1 p rx.pkt)) ∧
    (pktOk 0x01 rx.pkt = true → let r := (receive s p rx).1
      (r.forMe p rx.pkt = true → r.cas.enumerated = true →
        (r.stopped = false → exec (.entry p rx) s =
          .next { r with cas := { r.cas with entries := r.cas.entries ++ [(p, rx.pkt)] } }) ∧
        (r.stopped = true → exec (.entry p rx) s = .next (answerEntry s1 rx.pkt scAborted))) ∧
      (r.forMe p rx.pkt = false → exec (.entry p rx) s = .next (relay s1 p rx.pkt))) ∧
    (pktOk rx.pkt.type rx.pkt = false → exec (.compl p rx) s = .next s1 ∧ exec (.entry p rx) s = .next s1)) ∧
  (∀ (s : State) (p : Fin 3) (rx : Rx) (b : Bus), (receive (absorbBus s b) p rx).2 = true →
    let s1 := freeRx (receive (absorbBus s b) p rx).1 p rx.pkt
    (pktOk 0x02 rx.pkt = true → exec (.pull p rx b) s = .next (
      if s1.forMe p rx.pkt = false then relay s1 p rx.pkt
      else if 0x80000000 ≤ rx.pkt.txn then transferPull s1 rx.pkt else answerPull s1 b rx.pkt)) ∧
    (pktOk 0x04 rx.pkt = true → exec (.rdata p rx b) s =
      .next (if s1.forMe p rx.pkt then entryRead s1 rx.pkt else relay s1 p rx.pkt))) ∧
  (∀ (s : State) (a : Attest) (rest : List Attest), s.cas.attests = a :: rest → s.casOn = true → s.keystone = true →
    exec .attestTimeout s = .next (settleAttest s a none))

/-! ## The Management Serial Port -/

/-- Management Serial Port. READ_STATUS, READ_ID, READ_OTP and READ_SNAPSHOT answer what they name where CRC and argument are good; a bad
argument answers BAD_ARG, a bad CRC of READ_STATUS BAD_CRC, and a snapshot but number 2 asks for the observe permission and a running core.
OTP words 0x20 to 0x27 read as 0. SET and CLEAR run their order frame, and a bad CRC of SET leaves the requested orders. BURN with a good
CRC needs its permission, a word from 0x48 to 0x5F and no bit cleared; the word is programmed when MSP_CS_N rises after all its clocks,
none of it with no clock, and no other word changes. An unassigned opcode answers BAD_OP. The core applies posted orders that it has not
acknowledged, a disagreement that lasts is recorded, and a due thermometer raise is burned. -/
def Obligations.MspResult : Prop :=
  (∀ (s : State) (arg hcrc : BitVec 16), s.pins.vaon = true →
    let f := endFrame s
    (hcrcOk 0x01 0 [] hcrc = true → exec (.mspReadStatus 0 hcrc) s =
      .next { f with aon := { f.aon with frame := some ⟨none, 0, f.mspStatus⟩ } }) ∧
    (hcrcOk 0x01 arg [] hcrc = false → exec (.mspReadStatus arg hcrc) s =
      .next { f with aon := { f.aon with frame := some ⟨none, 4, List.replicate 8 0⟩ } }) ∧
    (hcrcOk 0x01 arg [] hcrc = true → arg ≠ 0 → exec (.mspReadStatus arg hcrc) s =
      .next { f with aon := { f.aon with frame := some ⟨none, 3, List.replicate 8 0⟩ } }) ∧
    (hcrcOk 0x02 arg [] hcrc = true → arg ≠ 0 → exec (.mspReadId arg hcrc) s =
      .next { f with aon := { f.aon with frame := some ⟨none, 3, List.replicate 24 0⟩ } }) ∧
    (hcrcOk 0x03 arg [] hcrc = true → arg.toNat % 8 ≠ 0 ∨ 0xF8 < arg.toNat → exec (.readOtp arg hcrc) s =
      .next { f with aon := { f.aon with frame := some ⟨none, 3, List.replicate 64 0⟩ } }) ∧
    (hcrcOk 0x10 arg [] hcrc = true → 3 < arg.toNat → exec (.readSnapshot arg hcrc) s =
      .next { f with aon := { f.aon with frame := some ⟨none, 3, List.replicate 32 0⟩ } }) ∧
    (hcrcOk 0x02 0 [] hcrc = true → exec (.mspReadId 0 hcrc) s =
      .next { f with aon := { f.aon with frame := some ⟨none, 0, f.mspId⟩ } }) ∧
    (hcrcOk 0x03 arg [] hcrc = true → arg.toNat % 8 = 0 → arg.toNat ≤ 0xF8 → exec (.readOtp arg hcrc) s =
      .next { f with aon := { f.aon with
        frame := some ⟨none, 0, (List.range 8).flatMap (fun i => leBytes 8 (f.otpShown (arg.toNat + i)).toNat)⟩ } }) ∧
    (hcrcOk 0x10 arg [] hcrc = true → arg.toNat ≤ 3 →
      (arg ≠ 2 → f.mspPolicy.getLsbD 0 = false → exec (.readSnapshot arg hcrc) s = .next (deny f 32)) ∧
      (arg ≠ 2 → f.mspPolicy.getLsbD 0 = true → f.coreOff = true → exec (.readSnapshot arg hcrc) s =
        .next { f with aon := { f.aon with frame := some ⟨none, 1, List.replicate 32 0⟩ } }) ∧
      (arg = 2 ∨ (f.mspPolicy.getLsbD 0 = true ∧ f.coreOff = false) → exec (.readSnapshot arg hcrc) s =
        .next { f with aon := { f.aon with frame := some ⟨none, 0, f.snapshot arg.toNat⟩ } })) ∧
    (∀ op : Byte, op.toNat ∉ [0x01, 0x02, 0x03, 0x10, 0x40, 0x41, 0x60] → hcrcOk op.toNat arg [] hcrc = true →
      exec (.mspBadOp op arg hcrc) s = .next { f with aon := { f.aon with frame := some ⟨none, 6, []⟩ } })) ∧
  (∀ (s : State) (w : Nat), 0x20 ≤ w → w < 0x28 → s.otpShown w = 0) ∧
  (∀ (s : State) (arg : BitVec 16) (payload : Word) (hcrc : BitVec 16), s.pins.vaon = true →
    exec (.orderSet arg payload hcrc) s = .next (orderFrame 0x40 true arg payload hcrc s) ∧
    exec (.orderClear arg payload hcrc) s = .next (orderFrame 0x41 false arg payload hcrc s) ∧
    (hcrcOk 0x40 arg (leBytes 4 payload.toNat) hcrc = false → (orderFrame 0x40 true arg payload hcrc s).aon.reqCh = s.aon.reqCh ∧
      (orderFrame 0x40 true arg payload hcrc s).aon.reqFlags = s.aon.reqFlags)) ∧
  (∀ (s : State) (arg : BitVec 16) (v : DWord) (hcrc : BitVec 16), s.pins.vaon = true →
    let f := endFrame s
    hcrcOk 0x60 arg (leBytes 8 v.toNat) hcrc = true →
    (f.mspPolicy.getLsbD 4 = false → exec (.burn arg v hcrc) s = .next (deny f 0)) ∧
    (f.mspPolicy.getLsbD 4 = true → arg.toNat < 0x48 ∨ 0x5F < arg.toNat → exec (.burn arg v hcrc) s = .next (answer f 3 0 [])) ∧
    (f.mspPolicy.getLsbD 4 = true → 0x48 ≤ arg.toNat → arg.toNat ≤ 0x5F →
      ((f.aon.shadow[arg.toNat]?).getD 0 &&& ~~~v ≠ 0 → exec (.burn arg v hcrc) s = .next (answer f 8 0 [])) ∧
      ((f.aon.shadow[arg.toNat]?).getD 0 &&& ~~~v = 0 → exec (.burn arg v hcrc) s =
        .next { f with aon := { f.aon with frame := some ⟨some (arg.toNat, v), 0, []⟩ } }))) ∧
  (∀ (s : State) (w : Nat) (v : DWord) (st : Nat) (d : List Byte) (clocks : Nat), s.pins.vaon = true → s.aon.frame = some ⟨some (w, v), st, d⟩ →
    w < 256 → ∃ t, exec (.mspCsRise clocks 0) s = .next t ∧
      (clocks = 0 → t.aon.otp = s.aon.otp) ∧
      (2048 ≤ clocks → t.aon.otp[w]? = some ((s.aon.otp[w]?).getD 0 ||| v) ∧ t.aon.shadow[w]? = t.aon.otp[w]?) ∧
      ∀ k, k ≠ w → t.aon.otp[k]? = s.aon.otp[k]?) ∧
  (∀ s : State, s.coreOff = false → s.energy.pfSeq = false → s.aon.ackGen ≠ s.aon.reqGen →
    exec .orderApply s = .next (applyOrders s s.aon.effCh s.aon.effFlags)) ∧
  (∀ s : State, s.disagrees = true →
    exec .disagreeTimeout s = .next { s with aon := { s.aon with disagree := true, disTick := s.gbl.tick } }) ∧
  (∀ (s : State) (fw : Bool), s.gbl.coreOn = true → s.aon.thermDue.getLsbD (if fw = true then 1 else 0) = true → s.pins.pfailN = true →
    s.energy.pfSeq = false → s.aon.frame = none → ∃ t, exec (.thermometerBurn fw) s = .next t ∧
      let w := if fw = true then 0x61 else 0x60
      t.aon.otp[w]? = some ((s.aon.otp[w]?).getD 0 ||| thermWord (s.thermTarget fw)) ∧
      (∀ k, k ≠ w → t.aon.otp[k]? = s.aon.otp[k]?) ∧ t.gbl = s.gbl ∧ t.prot = s.prot)
end

