-- ==== Sys2Proof/Laws/Memory.lean ====
section
/-! SUPPORT. The laws of keyed tables and byte memory: read after write, a write leaves every other address alone, and the canonical form is
kept (log 1). -/

namespace Sys2Proof.Machine

/-- Keys rise strictly. -/
def Rising {α : Type} (t : Tbl α) : Prop := t.Pairwise (fun a b => a.1 < b.1)

theorem tsorted_iff {α : Type} (t : Tbl α) : tsorted t = true ↔ Rising t := by
  induction t with
  | nil => simp [tsorted, Rising]
  | cons a r ih =>
    cases r with
    | nil => simp [tsorted, Rising]
    | cons b r =>
      simp only [tsorted, Bool.and_eq_true, decide_eq_true_eq, ih]
      unfold Rising
      constructor
      · rintro ⟨h, k⟩
        refine List.pairwise_cons.2 ⟨fun c hc => ?_, k⟩
        rcases List.mem_cons.1 hc with rfl | hc
        · exact h
        · exact h.trans ((List.pairwise_cons.1 k).1 c hc)
      · intro h
        have h2 := List.pairwise_cons.1 h
        exact ⟨h2.1 b List.mem_cons_self, h2.2⟩

@[simp] theorem tget_tput_self {α : Type} (t : Tbl α) (k : Nat) (v : α) : tget (tput t k v) k = some v := by
  induction t with
  | nil => simp [tput, tget]
  | cons a r ih =>
    obtain ⟨a, x⟩ := a
    simp only [tput]
    split
    · simp [tget]
    · split
      · simp [tget]
      · rename_i h1 h2
        simp [tget, Ne.symm h2, ih]

theorem tget_tput_ne {α : Type} (t : Tbl α) (k j : Nat) (v : α) (h : j ≠ k) : tget (tput t k v) j = tget t j := by
  induction t with
  | nil => simp [tput, tget, Ne.symm h]
  | cons a r ih =>
    obtain ⟨a, x⟩ := a
    simp only [tput]
    split
    · simp [tget, Ne.symm h]
    · split
      · rename_i h1 h2
        simp [tget, ← h2, Ne.symm h]
      · simp [tget, ih]

theorem tdel_cons {α : Type} (a : Nat) (x : α) (r : Tbl α) (k : Nat) :
    tdel ((a, x) :: r) k = if a = k then tdel r k else (a, x) :: tdel r k := by
  unfold tdel
  by_cases e : a = k <;> simp [e]

theorem tget_tdel_ne {α : Type} (t : Tbl α) (k j : Nat) (h : j ≠ k) : tget (tdel t k) j = tget t j := by
  induction t with
  | nil => rfl
  | cons a r ih =>
    obtain ⟨a, x⟩ := a
    rw [tdel_cons]
    split
    · rename_i e
      rw [ih, tget, if_neg (fun c => h (c.symm.trans e))]
    · rw [tget, tget, ih]

@[simp] theorem tget_tdel_self {α : Type} (t : Tbl α) (k : Nat) : tget (tdel t k) k = none := by
  induction t with
  | nil => rfl
  | cons a r ih =>
    obtain ⟨a, x⟩ := a
    rw [tdel_cons]
    split
    · exact ih
    · rename_i e
      rw [tget, if_neg e, ih]

theorem mem_tput {α : Type} {t : Tbl α} {k : Nat} {v : α} {c : Nat × α} (h : c ∈ tput t k v) : c = (k, v) ∨ c ∈ t := by
  induction t with
  | nil => simpa [tput] using h
  | cons a r ih =>
    obtain ⟨a, x⟩ := a
    simp only [tput] at h
    split at h
    · rcases List.mem_cons.1 h with h | h
      · exact .inl h
      · exact .inr h
    · split at h
      · rcases List.mem_cons.1 h with h | h
        · exact .inl h
        · exact .inr (List.mem_cons_of_mem _ h)
      · rcases List.mem_cons.1 h with h | h
        · exact .inr (h ▸ List.mem_cons_self)
        · rcases ih h with h | h
          · exact .inl h
          · exact .inr (List.mem_cons_of_mem _ h)

theorem rising_tput {α : Type} (t : Tbl α) (k : Nat) (v : α) (h : Rising t) : Rising (tput t k v) := by
  induction t with
  | nil => simp [tput, Rising]
  | cons a r ih =>
    obtain ⟨a, x⟩ := a
    have h2 := List.pairwise_cons.1 h
    simp only [tput]
    split
    · rename_i hk
      refine List.pairwise_cons.2 ⟨fun c hc => ?_, h⟩
      rcases List.mem_cons.1 hc with rfl | hc
      · exact hk
      · exact hk.trans (h2.1 c hc)
    · split
      · rename_i h1 e
        subst e
        exact List.pairwise_cons.2 ⟨h2.1, h2.2⟩
      · rename_i h1 e
        refine List.pairwise_cons.2 ⟨fun c hc => ?_, ih h2.2⟩
        rcases mem_tput hc with rfl | hc
        · simp only; omega
        · exact h2.1 c hc

theorem rising_tdel {α : Type} (t : Tbl α) (k : Nat) (h : Rising t) : Rising (tdel t k) :=
  List.Pairwise.sublist List.filter_sublist h

/-- A write keeps the canonical form. -/
theorem memWf_memWrite (m : Mem) (a : Nat) (b : Byte) (h : memWf m = true) : memWf (memWrite m a b) = true := by
  simp only [memWf, Bool.and_eq_true, tsorted_iff, List.all_eq_true] at h ⊢
  unfold memWrite
  split
  · exact ⟨rising_tdel _ _ h.1, fun c hc => h.2 c (List.mem_filter.1 hc).1⟩
  · rename_i hb
    refine ⟨rising_tput _ _ _ h.1, fun c hc => ?_⟩
    rcases mem_tput hc with rfl | hc
    · simpa using hb
    · exact h.2 c hc

theorem memWf_memWriteL (m : Mem) (a : Nat) (bs : List Byte) (h : memWf m = true) : memWf (memWriteL m a bs) = true := by
  induction bs generalizing m a with
  | nil => exact h
  | cons b bs ih => exact ih _ _ (memWf_memWrite _ _ _ h)

/-- A read after a write to the same address gives the byte written. -/
@[simp] theorem memRead_memWrite_self (m : Mem) (a : Nat) (b : Byte) : memRead (memWrite m a b) a = b := by
  unfold memRead memWrite
  split
  · rename_i h
    simp [h]
  · simp

/-- A write leaves every other address alone. -/
theorem memRead_memWrite_ne (m : Mem) (a c : Nat) (b : Byte) (h : c ≠ a) : memRead (memWrite m a b) c = memRead m c := by
  unfold memRead memWrite
  split
  · rw [tget_tdel_ne _ _ _ h]
  · rw [tget_tput_ne _ _ _ _ h]

theorem memRead_memWriteL_ne (m : Mem) (a : Nat) (bs : List Byte) (c : Nat) (h : c < a ∨ a + bs.length ≤ c) :
    memRead (memWriteL m a bs) c = memRead m c := by
  induction bs generalizing m a with
  | nil => rfl
  | cons b bs ih =>
    simp only [List.length_cons] at h
    rw [memWriteL, ih _ _ (by omega), memRead_memWrite_ne _ _ _ _ (by omega)]

theorem memReadN_memWriteL (m : Mem) (a : Nat) (bs : List Byte) : memReadN (memWriteL m a bs) a bs.length = bs := by
  induction bs generalizing m a with
  | nil => rfl
  | cons b bs ih =>
    rw [memWriteL, List.length_cons, memReadN, ih, memRead_memWriteL_ne _ _ _ _ (by omega), memRead_memWrite_self]

end Sys2Proof.Machine
end

