-- ==== Sys2Proof/Laws/Stays.lean ====
section
/-! SUPPORT. What every operation of the model keeps: the queue of commands, the one-time bits of the OTP array, the canonical form of the
two memories, the bound of the error log, the first halt cause, and LOCK with what it protects. `Stays r s` says that `s` has kept
these since `r`; the lemmas about the operations stand in the files beside this one. -/

namespace Sys2Proof.Machine

/-- Every OTP bit that was programmed is programmed still (R672). -/
def AonStays (a b : Aon) : Prop := ∀ i : Fin 256, a.otp[i] &&& b.otp[i] = a.otp[i]

/-- A cause once recorded stays, and so does LOCK (R168, R171). -/
def GblStays (a b : Gbl) : Prop := (a.halt.cause ≠ 0 → b.halt = a.halt) ∧ (a.lock = true → b.lock = true)

/-- The registers that LOCK protects: masks, policy, retention floor, DRAM window (R171). -/
def Prot.rwl (p : Prot) : Tbl Word × BitVec 11 × BitVec 16 × BitVec 13 := (p.qpart, p.policy, p.retainMin, p.phbWin)

/-- The error log keeps its bound, and sequence numbers only grow (R687). -/
def LogStays (a b : Log) : Prop := (a.entries.length ≤ 4096 → b.entries.length ≤ 4096) ∧ a.nextSeq ≤ b.nextSeq

/-- FAILED, HALTED and a power-fail sequence that began last until a reset (R18, R257, R396). -/
def StopStays (s t : State) : Prop :=
  (s.gbl.failed = true → t.gbl.failed = true) ∧ (s.gbl.halted = true → t.gbl.halted = true) ∧
  (s.energy.pfSeq = true → t.energy.pfSeq = true)

/-- What an operation outside the resets keeps. -/
structure Stays (s t : State) : Prop where
  pending : t.pending = s.pending
  aon : AonStays s.aon t.aon
  gbl : GblStays s.gbl t.gbl
  prot : s.gbl.lock = true → t.prot.rwl = s.prot.rwl
  host : memWf s.host = true → memWf t.host = true
  dram : memWf s.dram = true → memWf t.dram = true
  log : LogStays s.log t.log
  stop : StopStays s t

theorem AonStays.refl (a : Aon) : AonStays a a := fun _ => BitVec.and_self
theorem GblStays.refl (a : Gbl) : GblStays a a := ⟨fun _ => rfl, fun h => h⟩
theorem LogStays.refl (a : Log) : LogStays a a := ⟨fun h => h, Nat.le_refl _⟩

theorem StopStays.refl (s : State) : StopStays s s := ⟨id, id, id⟩

theorem Stays.refl (s : State) : Stays s s :=
  ⟨rfl, AonStays.refl _, GblStays.refl _, fun _ => rfl, id, id, LogStays.refl _, StopStays.refl _⟩

theorem AonStays.trans {a b c : Aon} (h : AonStays a b) (k : AonStays b c) : AonStays a c := by
  intro i
  have h1 := h i
  have h2 := k i
  rw [← h1, BitVec.and_assoc, h2]

theorem GblStays.trans {a b c : Gbl} (h : GblStays a b) (k : GblStays b c) : GblStays a c := by
  refine ⟨fun n => ?_, fun n => k.2 (h.2 n)⟩
  have e := h.1 n
  rw [k.1 (by rw [e]; exact n), e]

theorem LogStays.trans {a b c : Log} (h : LogStays a b) (k : LogStays b c) : LogStays a c :=
  ⟨fun x => k.1 (h.1 x), h.2.trans k.2⟩

theorem Stays.trans {a b c : State} (h : Stays a b) (k : Stays b c) : Stays a c :=
  ⟨k.pending.trans h.pending, h.aon.trans k.aon, h.gbl.trans k.gbl, fun l => (k.prot (h.gbl.2 l)).trans (h.prot l),
   fun x => k.host (h.host x), fun x => k.dram (h.dram x), h.log.trans k.log,
   fun x => k.stop.1 (h.stop.1 x), fun x => k.stop.2.1 (h.stop.2.1 x), fun x => k.stop.2.2 (h.stop.2.2 x)⟩

/-- An update of other fields, or one that keeps what counts of the always-on logic, the global and protection registers and the log. -/
theorem Stays.upd {r t : State} {pins aon gbl prot adm pwr doms pcie log queues parts stage streams energy sys media hmap cal micro mover
    cas free} (h : Stays r t) (ha : AonStays t.aon aon) (hg : GblStays t.gbl gbl) (hp : prot.rwl = t.prot.rwl)
    (hl : LogStays t.log log) (hf : t.gbl.failed = true → gbl.failed = true) (hh : t.gbl.halted = true → gbl.halted = true)
    (he : t.energy.pfSeq = true → energy.pfSeq = true) :
    Stays r (State.mk pins aon gbl prot adm pwr doms pcie log queues t.host t.dram parts stage streams energy sys media hmap cal micro
      mover cas free t.pending) :=
  h.trans ⟨rfl, ha, hg, fun _ => hp, id, id, hl, hf, hh, he⟩

/-- An update that leaves the OTP array, the halt cause, LOCK, what it protects, and the log's entries as they are, and ends no stop. -/
theorem Stays.rise {r t : State} {pins aon gbl prot adm pwr doms pcie log queues parts stage streams energy sys media hmap cal micro mover
    cas free} (h : Stays r t) (ho : aon.otp = t.aon.otp) (hh : gbl.halt = t.gbl.halt) (hk : gbl.lock = t.gbl.lock)
    (hp : prot.rwl = t.prot.rwl) (he : log.entries = t.log.entries) (hs : log.nextSeq = t.log.nextSeq)
    (h1 : t.gbl.failed = true → gbl.failed = true) (h2 : t.gbl.halted = true → gbl.halted = true)
    (h3 : t.energy.pfSeq = true → energy.pfSeq = true) :
    Stays r (State.mk pins aon gbl prot adm pwr doms pcie log queues t.host t.dram parts stage streams energy sys media hmap cal micro
      mover cas free t.pending) := by
  refine Stays.upd h (fun i => ?_) ⟨fun _ => hh, fun l => hk.trans l⟩ hp ⟨fun b => ?_, Nat.le_of_eq hs.symm⟩ h1 h2 h3
  · rw [ho]
    exact BitVec.and_self
  · rw [he]
    exact b

/-- The same where no stop begins. -/
theorem Stays.same {r t : State} {pins aon gbl prot adm pwr doms pcie log queues parts stage streams energy sys media hmap cal micro mover
    cas free} (h : Stays r t) (ho : aon.otp = t.aon.otp) (hh : gbl.halt = t.gbl.halt) (hk : gbl.lock = t.gbl.lock)
    (hp : prot.rwl = t.prot.rwl) (he : log.entries = t.log.entries) (hs : log.nextSeq = t.log.nextSeq)
    (h1 : gbl.failed = t.gbl.failed) (h2 : gbl.halted = t.gbl.halted) (h3 : energy.pfSeq = t.energy.pfSeq) :
    Stays r (State.mk pins aon gbl prot adm pwr doms pcie log queues t.host t.dram parts stage streams energy sys media hmap cal micro
      mover cas free t.pending) :=
  Stays.rise h ho hh hk hp he hs h1.trans h2.trans h3.trans

/-- Burning bits of one word of the OTP array: bits only go from 0 to 1 (R672). -/
theorem AonStays.burn {a b : Aon} (w : Nat) (x : DWord) (h : b.otp = a.otp.setIfInBounds w (a.otp[w]?.getD 0 ||| x)) :
    AonStays a b := by
  intro i
  rw [h]
  by_cases e : w = i.val
  · subst e
    simp
    ext k hk
    simp
    intro h1
    simp [h1]
  · simp [Vector.getElem_setIfInBounds, e]

theorem Stays.burn {r t : State} (w : Nat) (x : DWord) {pins aon gbl prot adm pwr doms pcie log queues parts stage streams energy sys media
    hmap cal micro mover cas free} (h : Stays r t) (ho : aon.otp = t.aon.otp.setIfInBounds w (t.aon.otp[w]?.getD 0 ||| x))
    (hh : gbl.halt = t.gbl.halt) (hk : gbl.lock = t.gbl.lock) (hp : prot.rwl = t.prot.rwl) (he : log = t.log)
    (h1 : gbl.failed = t.gbl.failed) (h2 : gbl.halted = t.gbl.halted) (h3 : energy.pfSeq = t.energy.pfSeq) :
    Stays r (State.mk pins aon gbl prot adm pwr doms pcie log queues t.host t.dram parts stage streams energy sys media hmap cal micro
      mover cas free t.pending) := by
  refine Stays.upd h (.burn w x ho) ⟨fun _ => hh, fun l => hk.trans l⟩ hp ?_ h1.trans h2.trans h3.trans
  rw [he]
  exact .refl _

/-- While LOCK is clear it may be set, and what it protects may be written (R171). -/
theorem Stays.unlocked {r t : State} {pins aon gbl prot adm pwr doms pcie log queues parts stage streams energy sys media hmap cal micro
    mover cas free} (h : Stays r t) (hu : ¬t.gbl.lock = true) (ho : aon.otp = t.aon.otp) (hh : gbl.halt = t.gbl.halt) (he : log = t.log)
    (h1 : gbl.failed = t.gbl.failed) (h2 : gbl.halted = t.gbl.halted) (h3 : energy.pfSeq = t.energy.pfSeq) :
    Stays r (State.mk pins aon gbl prot adm pwr doms pcie log queues t.host t.dram parts stage streams energy sys media hmap cal micro
      mover cas free t.pending) := by
  have hr : ¬r.gbl.lock = true := fun l => hu (h.gbl.2 l)
  refine ⟨h.pending, h.aon.trans fun i => ?_, ⟨fun n => hh.trans (h.gbl.1 n), fun l => absurd l hr⟩, fun l => absurd l hr, h.host, h.dram, ?_,
    fun x => h1.trans (h.stop.1 x), fun x => h2.trans (h.stop.2.1 x), fun x => h3.trans (h.stop.2.2 x)⟩
  · rw [ho]
    exact BitVec.and_self
  · rw [he]
    exact h.log

theorem Stays.foldl {α : Type} {r : State} (f : State → α → State) (l : List α) {s : State} (h : Stays r s)
    (step : ∀ t x, Stays r t → Stays r (f t x)) : Stays r (l.foldl f s) := by
  induction l generalizing s with
  | nil => exact h
  | cons x l ih => exact ih (step s x h)

theorem Stays.ite {r s t : State} {c : Prop} [Decidable c] (h : Stays r s) (k : Stays r t) : Stays r (if c then s else t) := by
  split
  · exact h
  · exact k

/-- The same of an operation that also answers a value. -/
def PairStays {α : Type} (r : State) (p : State × α) : Prop := Stays r p.1

theorem PairStays.mk {α : Type} {r s : State} {a : α} (h : Stays r s) : PairStays r (s, a) := h
theorem PairStays.mk_iff {α : Type} {r s : State} {a : α} : PairStays r (s, a) ↔ Stays r s := Iff.rfl
theorem PairStays.fst {α : Type} {r : State} {p : State × α} (h : PairStays r p) : Stays r p.1 := h
theorem PairStays.eq {α : Type} {r s : State} {a : α} {p : State × α} (e : p = (s, a)) (h : PairStays r p) : Stays r s := by
  rw [e] at h
  exact h

theorem PairStays.foldl {α β : Type} {r : State} (f : State × β → α → State × β) (l : List α) {p : State × β} (h : PairStays r p)
    (step : ∀ t x, PairStays r t → PairStays r (f t x)) : PairStays r (l.foldl f p) := by
  induction l generalizing p with
  | nil => exact h
  | cons x l ih => exact ih (step p x h)

/-- The same of an operation that may be refused. -/
def OptStays (r : State) (o : Option State) : Prop := ∀ t, o = some t → Stays r t

theorem OptStays.none {r : State} : OptStays r none := fun _ e => nomatch e
theorem OptStays.some {r s : State} (h : Stays r s) : OptStays r (some s) := by
  intro t e
  cases e
  exact h
theorem OptStays.eq {r s : State} {o : Option State} (e : o = .some s) (h : OptStays r o) : Stays r s := h s e
theorem OptStays.getD {r s : State} {o : Option State} (k : OptStays r o) (h : Stays r s) : Stays r (o.getD s) := by
  cases o with
  | none => exact h
  | some t => exact k t rfl

theorem OptStays.map {r : State} {o : Option State} {f : State → State} (h : OptStays r o) (k : ∀ t, Stays r t → Stays r (f t)) :
    OptStays r (o.map f) := by
  cases o with
  | none => exact .none
  | some t => exact .some (k t (h t rfl))

theorem OptStays.bind {r : State} {o : Option State} {f : State → Option State} (h : OptStays r o)
    (k : ∀ t, Stays r t → OptStays r (f t)) : OptStays r (o.bind f) := by
  cases o with
  | none => exact .none
  | some t => exact k t (h t rfl)

theorem OptStays.foldl {α : Type} {r : State} (f : Option State → α → Option State) (l : List α) {o : Option State} (h : OptStays r o)
    (step : ∀ t x, OptStays r t → OptStays r (f t x)) : OptStays r (l.foldl f o) := by
  induction l generalizing o with
  | nil => exact h
  | cons x l ih => exact ih (step o x h)

/-- The same of an operation that may be refused and also answers a value. -/
def OptPairStays {α : Type} (r : State) (o : Option (State × α)) : Prop := ∀ t a, o = some (t, a) → Stays r t

theorem OptPairStays.none {α : Type} {r : State} : OptPairStays r (none : Option (State × α)) := fun _ _ e => nomatch e
theorem OptPairStays.some {α : Type} {r s : State} {a : α} (h : Stays r s) : OptPairStays r (some (s, a)) := by
  intro t b e
  cases e
  exact h
theorem OptPairStays.eq {α : Type} {r s : State} {a : α} {o : Option (State × α)} (e : o = .some (s, a)) (h : OptPairStays r o) :
    Stays r s := h s a e

/-- The same of an operation that goes on, or ends and also answers a value. -/
def SumStays {α : Type} (r : State) (x : State ⊕ (State × α)) : Prop := (∀ t, x = .inl t → Stays r t) ∧ (∀ t a, x = .inr (t, a) → Stays r t)

theorem SumStays.inl {α : Type} {r s : State} (h : Stays r s) : SumStays r (.inl s : State ⊕ (State × α)) := by
  refine ⟨fun t e => ?_, fun t a e => nomatch e⟩
  cases e
  exact h
theorem SumStays.inr {α : Type} {r s : State} {a : α} (h : Stays r s) : SumStays r (.inr (s, a)) := by
  refine ⟨fun t e => (nomatch e), fun t b e => ?_⟩
  cases e
  exact h
theorem SumStays.eqInl {α : Type} {r s : State} {x : State ⊕ (State × α)} (e : x = .inl s) (h : SumStays r x) : Stays r s := h.1 s e
theorem SumStays.eqInr {α : Type} {r s : State} {a : α} {x : State ⊕ (State × α)} (e : x = .inr (s, a)) (h : SumStays r x) : Stays r s := h.2 s a e

/-- Every next state of an outcome has kept what counts since `r`. -/
def NextStays (r : State) (o : Host.Outcome State Fault Refusal) : Prop := ∀ t, o = .next t → Stays r t

theorem NextStays.next {r t : State} (h : Stays r t) : NextStays r (.next t) := by
  intro u e
  cases e
  exact h

end Sys2Proof.Machine
end

