-- ==== Sys2Proof/Laws/StaysOps.lean ====
section
/-! SUPPORT. `Stays` for the operations and commands of shared operations, the seal, the geometry and placement: one lemma an operation, from which the
invariants that every command outside the resets keeps follow by cases. -/

namespace Sys2Proof.Machine

/-! ### Ops -/

theorem wakeDomain_stays {ρ s : State} (hρ : Stays ρ s) (d : Nat) : Stays ρ (wakeDomain s d) := by
  unfold wakeDomain
  repeat' first
    | with_reducible assumption | extract_lets | split | with_reducible refine Stays.same ?_ rfl rfl rfl rfl rfl rfl rfl rfl rfl

theorem memWf_foldl_memWrite (l : List (Nat × Byte)) (m : Mem) (h : memWf m = true) :
    memWf (l.foldl (fun m x => memWrite m x.1 x.2) m) = true := by
  induction l generalizing m with
  | nil => exact h
  | cons x l ih => exact ih _ (memWf_memWrite _ _ _ h)

theorem memWf_winStore (s : State) (d : Mem) (w : List (Nat × Byte)) (h : memWf d = true) : memWf (winStore s d w) = true := by
  unfold winStore
  induction w generalizing d with
  | nil => exact h
  | cons x w ih =>
    refine ih _ ?_
    beta_reduce
    split
    · exact memWf_memWrite _ _ _ h
    · exact h

theorem absorbBus_stays {ρ s0 : State} (hρ : Stays ρ s0) (b : Bus) : Stays ρ (absorbBus s0 b) := by
  refine (wakeDomain_stays hρ 3).trans ?_
  unfold absorbBus
  extract_lets s
  split
  · exact ⟨rfl, AonStays.refl _, GblStays.refl _, fun _ => rfl, id, fun h => memWf_winStore _ _ _ (memWf_winStore _ _ _ h), LogStays.refl _, StopStays.refl _⟩
  · exact ⟨rfl, AonStays.refl _, GblStays.refl _, fun _ => rfl, memWf_foldl_memWrite _ _, memWf_winStore _ _ _, LogStays.refl _, StopStays.refl _⟩

theorem countBus_stays {ρ s : State} (hρ : Stays ρ s) : Stays ρ (countBus s) := by
  unfold countBus
  repeat' first
    | with_reducible assumption | extract_lets | split | with_reducible refine Stays.same ?_ rfl rfl rfl rfl rfl rfl rfl rfl rfl

theorem dramPut_stays {ρ s : State} (hρ : Stays ρ s) (m : Mem) (h : memWf s.dram = true → memWf m = true) :
    Stays ρ { s with dram := m } :=
  hρ.trans ⟨rfl, AonStays.refl _, GblStays.refl _, fun _ => rfl, id, h, LogStays.refl _, StopStays.refl _⟩

theorem wakeDomain_dram (s : State) (d : Nat) : (wakeDomain s d).dram = s.dram := by
  unfold wakeDomain
  repeat' first | rfl | split

theorem shWrite_stays {ρ s : State} (hρ : Stays ρ s) (a : Nat) (bs : List Byte) : Stays ρ (shWrite s a bs) := by
  unfold shWrite
  split
  · exact hρ
  · split
    · split
      · exact dramPut_stays (wakeDomain_stays hρ 3) _ (fun h => memWf_memWriteL _ _ _ (by rwa [wakeDomain_dram] at h))
      · exact countBus_stays hρ
    · exact hρ.trans ⟨rfl, AonStays.refl _, GblStays.refl _, fun _ => rfl, memWf_memWriteL _ _ _, id, LogStays.refl _, StopStays.refl _⟩

theorem dramWriteL_stays {ρ s : State} (hρ : Stays ρ s) (a : Nat) (bs : List Byte) : PairStays ρ (dramWriteL s a bs) := by
  show Stays ρ _
  unfold dramWriteL
  split
  · exact dramPut_stays (wakeDomain_stays hρ 3) _ (fun h => memWf_memWriteL _ _ _ (by rwa [wakeDomain_dram] at h))
  · exact hρ

theorem scatter_stays {ρ s : State} (hρ : Stays ρ s) (a0 : List Seg) (a1 : List Byte) : PairStays ρ (scatter s a0 a1) := by
  induction a0 generalizing s a1 with
  | nil =>
    rw [scatter]
    exact .mk hρ
  | cons g gs ih =>
    rw [scatter]
    extract_lets r
    have hr : PairStays ρ r := dramWriteL_stays hρ _ _
    clear_value r
    split
    · exact .mk hρ
    · split
      · exact ih hρ _
      · split
        · split
          · exact ih hr.fst _
          · exact .mk hr.fst
        · split
          · exact .mk hρ
          · exact ih (shWrite_stays hρ _ _) _

theorem spoilSeg_stays {ρ s : State} (hρ : Stays ρ s) (g : Seg) : Stays ρ (spoilSeg s g) := by
  unfold spoilSeg
  repeat' first
    | with_reducible assumption | extract_lets | with_reducible apply dramWriteL_stays | with_reducible apply shWrite_stays
    | simp only [PairStays.mk_iff] | with_reducible apply PairStays.fst | with_reducible refine PairStays.eq (by assumption) ?_ | split
    | with_reducible apply Stays.ite | with_reducible refine Stays.same ?_ rfl rfl rfl rfl rfl rfl rfl rfl rfl

theorem spoil_stays {ρ s : State} (hρ : Stays ρ s) (segs : List Seg) : Stays ρ (spoil s segs) := by
  unfold spoil
  repeat' first
    | with_reducible assumption | extract_lets | with_reducible apply spoilSeg_stays | with_reducible apply Stays.foldl | split
    | (intro _; intros; beta_reduce)

theorem sendVector_stays {ρ s : State} (hρ : Stays ρ s) (v : Nat) : Stays ρ (sendVector s v) := by
  unfold sendVector
  repeat' first
    | with_reducible assumption | extract_lets | split | with_reducible refine Stays.same ?_ rfl rfl rfl rfl rfl rfl rfl rfl rfl

theorem setIrq_stays {ρ s : State} (hρ : Stays ρ s) (bits : BitVec 13) : Stays ρ (setIrq s bits) := by
  unfold setIrq
  repeat' first
    | with_reducible assumption | extract_lets | with_reducible apply sendVector_stays | split
    | with_reducible refine Stays.same ?_ rfl rfl rfl rfl rfl rfl rfl rfl rfl

theorem noteGen_stays {ρ s : State} (hρ : Stays ρ s) (page : Nat) : Stays ρ (noteGen s page) := by
  unfold noteGen
  repeat' first
    | with_reducible assumption | extract_lets | split | with_reducible refine Stays.same ?_ rfl rfl rfl rfl rfl rfl rfl rfl rfl

theorem logAdd_stays (l : Log) (e : LogEntry) : LogStays l (l.add e) := by
  refine ⟨fun h => ?_, Nat.le_succ _⟩
  show (if (l.entries ++ [{ e with seq := l.nextSeq }]).length > 4096 then (l.entries ++ [{ e with seq := l.nextSeq }]).drop 1
    else l.entries ++ [{ e with seq := l.nextSeq }]).length ≤ 4096
  split
  · simp only [List.length_drop, List.length_append, List.length_singleton] at *
    omega
  · omega

theorem logEvent_stays {ρ s : State} (hρ : Stays ρ s) (type : Nat) (fs : List (Nat × Nat × Nat)) : Stays ρ (logEvent s type fs) := by
  unfold logEvent
  extract_lets e
  split
  · exact hρ
  · split
    · exact Stays.upd hρ (AonStays.refl _) (GblStays.refl _) rfl (LogStays.refl _) id id id
    · exact setIrq_stays (Stays.upd hρ (AonStays.refl _) (GblStays.refl _) rfl (logAdd_stays _ _) id id id) _

theorem refresh_stays {ρ s : State} (hρ : Stays ρ s) : Stays ρ (refresh s) := by
  unfold refresh
  repeat' first
    | with_reducible assumption | extract_lets | with_reducible apply setIrq_stays | with_reducible apply noteGen_stays | split
    | with_reducible refine Stays.same ?_ rfl rfl rfl rfl rfl rfl rfl rfl rfl

theorem recordCause_stays {ρ s : State} (hρ : Stays ρ s) (cause : BitVec 8) (detail : Nat) : Stays ρ (recordCause s cause detail) := by
  unfold recordCause
  extract_lets first s1
  refine logEvent_stays ?_ _ _
  show Stays ρ (if (s.gbl.halt.cause == 0) = true then _ else _)
  split
  · rename_i h
    exact Stays.upd hρ (AonStays.refl _) ⟨fun n => absurd (by simpa using h) n, fun h => h⟩ rfl (LogStays.refl _) id id id
  · exact hρ

theorem violation_stays {ρ s : State} (hρ : Stays ρ s) (offset : Nat) : Stays ρ (violation s offset) := by
  unfold violation
  repeat' first
    | with_reducible assumption | extract_lets | with_reducible apply setIrq_stays | split
    | with_reducible refine Stays.same ?_ rfl rfl rfl rfl rfl rfl rfl rfl rfl

theorem sendPort_stays {ρ s : State} (hρ : Stays ρ s) (n : Nat) (p : Packet) : Stays ρ (sendPort s n p) := by
  unfold sendPort
  repeat' first
    | with_reducible assumption | extract_lets | split | with_reducible refine Stays.same ?_ rfl rfl rfl rfl rfl rfl rfl rfl rfl

theorem sendPkt_stays {ρ s : State} (hρ : Stays ρ s) (p : Packet) : Stays ρ (sendPkt s p) := by
  unfold sendPkt
  repeat' first
    | with_reducible assumption | extract_lets | with_reducible apply sendPort_stays | split
    | with_reducible refine Stays.same ?_ rfl rfl rfl rfl rfl rfl rfl rfl rfl

theorem setJob_stays {ρ s : State} (hρ : Stays ρ s) (j : Job) : Stays ρ (setJob s j) := by
  unfold setJob
  repeat' first
    | with_reducible assumption | extract_lets | split | (intro _; intros; beta_reduce)
    | with_reducible refine Stays.same ?_ rfl rfl rfl rfl rfl rfl rfl rfl rfl

theorem modQueue_stays {ρ s : State} (hρ : Stays ρ s) (q : Nat) (f : Queue → Queue) : Stays ρ (modQueue s q f) := by
  unfold modQueue
  repeat' first
    | with_reducible assumption | extract_lets | split | with_reducible refine Stays.same ?_ rfl rfl rfl rfl rfl rfl rfl rfl rfl

theorem writeShadow_stays {ρ s : State} (hρ : Stays ρ s) (q : Nat) : Stays ρ (writeShadow s q) := by
  unfold writeShadow
  repeat' first
    | with_reducible assumption | extract_lets | with_reducible apply shWrite_stays | with_reducible apply modQueue_stays | split
    | (intro _; intros; beta_reduce) | with_reducible refine Stays.same ?_ rfl rfl rfl rfl rfl rfl rfl rfl rfl

theorem signalQueue_stays {ρ s : State} (hρ : Stays ρ s) (q : Nat) : Stays ρ (signalQueue s q) := by
  unfold signalQueue
  repeat' first
    | with_reducible assumption | extract_lets | with_reducible apply writeShadow_stays | with_reducible apply modQueue_stays
    | with_reducible apply sendVector_stays | split | (intro _; intros; beta_reduce)
    | with_reducible refine Stays.same ?_ rfl rfl rfl rfl rfl rfl rfl rfl rfl

theorem markDone_stays {ρ s : State} (hρ : Stays ρ s) (q : Nat) (c : Word) (status : Nat) : Stays ρ (markDone s q c status) := by
  unfold markDone
  repeat' first
    | with_reducible assumption | extract_lets | with_reducible apply modQueue_stays | with_reducible apply setIrq_stays
    | with_reducible apply writeShadow_stays | with_reducible apply signalQueue_stays | split | (intro _; intros; beta_reduce)
    | with_reducible refine Stays.same ?_ rfl rfl rfl rfl rfl rfl rfl rfl rfl

theorem ringQueue_stays {ρ s : State} (hρ : Stays ρ s) (q : Nat) : Stays ρ (ringQueue s q) := by
  unfold ringQueue
  repeat' first
    | with_reducible assumption | extract_lets | with_reducible apply modQueue_stays | split | (intro _; intros; beta_reduce)
    | with_reducible refine Stays.same ?_ rfl rfl rfl rfl rfl rfl rfl rfl rfl

theorem logCmd_stays {ρ s : State} (hρ : Stays ρ s) (j : Job) (c : Compl) (detail : Nat) : Stays ρ (logCmd s j c detail) := by
  unfold logCmd
  repeat' first
    | with_reducible assumption | extract_lets | with_reducible apply logEvent_stays | split

theorem postRecord_stays {ρ s : State} (hρ : Stays ρ s) (j : Job) (c : Compl) (logged : Bool) : Stays ρ (postRecord s j c logged) := by
  unfold postRecord
  repeat' first
    | with_reducible assumption | extract_lets | with_reducible apply sendPkt_stays | with_reducible apply shWrite_stays
    | with_reducible apply markDone_stays | split | (intro _; intros; beta_reduce)
    | with_reducible refine Stays.same ?_ rfl rfl rfl rfl rfl rfl rfl rfl rfl

theorem complete_stays {ρ s : State} (hρ : Stays ρ s) (j : Job) (c : Compl) (detail : Nat) : Stays ρ (complete s j c detail) := by
  unfold complete
  repeat' first
    | with_reducible assumption | extract_lets | with_reducible apply postRecord_stays | with_reducible apply logCmd_stays | split

/-! ### Seal -/

theorem noteStream_entries (s : State) (key : Nat) (t : Strm) : (noteStream s key t).entries = s.log.entries := by
  unfold noteStream bumpGen
  split <;> rfl

theorem noteStream_nextSeq (s : State) (key : Nat) (t : Strm) : (noteStream s key t).nextSeq = s.log.nextSeq := by
  unfold noteStream bumpGen
  split <;> rfl

theorem setStream_stays {ρ s : State} (hρ : Stays ρ s) (key : Nat) (t : Strm) : Stays ρ (setStream s key t) :=
  Stays.same hρ rfl rfl rfl rfl (noteStream_entries s key t) (noteStream_nextSeq s key t) rfl rfl rfl

theorem addDue_stays {ρ s : State} (hρ : Stays ρ s) (key : Nat) (t : Strm) (ds : List DueRec) : Stays ρ (addDue s key t ds) := by
  unfold addDue
  repeat' first
    | with_reducible assumption | extract_lets | with_reducible apply wakeDomain_stays | with_reducible apply setStream_stays | split
    | (intro _; intros; beta_reduce) | with_reducible refine Stays.same ?_ rfl rfl rfl rfl rfl rfl rfl rfl rfl

theorem closeWith_stays {ρ s : State} (hρ : Stays ρ s) (key : Nat) (t : Strm) (a : DueRec) (cap host : Nat) :
    Stays ρ (closeWith s key t a cap host) := by
  unfold closeWith
  repeat' first
    | with_reducible assumption | extract_lets | with_reducible apply addDue_stays | split
    | with_reducible refine Stays.same ?_ rfl rfl rfl rfl rfl rfl rfl rfl rfl

theorem endRunning_stays {ρ s : State} (hρ : Stays ρ s) (key : Nat) (t : Strm) (r : Running) (flags mark cap host : Nat) (useHost :
    Bool) : Stays ρ (endRunning s key t r flags mark cap host useHost) := by
  unfold endRunning
  repeat' first
    | with_reducible assumption | extract_lets | with_reducible apply closeWith_stays | split

theorem endOrEmpty_stays {ρ s : State} (hρ : Stays ρ s) (key : Nat) (t : Strm) (flags mark cap host : Nat) :
    Stays ρ (endOrEmpty s key t flags mark cap host) := by
  unfold endOrEmpty
  repeat' first
    | with_reducible assumption | extract_lets | with_reducible apply endRunning_stays | with_reducible apply closeWith_stays | split
    | with_reducible refine Stays.same ?_ rfl rfl rfl rfl rfl rfl rfl rfl rfl

theorem sealOpen_stays {ρ s : State} (hρ : Stays ρ s) (aflag cflag : Nat) : Stays ρ (sealOpen s aflag cflag) := by
  unfold sealOpen
  repeat' first
    | with_reducible assumption | extract_lets | with_reducible apply endRunning_stays | with_reducible apply addDue_stays
    | with_reducible apply Stays.foldl | split | (intro _; intros; beta_reduce)
    | with_reducible refine Stays.same ?_ rfl rfl rfl rfl rfl rfl rfl rfl rfl

theorem appendSpans_stays {ρ s : State} (hρ : Stays ρ s) (key host : Nat) (foot : Bool) (a0 a1 : Nat) :
    Stays ρ (appendSpans s key host foot a0 a1) := by
  induction a0 generalizing s a1 with
  | zero =>
    rw [appendSpans]
    exact hρ
  | succ fuel ih =>
    rw [appendSpans]
    repeat' first
      | with_reducible assumption | with_reducible apply ih | extract_lets | with_reducible apply endRunning_stays
      | with_reducible apply setStream_stays | split

theorem appendData_stays {ρ s : State} (hρ : Stays ρ s) (key host : Nat) (foot : Bool) (bytes : List Byte) :
    Stays ρ (appendData s key host foot bytes) := by
  unfold appendData
  repeat' first
    | with_reducible assumption | extract_lets | with_reducible apply appendSpans_stays | with_reducible apply setStream_stays | split
    | with_reducible refine Stays.same ?_ rfl rfl rfl rfl rfl rfl rfl rfl rfl

/-! ### Geom -/

theorem setSafe_stays {ρ s : State} (hρ : Stays ρ s) : Stays ρ (setSafe s) := by
  unfold setSafe
  repeat' first
    | with_reducible assumption | extract_lets | split | with_reducible refine Stays.same ?_ rfl rfl rfl rfl rfl rfl rfl rfl rfl

theorem setOnMedia_stays {ρ s : State} (hρ : Stays ρ s) : Stays ρ (setOnMedia s) := by
  unfold setOnMedia
  repeat' first
    | with_reducible assumption | extract_lets | with_reducible apply setIrq_stays | split
    | with_reducible refine Stays.same ?_ rfl rfl rfl rfl rfl rfl rfl rfl rfl

/-! ### Microword -/

theorem setMason_stays {ρ s : State} (hρ : Stays ρ s) (c : Fin 16) (m : Mason) : Stays ρ (setMason s c m) := by
  unfold setMason
  repeat' first
    | with_reducible assumption | extract_lets | split | with_reducible refine Stays.same ?_ rfl rfl rfl rfl rfl rfl rfl rfl rfl

theorem commitCandidate_stays {ρ s : State} (hρ : Stays ρ s) : Stays ρ (commitCandidate s) := by
  unfold commitCandidate
  repeat' first
    | with_reducible assumption | extract_lets | split | (intro _; intros; beta_reduce)
    | with_reducible refine Stays.same ?_ rfl rfl rfl rfl rfl rfl rfl rfl rfl

/-! ### Mover -/

theorem setMov_stays {ρ s : State} (hρ : Stays ρ s) (c : Fin 32) (m : MovCh) : Stays ρ (setMov s c m) := by
  unfold setMov
  repeat' first
    | with_reducible assumption | extract_lets | split | with_reducible refine Stays.same ?_ rfl rfl rfl rfl rfl rfl rfl rfl rfl

theorem movWrite_stays {ρ s : State} (hρ : Stays ρ s) (dram : Bool) (a : Nat) (bs : List Byte) : PairStays ρ (movWrite s dram a bs) := by
  unfold movWrite
  repeat' first
    | with_reducible assumption | extract_lets | with_reducible apply dramWriteL_stays | with_reducible apply shWrite_stays
    | simp only [PairStays.mk_iff] | with_reducible apply PairStays.fst | with_reducible refine PairStays.eq (by assumption) ?_ | split

theorem writeBack_stays {ρ s : State} (hρ : Stays ρ s) (m : MovCh) (r : MovRun) (dstat : Nat) : Stays ρ (writeBack s m r dstat) := by
  unfold writeBack
  repeat' first
    | with_reducible assumption | extract_lets | with_reducible apply shWrite_stays | split

theorem movIrq_stays {ρ s : State} (hρ : Stays ρ s) : Stays ρ (movIrq s) := by
  unfold movIrq
  repeat' first
    | with_reducible assumption | extract_lets | with_reducible apply setIrq_stays | split

theorem pulsePin_stays {ρ s : State} (hρ : Stays ρ s) (pin : Nat) : Stays ρ (pulsePin s pin) := by
  unfold pulsePin
  repeat' first
    | with_reducible assumption | extract_lets | split | with_reducible refine Stays.same ?_ rfl rfl rfl rfl rfl rfl rfl rfl rfl

theorem startCh_stays {ρ a1 : State} (hρ : Stays ρ a1) (a0 : Nat) (a2 : Fin 32) : Stays ρ (startCh a0 a1 a2) := by
  induction a0 generalizing a1 a2 with
  | zero =>
    rw [startCh]
    exact hρ
  | succ fuel ih =>
    rw [startCh]
    repeat' first
      | with_reducible assumption | with_reducible apply ih | extract_lets | with_reducible apply setMov_stays
      | with_reducible apply ringQueue_stays | with_reducible apply pulsePin_stays | split

theorem pulse_stays {ρ s : State} (hρ : Stays ρ s) (kind arg : Nat) : Stays ρ (pulse s kind arg) := by
  unfold pulse
  repeat' first
    | with_reducible assumption | extract_lets | with_reducible apply ringQueue_stays | with_reducible apply startCh_stays
    | with_reducible apply pulsePin_stays | split

theorem movDone_stays {ρ s : State} (hρ : Stays ρ s) (c : Fin 32) (r : MovRun) (stop : Bool) : Stays ρ (movDone s c r stop) := by
  unfold movDone
  repeat' first
    | with_reducible assumption | extract_lets | with_reducible apply writeBack_stays | with_reducible apply setMov_stays
    | with_reducible apply pulse_stays | with_reducible apply movIrq_stays | split | with_reducible apply Stays.ite
    | with_reducible refine Stays.same ?_ rfl rfl rfl rfl rfl rfl rfl rfl rfl

theorem movBad_stays {ρ s : State} (hρ : Stays ρ s) (c : Fin 32) (r : MovRun) : Stays ρ (movBad s c r) := by
  unfold movBad
  repeat' first
    | with_reducible assumption | extract_lets | with_reducible apply countBus_stays | with_reducible apply writeBack_stays
    | with_reducible apply movIrq_stays | with_reducible apply setMov_stays | split
    | with_reducible refine Stays.same ?_ rfl rfl rfl rfl rfl rfl rfl rfl rfl

theorem movStop_stays {ρ s : State} (hρ : Stays ρ s) (c : Fin 32) (wb : Bool) : Stays ρ (movStop s c wb) := by
  unfold movStop
  repeat' first
    | with_reducible assumption | extract_lets | with_reducible apply writeBack_stays | with_reducible apply movIrq_stays
    | with_reducible apply setMov_stays | split | with_reducible refine Stays.same ?_ rfl rfl rfl rfl rfl rfl rfl rfl rfl

theorem movAbort_stays {ρ s : State} (hρ : Stays ρ s) (c : Fin 32) : Stays ρ (movAbort s c) := by
  unfold movAbort
  repeat' first
    | with_reducible assumption | extract_lets | with_reducible apply setMov_stays | with_reducible apply movStop_stays | split
    | with_reducible refine Stays.same ?_ rfl rfl rfl rfl rfl rfl rfl rfl rfl

theorem movOrphan_stays {ρ s : State} (hρ : Stays ρ s) (c : Fin 32) : Stays ρ (movOrphan s c) := by
  unfold movOrphan
  repeat' first
    | with_reducible assumption | extract_lets | with_reducible apply setMov_stays | with_reducible apply movStop_stays | split
    | with_reducible refine Stays.same ?_ rfl rfl rfl rfl rfl rfl rfl rfl rfl

theorem eachMov_stays {ρ s : State} (hρ : Stays ρ s) (f : State → Fin 32 → State)
    (h : ∀ t c, Stays ρ t → Stays ρ (f t c)) : Stays ρ (eachMov f s) := Stays.foldl _ _ hρ h

theorem movPowerFail_stays {ρ s : State} (hρ : Stays ρ s) (c : Fin 32) : Stays ρ (movPowerFail s c) := by
  unfold movPowerFail
  repeat' first
    | with_reducible assumption | extract_lets | with_reducible apply movStop_stays | split

theorem movCtrlWrite_stays {ρ s : State} (hρ : Stays ρ s) (v : Word) : Stays ρ (movCtrlWrite s v) := by
  unfold movCtrlWrite
  repeat' first
    | with_reducible assumption | extract_lets | with_reducible apply setMov_stays | with_reducible apply movIrq_stays
    | with_reducible apply movAbort_stays | with_reducible apply startCh_stays | split
    | with_reducible refine Stays.same ?_ rfl rfl rfl rfl rfl rfl rfl rfl rfl

theorem execMovStart_stays (value : Word) (s : State) : NextStays s (execMovStart value s) := by
  have hρ := Stays.refl s
  unfold execMovStart
  repeat' first
    | with_reducible assumption | extract_lets | with_reducible apply NextStays.next | with_reducible apply movCtrlWrite_stays | split

theorem execMovAbort_stays (value : Word) (s : State) : NextStays s (execMovAbort value s) := by
  have hρ := Stays.refl s
  unfold execMovAbort
  repeat' first
    | with_reducible assumption | extract_lets | with_reducible apply NextStays.next | with_reducible apply movCtrlWrite_stays | split

theorem execEvtInEdge_stays (pin : Fin 4) (s : State) : NextStays s (execEvtInEdge pin s) := by
  have hρ := Stays.refl s
  unfold execEvtInEdge
  repeat' first
    | with_reducible assumption | extract_lets | with_reducible apply NextStays.next | with_reducible apply eachMov_stays
    | with_reducible apply startCh_stays | split | (intro _; intros; beta_reduce)

theorem execMoverDescFetch_stays (ch : Fin 32) (bus : Bus) (s : State) : NextStays s (execMoverDescFetch ch bus s) := by
  have hρ := Stays.refl s
  unfold execMoverDescFetch
  repeat' first
    | with_reducible assumption | extract_lets | with_reducible apply NextStays.next | with_reducible apply absorbBus_stays
    | with_reducible apply movIrq_stays | with_reducible apply countBus_stays | with_reducible apply setMov_stays
    | with_reducible apply movDone_stays | split | with_reducible refine Stays.same ?_ rfl rfl rfl rfl rfl rfl rfl rfl rfl

theorem execMoverBurstStart_stays (ch : Fin 32) (s : State) : NextStays s (execMoverBurstStart ch s) := by
  have hρ := Stays.refl s
  unfold execMoverBurstStart
  repeat' first
    | with_reducible assumption | extract_lets | with_reducible apply NextStays.next | with_reducible apply setMov_stays | split
    | with_reducible refine Stays.same ?_ rfl rfl rfl rfl rfl rfl rfl rfl rfl

theorem execMoverBurstDone_stays (ch : Fin 32) (bus : Bus) (s : State) : NextStays s (execMoverBurstDone ch bus s) := by
  have hρ := Stays.refl s
  unfold execMoverBurstDone
  repeat' first
    | with_reducible assumption | extract_lets | with_reducible apply NextStays.next | with_reducible apply absorbBus_stays
    | with_reducible apply movBad_stays | with_reducible apply movWrite_stays | with_reducible apply setMov_stays
    | with_reducible apply movDone_stays | with_reducible apply movStop_stays | simp only [PairStays.mk_iff]
    | with_reducible apply PairStays.fst | with_reducible refine PairStays.eq (by assumption) ?_ | split
    | with_reducible refine Stays.same ?_ rfl rfl rfl rfl rfl rfl rfl rfl rfl

theorem execEvtOutEnd_stays (pin : Fin 4) (s : State) : NextStays s (execEvtOutEnd pin s) := by
  have hρ := Stays.refl s
  unfold execEvtOutEnd
  repeat' first
    | with_reducible assumption | extract_lets | with_reducible apply NextStays.next | split
    | with_reducible refine Stays.same ?_ rfl rfl rfl rfl rfl rfl rfl rfl rfl

/-! ### Place -/

theorem modMedia_stays {ρ s : State} (hρ : Stays ρ s) (f : Media → Media) : Stays ρ (modMedia s f) := by
  unfold modMedia
  repeat' first
    | with_reducible assumption | extract_lets | split | with_reducible refine Stays.same ?_ rfl rfl rfl rfl rfl rfl rfl rfl rfl

theorem modLun_stays {ρ s : State} (hρ : Stays ρ s) (k : Nat) (f : Lun → Lun) : Stays ρ (modLun s k f) := by
  unfold modLun
  repeat' first
    | with_reducible assumption | extract_lets | with_reducible apply modMedia_stays | split | (intro _; intros; beta_reduce)
    | with_reducible refine Stays.same ?_ rfl rfl rfl rfl rfl rfl rfl rfl rfl

theorem modHealth_stays {ρ s : State} (hρ : Stays ρ s) (f : Health → Health) : Stays ρ (modHealth s f) := by
  unfold modHealth
  repeat' first
    | with_reducible assumption | extract_lets | split | with_reducible refine Stays.same ?_ rfl rfl rfl rfl rfl rfl rfl rfl rfl

theorem setBlk_stays {ρ s : State} (hρ : Stays ρ s) (k : Nat) (u : BlkUse) : Stays ρ (setBlk s k u) := by
  unfold setBlk
  repeat' first
    | with_reducible assumption | extract_lets | with_reducible apply modMedia_stays | with_reducible apply noteGen_stays | split
    | (intro _; intros; beta_reduce) | with_reducible refine Stays.same ?_ rfl rfl rfl rfl rfl rfl rfl rfl rfl

theorem formCourse_stays {ρ s : State} (hρ : Stays ρ s) (role : Role) (blocks : List Nat) (mortar : Nat) (slc : Bool) :
    Stays ρ (formCourse s role blocks mortar slc) := by
  unfold formCourse
  repeat' first
    | with_reducible assumption | extract_lets | with_reducible apply setBlk_stays | with_reducible apply modMedia_stays
    | with_reducible apply Stays.foldl | split | (intro _; intros; beta_reduce)
    | with_reducible refine Stays.same ?_ rfl rfl rfl rfl rfl rfl rfl rfl rfl

theorem closeFull_stays {ρ s : State} (hρ : Stays ρ s) (id : Nat) : Stays ρ (closeFull s id) := by
  unfold closeFull
  repeat' first
    | with_reducible assumption | extract_lets | with_reducible apply modMedia_stays | split | (intro _; intros; beta_reduce)
    | with_reducible refine Stays.same ?_ rfl rfl rfl rfl rfl rfl rfl rfl rfl

theorem storeCws_stays {ρ s : State} (hρ : Stays ρ s) (block page : Nat) (d : Nat → List Byte) : Stays ρ (storeCws s block page d) := by
  unfold storeCws
  repeat' first
    | with_reducible assumption | extract_lets | with_reducible apply Stays.foldl | split | (intro _; intros; beta_reduce)
    | with_reducible refine Stays.same ?_ rfl rfl rfl rfl rfl rfl rfl rfl rfl

theorem storePage_stays {ρ s : State} (hρ : Stays ρ s) (c : Course) (m row : Nat) (refs : List Ref) :
    Stays ρ (storePage s c m row refs) := by
  unfold storePage
  repeat' first
    | with_reducible assumption | extract_lets | with_reducible apply storeCws_stays | with_reducible apply Stays.foldl | split
    | (intro _; intros; beta_reduce) | with_reducible refine Stays.same ?_ rfl rfl rfl rfl rfl rfl rfl rfl rfl

theorem erased_stays {ρ s : State} (hρ : Stays ρ s) (k : Nat) : Stays ρ (erased s k) := by
  unfold erased
  repeat' first
    | with_reducible assumption | extract_lets | with_reducible apply modMedia_stays | with_reducible apply noteGen_stays | split
    | (intro _; intros; beta_reduce) | with_reducible refine Stays.same ?_ rfl rfl rfl rfl rfl rfl rfl rfl rfl

theorem relocCourse_stays {ρ s : State} (hρ : Stays ρ s) (cold : Bool) : OptPairStays ρ (relocCourse s cold) := by
  unfold relocCourse
  repeat' first
    | with_reducible assumption | extract_lets | with_reducible apply formCourse_stays | with_reducible exact OptPairStays.none
    | with_reducible apply OptPairStays.some | with_reducible refine OptPairStays.eq (by assumption) ?_ | split
    | (intro _; intros; beta_reduce) | with_reducible refine Stays.same ?_ rfl rfl rfl rfl rfl rfl rfl rfl rfl

theorem placeAt_stays {ρ s : State} (hρ : Stays ρ s) (id : Nat) (c : Course) (m : Nat) (page : List Ref) :
    Stays ρ (placeAt s id c m page) := by
  unfold placeAt
  repeat' first
    | with_reducible assumption | extract_lets | with_reducible apply storePage_stays | with_reducible apply modMedia_stays
    | with_reducible apply modHealth_stays | split | (intro _; intros; beta_reduce)
    | with_reducible refine Stays.same ?_ rfl rfl rfl rfl rfl rfl rfl rfl rfl

theorem placePage_stays {ρ s : State} (hρ : Stays ρ s) (cold : Bool) (page : List Ref) : OptStays ρ (placePage s cold page) := by
  unfold placePage
  repeat' first
    | with_reducible assumption | extract_lets | with_reducible apply relocCourse_stays | with_reducible apply placeAt_stays
    | with_reducible apply closeFull_stays | with_reducible exact OptStays.none | with_reducible apply OptStays.some
    | with_reducible apply OptStays.map | with_reducible apply OptStays.bind | with_reducible apply OptStays.foldl
    | with_reducible apply OptStays.getD | with_reducible refine OptStays.eq (by assumption) ?_ | with_reducible exact OptPairStays.none
    | with_reducible apply OptPairStays.some | with_reducible refine OptPairStays.eq (by assumption) ?_ | split
    | (intro _; intros; beta_reduce) | with_reducible refine Stays.same ?_ rfl rfl rfl rfl rfl rfl rfl rfl rfl

theorem placePages_stays {ρ s : State} (hρ : Stays ρ s) (cold : Bool) (pages : List (List Ref)) :
    OptStays ρ (placePages s cold pages) := by
  unfold placePages
  repeat' first
    | with_reducible assumption | extract_lets | with_reducible apply placePage_stays | with_reducible exact OptStays.none
    | with_reducible apply OptStays.some | with_reducible apply OptStays.map | with_reducible apply OptStays.bind
    | with_reducible apply OptStays.foldl | with_reducible apply OptStays.getD | with_reducible refine OptStays.eq (by assumption) ?_
    | with_reducible apply Stays.foldl | split | (intro _; intros; beta_reduce)

theorem placeClass_stays {ρ s : State} (hρ : Stays ρ s) (cold : Bool) (pages : List (List Ref)) :
    OptStays ρ (placeClass s cold pages) := by
  unfold placeClass
  repeat' first
    | with_reducible assumption | extract_lets | with_reducible apply placePages_stays | with_reducible exact OptStays.none
    | with_reducible apply OptStays.some | with_reducible apply OptStays.map | with_reducible apply OptStays.bind
    | with_reducible apply OptStays.foldl | with_reducible apply OptStays.getD | with_reducible refine OptStays.eq (by assumption) ?_
    | split | (intro _; intros; beta_reduce)

theorem placeMoved_stays {ρ s : State} (hρ : Stays ρ s) (refs : List Ref) : OptStays ρ (placeMoved s refs) := by
  unfold placeMoved
  repeat' first
    | with_reducible assumption | extract_lets | with_reducible apply placeClass_stays | with_reducible exact OptStays.none
    | with_reducible apply OptStays.some | with_reducible apply OptStays.map | with_reducible apply OptStays.bind
    | with_reducible apply OptStays.foldl | with_reducible apply OptStays.getD | with_reducible refine OptStays.eq (by assumption) ?_
    | split | (intro _; intros; beta_reduce)

theorem dropCourse_stays {ρ s : State} (hρ : Stays ρ s) (id : Nat) : Stays ρ (dropCourse s id) := by
  unfold dropCourse
  repeat' first
    | with_reducible assumption | extract_lets | with_reducible apply setBlk_stays | with_reducible apply modMedia_stays
    | with_reducible apply Stays.foldl | split | (intro _; intros; beta_reduce)
    | with_reducible refine Stays.same ?_ rfl rfl rfl rfl rfl rfl rfl rfl rfl

theorem emptyCourse_stays {ρ s : State} (hρ : Stays ρ s) (id : Nat) : OptStays ρ (emptyCourse s id) := by
  unfold emptyCourse
  repeat' first
    | with_reducible assumption | extract_lets | with_reducible apply placeMoved_stays | with_reducible apply dropCourse_stays
    | with_reducible exact OptStays.none | with_reducible apply OptStays.some | with_reducible apply OptStays.map
    | with_reducible apply OptStays.bind | with_reducible apply OptStays.foldl | with_reducible apply OptStays.getD
    | with_reducible refine OptStays.eq (by assumption) ?_ | split | (intro _; intros; beta_reduce)
    | with_reducible refine Stays.same ?_ rfl rfl rfl rfl rfl rfl rfl rfl rfl

theorem freeEmpty_stays {ρ s : State} (hρ : Stays ρ s) : Stays ρ (freeEmpty s) := by
  unfold freeEmpty
  repeat' first
    | with_reducible assumption | extract_lets | with_reducible apply dropCourse_stays | with_reducible apply Stays.foldl | split
    | (intro _; intros; beta_reduce)

theorem retireBlock_stays {ρ s : State} (hρ : Stays ρ s) (id member : Nat) (retire : Bool) :
    Stays ρ (retireBlock s id member retire) := by
  unfold retireBlock
  repeat' first
    | with_reducible assumption | extract_lets | with_reducible apply modMedia_stays | with_reducible apply setBlk_stays
    | with_reducible apply placeMoved_stays | with_reducible exact OptStays.none | with_reducible apply OptStays.some
    | with_reducible apply OptStays.map | with_reducible apply OptStays.bind | with_reducible apply OptStays.foldl
    | with_reducible apply OptStays.getD | with_reducible refine OptStays.eq (by assumption) ?_ | split | (intro _; intros; beta_reduce)
    | with_reducible refine Stays.same ?_ rfl rfl rfl rfl rfl rfl rfl rfl rfl

theorem dropDie_stays {ρ s0 : State} (hρ : Stays ρ s0) (l : Nat) : Stays ρ (dropDie s0 l) := by
  unfold dropDie
  repeat' first
    | with_reducible assumption | extract_lets | with_reducible apply modMedia_stays | with_reducible apply modLun_stays | split
    | (intro _; intros; beta_reduce) | with_reducible refine Stays.same ?_ rfl rfl rfl rfl rfl rfl rfl rfl rfl

theorem dieFailed_stays {ρ s : State} (hρ : Stays ρ s) (l why : Nat) : Stays ρ (dieFailed s l why) := by
  unfold dieFailed
  repeat' first
    | with_reducible assumption | extract_lets | with_reducible apply logEvent_stays | with_reducible apply dropDie_stays
    | with_reducible apply refresh_stays | split | (intro _; intros; beta_reduce)
    | with_reducible refine Stays.same ?_ rfl rfl rfl rfl rfl rfl rfl rfl rfl

theorem withdrawSwitch_stays {ρ s : State} (hρ : Stays ρ s) (c : Fin 16) (reason : Nat) : Stays ρ (withdrawSwitch s c reason) := by
  unfold withdrawSwitch
  repeat' first
    | with_reducible assumption | extract_lets | with_reducible apply setMason_stays | with_reducible apply logEvent_stays | split
    | with_reducible refine Stays.same ?_ rfl rfl rfl rfl rfl rfl rfl rfl rfl

theorem takeOffline_stays {ρ s : State} (hρ : Stays ρ s) (ch why : Nat) : Stays ρ (takeOffline s ch why) := by
  unfold takeOffline
  repeat' first
    | with_reducible assumption | extract_lets | with_reducible apply dropDie_stays | with_reducible apply modMedia_stays
    | with_reducible apply withdrawSwitch_stays | with_reducible apply refresh_stays | with_reducible apply commitCandidate_stays
    | with_reducible apply logEvent_stays | with_reducible apply Stays.foldl | split | (intro _; intros; beta_reduce)
    | with_reducible refine Stays.same ?_ rfl rfl rfl rfl rfl rfl rfl rfl rfl

end Sys2Proof.Machine
end

