-- ==== Sys2Proof/Laws/StaysStage.lean ====
section
/-! SUPPORT. `Stays` for the operations and commands of the stage, flash, visibility, the stops, and the queues: one lemma an operation, from which the
invariants that every command outside the resets keeps follow by cases. -/

namespace Sys2Proof.Machine

/-! ### HostMap -/

theorem hmapEvent_stays {ρ s : State} (hρ : Stays ρ s) (kind region slot leaf : Nat) : Stays ρ (hmapEvent s kind region slot leaf) := by
  unfold hmapEvent
  repeat' first
    | with_reducible assumption | extract_lets | split | with_reducible refine Stays.same ?_ rfl rfl rfl rfl rfl rfl rfl rfl rfl

theorem modRegion_stays {ρ s : State} (hρ : Stays ρ s) (r : Nat) (f : HmRegion → HmRegion) : Stays ρ (modRegion s r f) := by
  unfold modRegion
  repeat' first
    | with_reducible assumption | extract_lets | split | (intro _; intros; beta_reduce)
    | with_reducible refine Stays.same ?_ rfl rfl rfl rfl rfl rfl rfl rfl rfl

theorem retireRegion_stays {ρ s : State} (hρ : Stays ρ s) (r slot leaf : Nat) : Stays ρ (retireRegion s r slot leaf) := by
  unfold retireRegion
  repeat' first
    | with_reducible assumption | extract_lets | with_reducible apply modRegion_stays | with_reducible apply hmapEvent_stays | split
    | (intro _; intros; beta_reduce) | with_reducible refine Stays.same ?_ rfl rfl rfl rfl rfl rfl rfl rfl rfl

theorem hmapFail_stays {ρ s : State} (hρ : Stays ρ s) (r slot leaf : Nat) (busError : Bool) :
    Stays ρ (hmapFail s r slot leaf busError) := by
  unfold hmapFail
  repeat' first
    | with_reducible assumption | extract_lets | with_reducible apply modRegion_stays | with_reducible apply countBus_stays
    | with_reducible apply setIrq_stays | with_reducible apply hmapEvent_stays | with_reducible apply refresh_stays
    | with_reducible apply retireRegion_stays | split | (intro _; intros; beta_reduce)
    | with_reducible refine Stays.same ?_ rfl rfl rfl rfl rfl rfl rfl rfl rfl

theorem readSlot_stays {ρ s : State} (hρ : Stays ρ s) (b : Bus) (k l : Nat) : Stays ρ (readSlot s b k l) := by
  unfold readSlot
  repeat' first
    | with_reducible assumption | extract_lets | with_reducible apply hmapFail_stays | split
    | with_reducible refine Stays.same ?_ rfl rfl rfl rfl rfl rfl rfl rfl rfl

theorem fillSlot_stays {ρ s : State} (hρ : Stays ρ s) (k l : Nat) : Stays ρ (fillSlot s k l) := by
  unfold fillSlot
  repeat' first
    | with_reducible assumption | extract_lets | with_reducible apply shWrite_stays | split
    | with_reducible refine Stays.same ?_ rfl rfl rfl rfl rfl rfl rfl rfl rfl

theorem placeLeaf_stays {ρ s : State} (hρ : Stays ρ s) (l : Nat) : Stays ρ (placeLeaf s l) := by
  unfold placeLeaf
  repeat' first
    | with_reducible assumption | extract_lets | with_reducible apply fillSlot_stays | split | (intro _; intros; beta_reduce)
    | with_reducible refine Stays.same ?_ rfl rfl rfl rfl rfl rfl rfl rfl rfl

theorem writeLeaf_stays {ρ s : State} (hρ : Stays ρ s) (l : Nat) : Stays ρ (writeLeaf s l) := by
  unfold writeLeaf
  repeat' first
    | with_reducible assumption | extract_lets | split | (intro _; intros; beta_reduce)
    | with_reducible refine Stays.same ?_ rfl rfl rfl rfl rfl rfl rfl rfl rfl

theorem spillLeaf_stays {ρ s : State} (hρ : Stays ρ s) (host : Bool) (x : Nat × Bool) : Stays ρ (spillLeaf host s x) := by
  unfold spillLeaf
  repeat' first
    | with_reducible assumption | extract_lets | with_reducible apply writeLeaf_stays | with_reducible apply placeLeaf_stays | split
    | with_reducible apply Stays.ite

theorem balance_stays {ρ s : State} (hρ : Stays ρ s) (host : Bool) : Stays ρ (balance s host) := by
  unfold balance
  repeat' first
    | with_reducible assumption | extract_lets | with_reducible apply spillLeaf_stays | with_reducible apply Stays.foldl | split
    | (intro _; intros; beta_reduce) | with_reducible refine Stays.same ?_ rfl rfl rfl rfl rfl rfl rfl rfl rfl

theorem holdLeaf_stays {ρ s : State} (hρ : Stays ρ s) (l : Nat) (dirty : Bool) : Stays ρ (holdLeaf s l dirty) := by
  unfold holdLeaf
  repeat' first
    | with_reducible assumption | extract_lets | split | (intro _; intros; beta_reduce)
    | with_reducible refine Stays.same ?_ rfl rfl rfl rfl rfl rfl rfl rfl rfl

theorem takeLeaf_stays {ρ s : State} (hρ : Stays ρ s) (b : Bus) (l : Nat) : Stays ρ (takeLeaf b s l) := by
  unfold takeLeaf
  repeat' first
    | with_reducible assumption | extract_lets | with_reducible apply readSlot_stays | with_reducible apply balance_stays
    | with_reducible apply holdLeaf_stays | split | with_reducible refine Stays.same ?_ rfl rfl rfl rfl rfl rfl rfl rfl rfl

theorem takeLeaves_stays {ρ s : State} (hρ : Stays ρ s) (b : Bus) (p first len : Nat) : Stays ρ (takeLeaves s b p first len) := by
  unfold takeLeaves
  repeat' first
    | with_reducible assumption | extract_lets | with_reducible apply takeLeaf_stays | with_reducible apply Stays.foldl | split
    | (intro _; intros; beta_reduce)

theorem dirtyLeaf_stays {ρ s : State} (hρ : Stays ρ s) (l : Nat) : Stays ρ (dirtyLeaf s l) := by
  unfold dirtyLeaf
  repeat' first
    | with_reducible assumption | extract_lets | with_reducible apply balance_stays | with_reducible apply holdLeaf_stays | split

theorem flushLeaves_stays {ρ s : State} (hρ : Stays ρ s) : Stays ρ (flushLeaves s) := by
  unfold flushLeaves
  repeat' first
    | with_reducible assumption | extract_lets | with_reducible apply writeLeaf_stays | with_reducible apply Stays.foldl | split
    | (intro _; intros; beta_reduce) | with_reducible refine Stays.same ?_ rfl rfl rfl rfl rfl rfl rfl rfl rfl

theorem dropLeaves_stays {ρ s : State} (hρ : Stays ρ s) (p : Nat) : Stays ρ (dropLeaves s p) := by
  unfold dropLeaves
  repeat' first
    | with_reducible assumption | extract_lets | split | (intro _; intros; beta_reduce)
    | with_reducible refine Stays.same ?_ rfl rfl rfl rfl rfl rfl rfl rfl rfl

theorem scrubSlot_stays {ρ s : State} (hρ : Stays ρ s) (b : Bus) (x : Nat × Nat × Nat) : Stays ρ (scrubSlot b s x) := by
  unfold scrubSlot
  repeat' first
    | with_reducible assumption | extract_lets | with_reducible apply readSlot_stays | with_reducible apply fillSlot_stays | split

theorem execHmapScrub_stays (bus : Bus) (s : State) : NextStays s (execHmapScrub bus s) := by
  have hρ := Stays.refl s
  unfold execHmapScrub
  repeat' first
    | with_reducible assumption | extract_lets | with_reducible apply NextStays.next | with_reducible apply absorbBus_stays
    | with_reducible apply scrubSlot_stays | with_reducible apply refresh_stays | with_reducible apply Stays.foldl | split
    | (intro _; intros; beta_reduce) | with_reducible refine Stays.same ?_ rfl rfl rfl rfl rfl rfl rfl rfl rfl

theorem attachMap_stays {ρ s : State} (hρ : Stays ρ s) (rs : List HmRegion) : Stays ρ (attachMap s rs) := by
  unfold attachMap
  repeat' first
    | with_reducible assumption | extract_lets | split | with_reducible refine Stays.same ?_ rfl rfl rfl rfl rfl rfl rfl rfl rfl

theorem detachMap_stays {ρ s : State} (hρ : Stays ρ s) : Stays ρ (detachMap s) := by
  unfold detachMap
  repeat' first
    | with_reducible assumption | extract_lets | with_reducible apply refresh_stays | split
    | with_reducible refine Stays.same ?_ rfl rfl rfl rfl rfl rfl rfl rfl rfl

/-! ### Stage -/

theorem releaseFence_stays {ρ s : State} (hρ : Stays ρ s) (q : Nat) : Stays ρ (releaseFence s q) := by
  unfold releaseFence
  repeat' first
    | with_reducible assumption | extract_lets | with_reducible apply modQueue_stays | split | (intro _; intros; beta_reduce)
    | with_reducible refine Stays.same ?_ rfl rfl rfl rfl rfl rfl rfl rfl rfl

theorem forward_stays {ρ s : State} (hρ : Stays ρ s) (j : Job) : Stays ρ (forward s j) := by
  unfold forward
  repeat' first
    | with_reducible assumption | extract_lets | with_reducible apply complete_stays | with_reducible apply setJob_stays
    | with_reducible apply sendPort_stays | split | with_reducible refine Stays.same ?_ rfl rfl rfl rfl rfl rfl rfl rfl rfl

theorem abortEntry_stays {ρ s : State} (hρ : Stays ρ s) (j : Job) : Stays ρ (abortEntry s j) := by
  unfold abortEntry
  repeat' first
    | with_reducible assumption | extract_lets | with_reducible apply complete_stays | with_reducible apply spoil_stays | split

theorem settleJob_stays {ρ s : State} (hρ : Stays ρ s) (j : Job) : Stays ρ (settleJob s j) := by
  unfold settleJob
  repeat' first
    | with_reducible assumption | extract_lets | with_reducible apply complete_stays | with_reducible apply releaseFence_stays
    | with_reducible apply setJob_stays | with_reducible apply forward_stays | split
    | with_reducible refine Stays.same ?_ rfl rfl rfl rfl rfl rfl rfl rfl rfl

theorem settleJobs_stays {ρ s : State} (hρ : Stays ρ s) : Stays ρ (settleJobs s) := by
  unfold settleJobs
  repeat' first
    | with_reducible assumption | extract_lets | with_reducible apply settleJob_stays | with_reducible apply Stays.foldl | split
    | (intro _; intros; beta_reduce)

theorem ackJob_stays {ρ s : State} (hρ : Stays ρ s) (w : VWrite) (media : Bool) : Stays ρ (ackJob s w media) := by
  unfold ackJob
  repeat' first
    | with_reducible assumption | extract_lets | with_reducible apply complete_stays | split | (intro _; intros; beta_reduce)
    | with_reducible refine Stays.same ?_ rfl rfl rfl rfl rfl rfl rfl rfl rfl

theorem ackStreams_stays {ρ s : State} (hρ : Stays ρ s) (w : VWrite) : Stays ρ (ackStreams s w) := by
  unfold ackStreams
  repeat' first
    | with_reducible assumption | extract_lets | with_reducible apply Stays.foldl | split | (intro _; intros; beta_reduce)
    | with_reducible refine Stays.same ?_ rfl rfl rfl rfl rfl rfl rfl rfl rfl

theorem ackReceipt_stays {ρ s : State} (hρ : Stays ρ s) (w : VWrite) : Stays ρ (ackReceipt s w) := by
  unfold ackReceipt
  repeat' first
    | with_reducible assumption | extract_lets | with_reducible apply ackJob_stays | with_reducible apply ackStreams_stays | split
    | (intro _; intros; beta_reduce) | with_reducible refine Stays.same ?_ rfl rfl rfl rfl rfl rfl rfl rfl rfl

theorem ackLoop_stays {ρ a1 : State} (hρ : Stays ρ a1) (a0 : List VWrite) : Stays ρ (ackLoop a0 a1) := by
  induction a0 generalizing a1 with
  | nil =>
    rw [ackLoop]
    exact hρ
  | cons x xs ih =>
    rw [ackLoop]
    repeat' first
      | with_reducible assumption | with_reducible apply ih | with_reducible apply ackReceipt_stays | split

theorem ackPass_stays {ρ s : State} (hρ : Stays ρ s) : Stays ρ (ackPass s) := by
  unfold ackPass
  repeat' first
    | with_reducible assumption | extract_lets | with_reducible apply ackLoop_stays | split

theorem finishWrites_stays {ρ s : State} (hρ : Stays ρ s) : Stays ρ (finishWrites s) := by
  unfold finishWrites
  repeat' first
    | with_reducible assumption | extract_lets | with_reducible apply ackJob_stays | with_reducible apply ackStreams_stays
    | with_reducible apply Stays.foldl | split | (intro _; intros; beta_reduce)
    | with_reducible refine Stays.same ?_ rfl rfl rfl rfl rfl rfl rfl rfl rfl

theorem eolCheck_stays {ρ s : State} (hρ : Stays ρ s) : Stays ρ (eolCheck s) := by
  unfold eolCheck
  repeat' first
    | with_reducible assumption | extract_lets | with_reducible apply sealOpen_stays | with_reducible apply refresh_stays | split
    | with_reducible refine Stays.same ?_ rfl rfl rfl rfl rfl rfl rfl rfl rfl

theorem releaseHold_stays {ρ s : State} (hρ : Stays ρ s) : Stays ρ (releaseHold s) := by
  unfold releaseHold
  repeat' first
    | with_reducible assumption | extract_lets | split | (intro _; intros; beta_reduce)
    | with_reducible refine Stays.same ?_ rfl rfl rfl rfl rfl rfl rfl rfl rfl

theorem leaveCatch_stays {ρ s : State} (hρ : Stays ρ s) : Stays ρ (leaveCatch s) := by
  unfold leaveCatch
  repeat' first
    | with_reducible assumption | extract_lets | with_reducible apply noteGen_stays | split
    | with_reducible refine Stays.same ?_ rfl rfl rfl rfl rfl rfl rfl rfl rfl

theorem settle_stays {ρ s : State} (hρ : Stays ρ s) : Stays ρ (settle s) := by
  unfold settle
  repeat' first
    | with_reducible assumption | extract_lets | with_reducible apply releaseHold_stays | with_reducible apply eolCheck_stays
    | with_reducible apply settleJobs_stays | with_reducible apply leaveCatch_stays | with_reducible apply setOnMedia_stays
    | with_reducible apply setSafe_stays | with_reducible apply ackPass_stays | with_reducible apply finishWrites_stays | split

theorem markPieces_stays {ρ s : State} (hρ : Stays ρ s) (f : VWrite → Piece → Bool) : Stays ρ (markPieces s f) := by
  unfold markPieces
  repeat' first
    | with_reducible assumption | extract_lets | split | (intro _; intros; beta_reduce)
    | with_reducible refine Stays.same ?_ rfl rfl rfl rfl rfl rfl rfl rfl rfl

theorem commitUnit_stays {ρ s : State} (hρ : Stays ρ s) (p u o : Nat) (b : Mem) : Stays ρ (commitUnit s p u o b) := by
  unfold commitUnit
  repeat' first
    | with_reducible assumption | extract_lets | with_reducible apply dirtyLeaf_stays | split | (intro _; intros; beta_reduce)
    | with_reducible refine Stays.same ?_ rfl rfl rfl rfl rfl rfl rfl rfl rfl

theorem commitRef_stays {ρ s : State} (hρ : Stays ρ s) (r : Ref) : Stays ρ (commitRef s r) := by
  unfold commitRef
  repeat' first
    | with_reducible assumption | extract_lets | with_reducible apply commitUnit_stays | with_reducible apply markPieces_stays
    | with_reducible apply setStream_stays | split | (intro _; intros; beta_reduce)
    | with_reducible refine Stays.same ?_ rfl rfl rfl rfl rfl rfl rfl rfl rfl

theorem commitCourse_stays {ρ s : State} (hρ : Stays ρ s) (id : Nat) : Stays ρ (commitCourse s id) := by
  unfold commitCourse
  repeat' first
    | with_reducible assumption | extract_lets | with_reducible apply commitRef_stays | with_reducible apply Stays.foldl | split
    | (intro _; intros; beta_reduce) | with_reducible refine Stays.same ?_ rfl rfl rfl rfl rfl rfl rfl rfl rfl

theorem makeVisible_stays {ρ s : State} (hρ : Stays ρ s) (j : Job) (part : Nat) (media : Bool) (first blocks : Nat) (pieces :
    List (Piece × Bool)) : Stays ρ (makeVisible s j part media first blocks pieces) := by
  unfold makeVisible
  repeat' first
    | with_reducible assumption | extract_lets | with_reducible apply setJob_stays | split
    | with_reducible refine Stays.same ?_ rfl rfl rfl rfl rfl rfl rfl rfl rfl

/-! ### Flash -/

theorem beginProgram_stays {ρ s0 : State} (hρ : Stays ρ s0) (k course member row : Nat) (slc : Bool) (refs : List Ref) :
    Stays ρ (beginProgram s0 k course member row slc refs) := by
  unfold beginProgram
  repeat' first
    | with_reducible assumption | extract_lets | with_reducible apply storePage_stays | with_reducible apply modLun_stays | split
    | (intro _; intros; beta_reduce) | with_reducible refine Stays.same ?_ rfl rfl rfl rfl rfl rfl rfl rfl rfl

theorem programPage_stays {ρ s : State} (hρ : Stays ρ s) (k course member row : Nat) (slc : Bool) (refs : List Ref) :
    OptStays ρ (programPage s k course member row slc refs) := by
  unfold programPage
  repeat' first
    | with_reducible assumption | extract_lets | with_reducible apply beginProgram_stays | with_reducible exact OptStays.none
    | with_reducible apply OptStays.some | with_reducible apply OptStays.map | with_reducible apply OptStays.bind
    | with_reducible apply OptStays.foldl | with_reducible apply OptStays.getD | with_reducible refine OptStays.eq (by assumption) ?_
    | split | (intro _; intros; beta_reduce) | with_reducible refine Stays.same ?_ rfl rfl rfl rfl rfl rfl rfl rfl rfl

theorem suspendLun_stays {ρ s : State} (hρ : Stays ρ s) (k : Nat) : Stays ρ (suspendLun s k) := by
  unfold suspendLun
  repeat' first
    | with_reducible assumption | extract_lets | with_reducible apply modLun_stays | split | (intro _; intros; beta_reduce)
    | with_reducible refine Stays.same ?_ rfl rfl rfl rfl rfl rfl rfl rfl rfl

theorem startWork_stays {ρ s : State} (hρ : Stays ρ s) (ch : Fin 16) (w : FlashWork) : OptStays ρ (startWork s ch w) := by
  unfold startWork
  repeat' first
    | with_reducible assumption | extract_lets | with_reducible apply suspendLun_stays | with_reducible apply modLun_stays
    | with_reducible apply wakeDomain_stays | with_reducible apply beginProgram_stays | with_reducible apply programPage_stays
    | with_reducible apply formCourse_stays | with_reducible exact OptStays.none | with_reducible apply OptStays.some
    | with_reducible apply OptStays.map | with_reducible apply OptStays.bind | with_reducible apply OptStays.foldl
    | with_reducible apply OptStays.getD | with_reducible refine OptStays.eq (by assumption) ?_ | split | (intro _; intros; beta_reduce)
    | with_reducible refine Stays.same ?_ rfl rfl rfl rfl rfl rfl rfl rfl rfl

theorem faultStatus_stays {ρ s : State} (hρ : Stays ρ s) (k block : Nat) : Stays ρ (faultStatus s k block) := by
  unfold faultStatus
  repeat' first
    | with_reducible assumption | extract_lets | with_reducible apply modLun_stays | with_reducible apply dieFailed_stays | split
    | with_reducible apply Stays.ite | (intro _; intros; beta_reduce)
    | with_reducible refine Stays.same ?_ rfl rfl rfl rfl rfl rfl rfl rfl rfl

theorem endOp_stays {ρ s : State} (hρ : Stays ρ s) (k : Nat) (ok : Bool) : Stays ρ (endOp s k ok) := by
  unfold endOp
  repeat' first
    | with_reducible assumption | extract_lets | with_reducible apply modLun_stays | split | (intro _; intros; beta_reduce)
    | with_reducible refine Stays.same ?_ rfl rfl rfl rfl rfl rfl rfl rfl rfl

theorem programPassed_stays {ρ s : State} (hρ : Stays ρ s) (k course member row : Nat) (refs : List Ref) :
    Stays ρ (programPassed s k course member row refs) := by
  unfold programPassed
  repeat' first
    | with_reducible assumption | extract_lets | with_reducible apply modHealth_stays | with_reducible apply endOp_stays
    | with_reducible apply commitRef_stays | with_reducible apply modMedia_stays | with_reducible apply closeFull_stays
    | with_reducible apply commitCourse_stays | with_reducible apply Stays.foldl | split | (intro _; intros; beta_reduce)
    | with_reducible refine Stays.same ?_ rfl rfl rfl rfl rfl rfl rfl rfl rfl

theorem programFailed_stays {ρ s : State} (hρ : Stays ρ s) (k course member row : Nat) (refs : List Ref) :
    Stays ρ (programFailed s k course member row refs) := by
  unfold programFailed
  repeat' first
    | with_reducible assumption | extract_lets | with_reducible apply modMedia_stays | with_reducible apply retireBlock_stays | split
    | (intro _; intros; beta_reduce) | with_reducible refine Stays.same ?_ rfl rfl rfl rfl rfl rfl rfl rfl rfl

theorem commitAll_stays {ρ s : State} (hρ : Stays ρ s) : Stays ρ (commitAll s) := by
  unfold commitAll
  repeat' first
    | with_reducible assumption | extract_lets | with_reducible apply commitCourse_stays | with_reducible apply Stays.foldl | split
    | (intro _; intros; beta_reduce)

theorem pollLun_stays {ρ s : State} (hρ : Stays ρ s) (k : Nat) (a : PollAnswer) : Stays ρ (pollLun s k a) := by
  unfold pollLun
  repeat' first
    | with_reducible assumption | extract_lets | with_reducible apply commitAll_stays | with_reducible apply faultStatus_stays
    | with_reducible apply programFailed_stays | with_reducible apply endOp_stays | with_reducible apply setBlk_stays
    | with_reducible apply dieFailed_stays | with_reducible apply programPassed_stays | with_reducible apply erased_stays
    | with_reducible apply modLun_stays | with_reducible apply modHealth_stays | split | (intro _; intros; beta_reduce)
    | with_reducible refine Stays.same ?_ rfl rfl rfl rfl rfl rfl rfl rfl rfl

theorem cutChannel_stays {ρ s : State} (hρ : Stays ρ s) (ch : Nat) (abortReads : Bool) : Stays ρ (cutChannel s ch abortReads) := by
  unfold cutChannel
  repeat' first
    | with_reducible assumption | extract_lets | with_reducible apply endOp_stays | with_reducible apply retireBlock_stays
    | with_reducible apply modMedia_stays | with_reducible apply abortEntry_stays | with_reducible apply Stays.foldl | split
    | (intro _; intros; beta_reduce) | with_reducible refine Stays.same ?_ rfl rfl rfl rfl rfl rfl rfl rfl rfl

/-! ### Visible -/

theorem noteUsed_stays {ρ s : State} (hρ : Stays ρ s) (p first len : Nat) (trim : Bool) : Stays ρ (noteUsed s p first len trim) := by
  unfold noteUsed
  repeat' first
    | with_reducible assumption | extract_lets | with_reducible apply Stays.foldl | split | (intro _; intros; beta_reduce)
    | with_reducible refine Stays.same ?_ rfl rfl rfl rfl rfl rfl rfl rfl rfl

theorem placeWrite_stays {ρ s : State} (hρ : Stays ρ s) (j : Job) : Stays ρ (placeWrite s j) := by
  unfold placeWrite
  repeat' first
    | with_reducible assumption | extract_lets | with_reducible apply makeVisible_stays | with_reducible apply noteUsed_stays | split
    | with_reducible refine Stays.same ?_ rfl rfl rfl rfl rfl rfl rfl rfl rfl

theorem placeZero_stays {ρ s : State} (hρ : Stays ρ s) (j : Job) (trim : Bool) : Stays ρ (placeZero s j trim) := by
  unfold placeZero
  repeat' first
    | with_reducible assumption | extract_lets | with_reducible apply makeVisible_stays | with_reducible apply noteUsed_stays | split
    | with_reducible refine Stays.same ?_ rfl rfl rfl rfl rfl rfl rfl rfl rfl

theorem placeAppend_stays {ρ s : State} (hρ : Stays ρ s) (j : Job) : Stays ρ (placeAppend s j) := by
  unfold placeAppend
  repeat' first
    | with_reducible assumption | extract_lets | with_reducible apply complete_stays | with_reducible apply appendData_stays
    | with_reducible apply makeVisible_stays | split | with_reducible refine Stays.same ?_ rfl rfl rfl rfl rfl rfl rfl rfl rfl

theorem placeMark_stays {ρ s : State} (hρ : Stays ρ s) (j : Job) : Stays ρ (placeMark s j) := by
  unfold placeMark
  repeat' first
    | with_reducible assumption | extract_lets | with_reducible apply complete_stays | with_reducible apply endOrEmpty_stays
    | with_reducible apply makeVisible_stays | split | with_reducible refine Stays.same ?_ rfl rfl rfl rfl rfl rfl rfl rfl rfl

theorem placeFetched_stays {ρ s : State} (hρ : Stays ρ s) (j : Job) : Stays ρ (placeFetched s j) := by
  unfold placeFetched
  repeat' first
    | with_reducible assumption | extract_lets | with_reducible apply placeWrite_stays | with_reducible apply placeAppend_stays | split

/-! ### Stops -/

theorem requestAbort_stays {ρ s : State} (hρ : Stays ρ s) (pfail : Bool) : Stays ρ (requestAbort pfail s) := by
  unfold requestAbort
  repeat' first
    | with_reducible assumption | extract_lets | with_reducible apply setMason_stays | with_reducible apply Stays.foldl | split
    | (intro _; intros; beta_reduce) | with_reducible refine Stays.same ?_ rfl rfl rfl rfl rfl rfl rfl rfl rfl

theorem answerEntry_stays {ρ s : State} (hρ : Stays ρ s) (p : Packet) (status : Nat) : Stays ρ (answerEntry s p status) := by
  unfold answerEntry
  repeat' first
    | with_reducible assumption | extract_lets | with_reducible apply sendPkt_stays | split

theorem answerHeld_stays {ρ s : State} (hρ : Stays ρ s) : Stays ρ (answerHeld s) := by
  unfold answerHeld
  repeat' first
    | with_reducible assumption | extract_lets | with_reducible apply answerEntry_stays | with_reducible apply Stays.foldl | split
    | (intro _; intros; beta_reduce)

theorem stopBody_stays {ρ s : State} (hρ : Stays ρ s) (aflag cflag : Nat) (sealing hash : Bool) :
    Stays ρ (stopBody s aflag cflag sealing hash) := by
  unfold stopBody
  repeat' first
    | with_reducible assumption | extract_lets | with_reducible apply placeFetched_stays | with_reducible apply settleJobs_stays
    | with_reducible apply abortEntry_stays | with_reducible apply requestAbort_stays | with_reducible apply eachMov_stays
    | with_reducible apply movAbort_stays | with_reducible apply answerHeld_stays | with_reducible apply sealOpen_stays
    | with_reducible apply signalQueue_stays | with_reducible apply settle_stays | with_reducible apply Stays.foldl | split
    | with_reducible apply Stays.ite | (intro _; intros; beta_reduce)
    | with_reducible refine Stays.same ?_ rfl rfl rfl rfl rfl rfl rfl rfl rfl

theorem enterHalted_stays {ρ s : State} (hρ : Stays ρ s) (cause : BitVec 8) (detail : Nat) : Stays ρ (enterHalted s cause detail) := by
  unfold enterHalted
  repeat' first
    | with_reducible assumption | extract_lets | with_reducible apply recordCause_stays | with_reducible apply refresh_stays
    | with_reducible apply stopBody_stays | split | with_reducible refine Stays.same ?_ rfl rfl rfl rfl rfl rfl rfl rfl rfl
    | with_reducible refine Stays.rise ?_ rfl rfl rfl rfl rfl rfl id (fun _ => rfl) id

theorem portsDown_stays {ρ s : State} (hρ : Stays ρ s) : Stays ρ (portsDown s) := by
  unfold portsDown
  repeat' first
    | with_reducible assumption | extract_lets | split | (intro _; intros; beta_reduce)
    | with_reducible refine Stays.same ?_ rfl rfl rfl rfl rfl rfl rfl rfl rfl

theorem enterFailed_stays {ρ s : State} (hρ : Stays ρ s) (cause : BitVec 8) (detail : Nat) (hash : Bool) :
    Stays ρ (enterFailed s cause detail hash) := by
  unfold enterFailed
  repeat' first
    | with_reducible assumption | extract_lets | with_reducible apply recordCause_stays | with_reducible apply portsDown_stays
    | with_reducible apply refresh_stays | with_reducible apply stopBody_stays | split
    | with_reducible refine Stays.same ?_ rfl rfl rfl rfl rfl rfl rfl rfl rfl
    | with_reducible refine Stays.rise ?_ rfl rfl rfl rfl rfl rfl (fun _ => rfl) id id

theorem suspendErases_stays {ρ s : State} (hρ : Stays ρ s) : Stays ρ (suspendErases s) := by
  unfold suspendErases
  repeat' first
    | with_reducible assumption | extract_lets | with_reducible apply modMedia_stays | split | (intro _; intros; beta_reduce)
    | with_reducible refine Stays.same ?_ rfl rfl rfl rfl rfl rfl rfl rfl rfl

theorem dropCal_stays {ρ s0 : State} (hρ : Stays ρ s0) : Stays ρ (dropCal s0) := by
  unfold dropCal
  repeat' first
    | with_reducible assumption | extract_lets | with_reducible apply noteGen_stays | split
    | with_reducible refine Stays.same ?_ rfl rfl rfl rfl rfl rfl rfl rfl rfl

theorem startPowerFail_stays {ρ s : State} (hρ : Stays ρ s) (start : Nat) : Stays ρ (startPowerFail s start) := by
  unfold startPowerFail
  repeat' first
    | with_reducible assumption | extract_lets | with_reducible apply setIrq_stays | with_reducible apply wakeDomain_stays
    | with_reducible apply withdrawSwitch_stays | with_reducible apply dropCal_stays | with_reducible apply suspendErases_stays
    | with_reducible apply portsDown_stays | with_reducible apply requestAbort_stays | with_reducible apply eachMov_stays
    | with_reducible apply movPowerFail_stays | with_reducible apply Stays.foldl | split | (intro _; intros; beta_reduce)
    | with_reducible refine Stays.same ?_ rfl rfl rfl rfl rfl rfl rfl rfl rfl
    | with_reducible refine Stays.rise ?_ rfl rfl rfl rfl rfl rfl id id (fun _ => rfl)

theorem abandonCommands_stays {ρ s : State} (hρ : Stays ρ s) : PairStays ρ (abandonCommands s) := by
  unfold abandonCommands
  repeat' first
    | with_reducible assumption | extract_lets | with_reducible apply placeFetched_stays | simp only [PairStays.mk_iff]
    | with_reducible apply PairStays.fst | with_reducible refine PairStays.eq (by assumption) ?_ | with_reducible apply Stays.foldl
    | with_reducible apply PairStays.foldl | split | (intro _; intros; beta_reduce)
    | with_reducible refine Stays.same ?_ rfl rfl rfl rfl rfl rfl rfl rfl rfl

theorem hostReset_stays {ρ s : State} (hρ : Stays ρ s) (kind : Fin 3) : Stays ρ (hostReset s kind) := by
  unfold hostReset
  repeat' first
    | with_reducible assumption | extract_lets | with_reducible apply abandonCommands_stays | with_reducible apply detachMap_stays
    | with_reducible apply settle_stays | simp only [PairStays.mk_iff] | with_reducible apply PairStays.fst
    | with_reducible refine PairStays.eq (by assumption) ?_ | split | with_reducible apply Stays.ite
    | with_reducible refine Stays.same ?_ rfl rfl rfl rfl rfl rfl rfl rfl rfl

theorem enterOrphan_stays {ρ s : State} (hρ : Stays ρ s) : Stays ρ (enterOrphan s) := by
  unfold enterOrphan
  repeat' first
    | with_reducible assumption | extract_lets | with_reducible apply abandonCommands_stays | with_reducible apply settle_stays
    | with_reducible apply requestAbort_stays | with_reducible apply eachMov_stays | with_reducible apply movOrphan_stays
    | with_reducible apply detachMap_stays | simp only [PairStays.mk_iff] | with_reducible apply PairStays.fst
    | with_reducible refine PairStays.eq (by assumption) ?_ | split | (intro _; intros; beta_reduce)
    | with_reducible refine Stays.same ?_ rfl rfl rfl rfl rfl rfl rfl rfl rfl

theorem releaseWake_stays {ρ s : State} (hρ : Stays ρ s) : Stays ρ (releaseWake s) := by
  unfold releaseWake
  repeat' first
    | with_reducible assumption | extract_lets | split | with_reducible refine Stays.same ?_ rfl rfl rfl rfl rfl rfl rfl rfl rfl

theorem emptyFooting_stays {ρ s : State} (hρ : Stays ρ s) (id : Nat) : Stays ρ (emptyFooting s id) := by
  unfold emptyFooting
  repeat' first
    | with_reducible assumption | extract_lets | with_reducible apply setBlk_stays | with_reducible apply modMedia_stays
    | with_reducible apply Stays.foldl | split | (intro _; intros; beta_reduce)
    | with_reducible refine Stays.same ?_ rfl rfl rfl rfl rfl rfl rfl rfl rfl

theorem absorbFooting_stays {ρ s : State} (hρ : Stays ρ s) : Stays ρ (absorbFooting s) := by
  unfold absorbFooting
  repeat' first
    | with_reducible assumption | extract_lets | with_reducible apply setBlk_stays | with_reducible apply emptyFooting_stays
    | with_reducible apply modMedia_stays | with_reducible apply Stays.foldl | split | (intro _; intros; beta_reduce)
    | with_reducible refine Stays.same ?_ rfl rfl rfl rfl rfl rfl rfl rfl rfl

theorem newSystemArea_stays {ρ s : State} (hρ : Stays ρ s) : Stays ρ (newSystemArea s) := by
  unfold newSystemArea
  repeat' first
    | with_reducible assumption | extract_lets | split | with_reducible apply Stays.ite
    | with_reducible refine Stays.same ?_ rfl rfl rfl rfl rfl rfl rfl rfl rfl

/-! ### Queues -/

theorem evictOldest_stays {ρ s : State} (hρ : Stays ρ s) : Stays ρ (evictOldest s) := by
  unfold evictOldest
  repeat' first
    | with_reducible assumption | extract_lets | split | (intro _; intros; beta_reduce)
    | with_reducible refine Stays.same ?_ rfl rfl rfl rfl rfl rfl rfl rfl rfl

theorem keepCopy_stays {ρ s : State} (hρ : Stays ρ s) (q : Nat) (c : ScanCopy) : Stays ρ (keepCopy q s c) := by
  unfold keepCopy
  repeat' first
    | with_reducible assumption | extract_lets | with_reducible apply modQueue_stays | with_reducible apply evictOldest_stays | split
    | with_reducible apply Stays.ite | (intro _; intros; beta_reduce)
    | with_reducible refine Stays.same ?_ rfl rfl rfl rfl rfl rfl rfl rfl rfl

theorem fetch_stays {ρ s : State} (hρ : Stays ρ s) (b : Bus) (q n slot : Nat) : Stays ρ (fetch b q n slot s) := by
  unfold fetch
  repeat' first
    | with_reducible assumption | extract_lets | with_reducible apply modQueue_stays | with_reducible apply keepCopy_stays
    | with_reducible apply Stays.foldl | split | (intro _; intros; beta_reduce)
    | with_reducible refine Stays.same ?_ rfl rfl rfl rfl rfl rfl rfl rfl rfl

theorem disableQueue_stays {ρ s : State} (hρ : Stays ρ s) (q : Nat) : Stays ρ (disableQueue s q) := by
  unfold disableQueue
  repeat' first
    | with_reducible assumption | extract_lets | with_reducible apply modQueue_stays | split | (intro _; intros; beta_reduce)
    | with_reducible refine Stays.same ?_ rfl rfl rfl rfl rfl rfl rfl rfl rfl

theorem faultPolicy_stays {ρ s : State} (hρ : Stays ρ s) (q : Nat) : Stays ρ (faultPolicy s q) := by
  unfold faultPolicy
  repeat' first
    | with_reducible assumption | extract_lets | with_reducible apply enterHalted_stays | split
    | with_reducible refine Stays.same ?_ rfl rfl rfl rfl rfl rfl rfl rfl rfl

theorem queueFault_stays {ρ s : State} (hρ : Stays ρ s) (q what addr : Nat) : Stays ρ (queueFault s q what addr) := by
  unfold queueFault
  repeat' first
    | with_reducible assumption | extract_lets | with_reducible apply countBus_stays | with_reducible apply modQueue_stays
    | with_reducible apply disableQueue_stays | with_reducible apply faultPolicy_stays | with_reducible apply logEvent_stays | split
    | (intro _; intros; beta_reduce) | with_reducible refine Stays.same ?_ rfl rfl rfl rfl rfl rfl rfl rfl rfl

theorem malformed_stays {ρ s : State} (hρ : Stays ρ s) (j : Job) (status detail : Nat) : Stays ρ (malformed s j status detail) := by
  unfold malformed
  repeat' first
    | with_reducible assumption | extract_lets | with_reducible apply faultPolicy_stays | with_reducible apply complete_stays | split

theorem consumeSetTime_stays {ρ s : State} (hρ : Stays ρ s) (j : Job) : Stays ρ (consumeSetTime s j) := by
  unfold consumeSetTime
  repeat' first
    | with_reducible assumption | extract_lets | with_reducible apply setJob_stays | split
    | with_reducible refine Stays.same ?_ rfl rfl rfl rfl rfl rfl rfl rfl rfl

theorem countAdmitted_stays {ρ s : State} (hρ : Stays ρ s) (e : List Byte) : Stays ρ (countAdmitted s e) := by
  unfold countAdmitted
  repeat' first
    | with_reducible assumption | extract_lets | with_reducible apply modHealth_stays | with_reducible apply modMedia_stays | split
    | (intro _; intros; beta_reduce) | with_reducible refine Stays.same ?_ rfl rfl rfl rfl rfl rfl rfl rfl rfl

theorem startLocal_stays {ρ s : State} (hρ : Stays ρ s) (j : Job) : Stays ρ (startLocal s j) := by
  unfold startLocal
  repeat' first
    | with_reducible assumption | extract_lets | with_reducible apply modMedia_stays | with_reducible apply countAdmitted_stays
    | with_reducible apply setJob_stays | with_reducible apply complete_stays | split | with_reducible apply Stays.ite
    | (intro _; intros; beta_reduce) | with_reducible refine Stays.same ?_ rfl rfl rfl rfl rfl rfl rfl rfl rfl

theorem routeIo_stays {ρ s : State} (hρ : Stays ρ s) (j : Job) : Stays ρ (routeIo s j) := by
  unfold routeIo
  repeat' first
    | with_reducible assumption | extract_lets | with_reducible apply complete_stays | with_reducible apply startLocal_stays
    | with_reducible apply setJob_stays | with_reducible apply forward_stays | split
    | with_reducible refine Stays.same ?_ rfl rfl rfl rfl rfl rfl rfl rfl rfl

theorem judge_stays {ρ s : State} (hρ : Stays ρ s) (b : Bus) (j : Job) : Stays ρ (judge b s j) := by
  unfold judge
  repeat' first
    | with_reducible assumption | extract_lets | with_reducible apply malformed_stays | with_reducible apply countBus_stays
    | with_reducible apply setJob_stays | with_reducible apply consumeSetTime_stays | with_reducible apply routeIo_stays | split
    | with_reducible apply Stays.ite | with_reducible refine Stays.same ?_ rfl rfl rfl rfl rfl rfl rfl rfl rfl

theorem addJob_stays {ρ s : State} (hρ : Stays ρ s) (j : Job) : Stays ρ (addJob s j) := by
  unfold addJob
  repeat' first
    | with_reducible assumption | extract_lets | split | with_reducible refine Stays.same ?_ rfl rfl rfl rfl rfl rfl rfl rfl rfl

theorem consumeSlot_stays {ρ s : State} (hρ : Stays ρ s) (b : Bus) (q slot : Nat) (e : List Byte) :
    Stays ρ (consumeSlot b q slot e s) := by
  unfold consumeSlot
  repeat' first
    | with_reducible assumption | extract_lets | with_reducible apply modQueue_stays | with_reducible apply addJob_stays
    | with_reducible apply malformed_stays | with_reducible apply modHealth_stays | with_reducible apply setJob_stays
    | with_reducible apply judge_stays | split | (intro _; intros; beta_reduce)
    | with_reducible refine Stays.same ?_ rfl rfl rfl rfl rfl rfl rfl rfl rfl

theorem setScan_stays {ρ s : State} (hρ : Stays ρ s) (q : Nat) (x : ScanState) : Stays ρ (setScan s q x) := by
  unfold setScan
  repeat' first
    | with_reducible assumption | extract_lets | with_reducible apply modQueue_stays | split | (intro _; intros; beta_reduce)
    | with_reducible refine Stays.same ?_ rfl rfl rfl rfl rfl rfl rfl rfl rfl

theorem leaveScan_stays {ρ s : State} (hρ : Stays ρ s) (q : Nat) (x : ScanState) : Stays ρ (leaveScan s q x) := by
  unfold leaveScan
  repeat' first
    | with_reducible assumption | extract_lets | with_reducible apply modQueue_stays | split | (intro _; intros; beta_reduce)
    | with_reducible refine Stays.same ?_ rfl rfl rfl rfl rfl rfl rfl rfl rfl

theorem stopScan_stays {ρ s : State} (hρ : Stays ρ s) (q : Nat) : Stays ρ (stopScan s q) := by
  unfold stopScan
  repeat' first
    | with_reducible assumption | extract_lets | with_reducible apply queueFault_stays | with_reducible apply modQueue_stays | split
    | with_reducible refine Stays.same ?_ rfl rfl rfl rfl rfl rfl rfl rfl rfl

theorem visit_stays {ρ a2 : State} (hρ : Stays ρ a2) (b : Bus) (q : Nat) (a0 : Nat) (a1 : Nat) :
    Stays ρ (visit b q a0 a1 a2) := by
  induction a0 generalizing a2 a1 with
  | zero =>
    rw [visit]
    exact hρ
  | succ fuel ih =>
    rw [visit]
    repeat' first
      | with_reducible assumption | with_reducible apply ih | extract_lets | with_reducible apply leaveScan_stays
      | with_reducible apply queueFault_stays | with_reducible apply fetch_stays | with_reducible apply stopScan_stays
      | with_reducible apply settleJobs_stays | with_reducible apply consumeSlot_stays | split | (intro _; intros; beta_reduce)
      | with_reducible refine Stays.same ?_ rfl rfl rfl rfl rfl rfl rfl rfl rfl

theorem beginScan_stays {ρ s : State} (hρ : Stays ρ s) (b : Bus) (q left : Nat) : Stays ρ (beginScan b q left s) := by
  unfold beginScan
  repeat' first
    | with_reducible assumption | extract_lets | with_reducible apply visit_stays | with_reducible apply modQueue_stays
    | with_reducible apply queueFault_stays | with_reducible apply fetch_stays | split | with_reducible apply Stays.ite
    | (intro _; intros; beta_reduce) | with_reducible refine Stays.same ?_ rfl rfl rfl rfl rfl rfl rfl rfl rfl

theorem freeRx_stays {ρ s : State} (hρ : Stays ρ s) (port : Fin 3) (p : Packet) : Stays ρ (freeRx s port p) := by
  unfold freeRx
  repeat' first
    | with_reducible assumption | extract_lets | split | with_reducible refine Stays.same ?_ rfl rfl rfl rfl rfl rfl rfl rfl rfl

theorem visitCascade_stays {ρ a1 : State} (hρ : Stays ρ a1) (a0 : Nat) :
    Stays ρ (visitCascade a0 a1) := by
  induction a0 generalizing a1 with
  | zero =>
    rw [visitCascade]
    exact hρ
  | succ fuel ih =>
    rw [visitCascade]
    repeat' first
      | with_reducible assumption | with_reducible apply ih | extract_lets | with_reducible apply addJob_stays
      | with_reducible apply freeRx_stays | with_reducible apply settleJobs_stays | with_reducible apply routeIo_stays
      | with_reducible apply modQueue_stays | split | (intro _; intros; beta_reduce)
      | with_reducible refine Stays.same ?_ rfl rfl rfl rfl rfl rfl rfl rfl rfl

theorem giveCredit_stays {ρ s : State} (hρ : Stays ρ s) (fresh : Bool) : Stays ρ (giveCredit s fresh) := by
  unfold giveCredit
  repeat' first
    | with_reducible assumption | extract_lets | split | (intro _; intros; beta_reduce)
    | with_reducible refine Stays.same ?_ rfl rfl rfl rfl rfl rfl rfl rfl rfl

theorem visitIo_stays {ρ s : State} (hρ : Stays ρ s) (b : Bus) : Stays ρ (visitIo b s) := by
  unfold visitIo
  repeat' first
    | with_reducible assumption | extract_lets | with_reducible apply giveCredit_stays | with_reducible apply visitCascade_stays
    | with_reducible apply beginScan_stays | split | with_reducible apply Stays.ite
    | with_reducible refine Stays.same ?_ rfl rfl rfl rfl rfl rfl rfl rfl rfl

theorem execQueueScan_stays (bus : Bus) (s : State) : NextStays s (execQueueScan bus s) := by
  have hρ := Stays.refl s
  unfold execQueueScan
  repeat' first
    | with_reducible assumption | extract_lets | with_reducible apply NextStays.next | with_reducible apply absorbBus_stays
    | with_reducible apply settle_stays | with_reducible apply beginScan_stays | with_reducible apply visitIo_stays | split

theorem execScanResume_stays (q : Fin 4096) (s : State) : NextStays s (execScanResume q s) := by
  have hρ := Stays.refl s
  unfold execScanResume
  repeat' first
    | with_reducible assumption | extract_lets | with_reducible apply NextStays.next | with_reducible apply setScan_stays | split
    | with_reducible refine Stays.same ?_ rfl rfl rfl rfl rfl rfl rfl rfl rfl

theorem execDoorbell_stays (n : Fin 4096) (be : BitVec 4) (s : State) : NextStays s (execDoorbell n be s) := by
  have hρ := Stays.refl s
  unfold execDoorbell
  repeat' first
    | with_reducible assumption | extract_lets | with_reducible apply NextStays.next | with_reducible apply modQueue_stays
    | with_reducible apply ringQueue_stays | split | with_reducible apply Stays.ite | (intro _; intros; beta_reduce)
    | with_reducible refine Stays.same ?_ rfl rfl rfl rfl rfl rfl rfl rfl rfl

theorem settleRoom_stays {ρ s : State} (hρ : Stays ρ s) (j : Job) : Stays ρ (settleRoom s j) := by
  unfold settleRoom
  repeat' first
    | with_reducible assumption | extract_lets | with_reducible apply setJob_stays | split
    | with_reducible refine Stays.same ?_ rfl rfl rfl rfl rfl rfl rfl rfl rfl

theorem execEntryCrcReread_stays (q : Fin 4096) (count : Word) (bus : Bus) (s : State) :
    NextStays s (execEntryCrcReread q count bus s) := by
  have hρ := Stays.refl s
  unfold execEntryCrcReread
  repeat' first
    | with_reducible assumption | extract_lets | with_reducible apply NextStays.next | with_reducible apply absorbBus_stays
    | with_reducible apply settle_stays | with_reducible apply queueFault_stays | with_reducible apply complete_stays
    | with_reducible apply countBus_stays | with_reducible apply malformed_stays | with_reducible apply judge_stays
    | with_reducible apply setJob_stays | with_reducible apply settleRoom_stays | with_reducible apply setScan_stays | split
    | (intro _; intros; beta_reduce) | with_reducible refine Stays.same ?_ rfl rfl rfl rfl rfl rfl rfl rfl rfl

theorem execWriteVisible_stays (q : Fin 4097) (count : Word) (s : State) : NextStays s (execWriteVisible q count s) := by
  have hρ := Stays.refl s
  unfold execWriteVisible
  repeat' first
    | with_reducible assumption | extract_lets | with_reducible apply NextStays.next | with_reducible apply settle_stays
    | with_reducible apply placeFetched_stays | split | with_reducible refine Stays.same ?_ rfl rfl rfl rfl rfl rfl rfl rfl rfl

theorem execShadowWrite_stays (q : Fin 4096) (s : State) : NextStays s (execShadowWrite q s) := by
  have hρ := Stays.refl s
  unfold execShadowWrite
  repeat' first
    | with_reducible assumption | extract_lets | with_reducible apply NextStays.next | with_reducible apply writeShadow_stays | split
    | with_reducible refine Stays.same ?_ rfl rfl rfl rfl rfl rfl rfl rfl rfl

theorem execCoalTimeout_stays (q : Fin 4096) (s : State) : NextStays s (execCoalTimeout q s) := by
  have hρ := Stays.refl s
  unfold execCoalTimeout
  repeat' first
    | with_reducible assumption | extract_lets | with_reducible apply NextStays.next | with_reducible apply signalQueue_stays | split
    | with_reducible refine Stays.same ?_ rfl rfl rfl rfl rfl rfl rfl rfl rfl

end Sys2Proof.Machine
end

