-- ==== Sys2Proof/Laws/StaysIo.lean ====
section
/-! SUPPORT. `Stays` for the operations and commands of queue entries, spans and stream commands: one lemma an operation, from which the
invariants that every command outside the resets keeps follow by cases. -/

namespace Sys2Proof.Machine

/-! ### CommandOps -/

theorem finish_stays {ρ s : State} (hρ : Stays ρ s) (j : Job) (c : Compl) : Stays ρ (finish s j c) := by
  unfold finish
  repeat' first
    | with_reducible assumption | extract_lets | with_reducible apply settle_stays | with_reducible apply complete_stays | split

theorem finishWith_stays {ρ s : State} (hρ : Stays ρ s) (j : Job) (status : Nat) : Stays ρ (finishWith s j status) := by
  unfold finishWith
  repeat' first
    | with_reducible assumption | extract_lets | with_reducible apply finish_stays | split

theorem finishBus_stays {ρ s : State} (hρ : Stays ρ s) (j : Job) : Stays ρ (finishBus s j) := by
  unfold finishBus
  repeat' first
    | with_reducible assumption | extract_lets | with_reducible apply finishWith_stays | with_reducible apply spoil_stays
    | with_reducible apply countBus_stays | split

theorem sendSegs_stays {ρ s : State} (hρ : Stays ρ s) (type cls dest txn : Nat) (cs : List (List Byte)) :
    Stays ρ (sendSegs s type cls dest txn cs) := by
  unfold sendSegs
  repeat' first
    | with_reducible assumption | extract_lets | with_reducible apply sendPkt_stays | with_reducible apply Stays.foldl | split
    | (intro _; intros; beta_reduce)

theorem deliver_stays {ρ s : State} (hρ : Stays ρ s) (j : Job) (data : List Byte) (n : Nat) (c : Compl) :
    Stays ρ (deliver s j data n c) := by
  unfold deliver
  repeat' first
    | with_reducible assumption | extract_lets | with_reducible apply finish_stays | with_reducible apply sendSegs_stays
    | with_reducible apply scatter_stays | with_reducible apply finishBus_stays | simp only [PairStays.mk_iff]
    | with_reducible apply PairStays.fst | with_reducible refine PairStays.eq (by assumption) ?_ | split
    | with_reducible refine Stays.same ?_ rfl rfl rfl rfl rfl rfl rfl rfl rfl

theorem sendPulls_stays {ρ s : State} (hρ : Stays ρ s) (j : Job) (n : Nat) : Stays ρ (sendPulls s j n) := by
  unfold sendPulls
  repeat' first
    | with_reducible assumption | extract_lets | with_reducible apply sendPkt_stays | with_reducible apply Stays.foldl | split
    | (intro _; intros; beta_reduce) | with_reducible refine Stays.same ?_ rfl rfl rfl rfl rfl rfl rfl rfl rfl

theorem fetchData_stays {ρ s : State} (hρ : Stays ρ s) (b : Bus) (j : Job) (n : Nat) : Stays ρ (fetchData s b j n) := by
  unfold fetchData
  repeat' first
    | with_reducible assumption | extract_lets | with_reducible apply sendPulls_stays | with_reducible apply setJob_stays
    | with_reducible apply finishBus_stays | with_reducible apply settle_stays | split
    | with_reducible refine Stays.same ?_ rfl rfl rfl rfl rfl rfl rfl rfl rfl

/-! ### Spans -/

theorem modSpan_stays {ρ s : State} (hρ : Stays ρ s) (p : Nat) (f : Span → Span) : Stays ρ (modSpan s p f) := by
  unfold modSpan
  repeat' first
    | with_reducible assumption | extract_lets | split | with_reducible refine Stays.same ?_ rfl rfl rfl rfl rfl rfl rfl rfl rfl

theorem issueSubs_stays {ρ s : State} (hρ : Stays ρ s) (q : Nat) (c : Word) (rs : List SubReq) : PairStays ρ (issueSubs s q c rs) := by
  unfold issueSubs
  repeat' first
    | with_reducible assumption | extract_lets | with_reducible apply sendPkt_stays | simp only [PairStays.mk_iff]
    | with_reducible apply PairStays.fst | with_reducible refine PairStays.eq (by assumption) ?_ | with_reducible apply Stays.foldl
    | with_reducible apply PairStays.foldl | split | (intro _; intros; beta_reduce)
    | with_reducible refine Stays.same ?_ rfl rfl rfl rfl rfl rfl rfl rfl rfl

theorem setOp_stays {ρ s : State} (hρ : Stays ρ s) (o : SpanOp) : Stays ρ (setOp s o) := by
  unfold setOp
  repeat' first
    | with_reducible assumption | extract_lets | split | (intro _; intros; beta_reduce)
    | with_reducible refine Stays.same ?_ rfl rfl rfl rfl rfl rfl rfl rfl rfl

theorem dropOp_stays {ρ s : State} (hρ : Stays ρ s) (o : SpanOp) : Stays ρ (dropOp s o) := by
  unfold dropOp
  repeat' first
    | with_reducible assumption | extract_lets | split | (intro _; intros; beta_reduce)
    | with_reducible refine Stays.same ?_ rfl rfl rfl rfl rfl rfl rfl rfl rfl

theorem addOp_stays {ρ s : State} (hρ : Stays ρ s) (j : Option Job) (goal p : Nat) (stage : SpanStage) (rows : List Nat) :
    PairStays ρ (addOp s j goal p stage rows) := by
  unfold addOp
  repeat' first
    | with_reducible assumption | extract_lets | simp only [PairStays.mk_iff] | with_reducible apply PairStays.fst
    | with_reducible refine PairStays.eq (by assumption) ?_ | split
    | with_reducible refine Stays.same ?_ rfl rfl rfl rfl rfl rfl rfl rfl rfl

theorem runSubs_stays {ρ s : State} (hρ : Stays ρ s) (o : SpanOp) (stage : SpanStage) (rs : List SubReq) :
    Stays ρ (runSubs s o stage rs) := by
  unfold runSubs
  extract_lets j
  clear_value j
  repeat' first
    | with_reducible assumption | extract_lets | with_reducible apply issueSubs_stays | with_reducible apply setOp_stays
    | with_reducible apply setJob_stays | with_reducible refine PairStays.eq (by assumption) ?_ | split | with_reducible apply PairStays.fst

theorem recordRows_stays {ρ s : State} (hρ : Stays ρ s) (x : Span) (p : Nat) (rows : List Nat) : Stays ρ (recordRows s x p rows) := by
  unfold recordRows
  repeat' first
    | with_reducible assumption | extract_lets | with_reducible apply modSpan_stays | split | (intro _; intros; beta_reduce)
    | with_reducible refine Stays.same ?_ rfl rfl rfl rfl rfl rfl rfl rfl rfl

theorem spanRead_stays {ρ s : State} (hρ : Stays ρ s) (x : Span) (p : Nat) (j : Job) : Stays ρ (spanRead s x p j) := by
  unfold spanRead
  repeat' first
    | with_reducible assumption | extract_lets | with_reducible apply finishWith_stays | with_reducible apply finishBus_stays
    | with_reducible apply addOp_stays | with_reducible apply runSubs_stays | simp only [PairStays.mk_iff]
    | with_reducible apply PairStays.fst | with_reducible refine PairStays.eq (by assumption) ?_ | split | (intro _; intros; beta_reduce)

theorem spanEffect_stays {ρ s : State} (hρ : Stays ρ s) (x : Span) (o : SpanOp) (j : Job) : Stays ρ (spanEffect s x o j) := by
  unfold spanEffect
  repeat' first
    | with_reducible assumption | extract_lets | with_reducible apply finishWith_stays | with_reducible apply dropOp_stays
    | with_reducible apply runSubs_stays | with_reducible apply recordRows_stays | split | (intro _; intros; beta_reduce)

theorem passOn_stays {ρ s : State} (hρ : Stays ρ s) (o : SpanOp) (j : Job) (r : Option SubReq) : Stays ρ (passOn s o j r) := by
  unfold passOn
  repeat' first
    | with_reducible assumption | extract_lets | with_reducible apply runSubs_stays | with_reducible apply finishWith_stays
    | with_reducible apply dropOp_stays | split | with_reducible refine Stays.same ?_ rfl rfl rfl rfl rfl rfl rfl rfl rfl

theorem spanOpen_stays {ρ s : State} (hρ : Stays ρ s) (x : Span) (p : Nat) (j : Job) : Stays ρ (spanOpen s x p j) := by
  unfold spanOpen
  extract_lets e n h place j1 a
  clear_value place
  repeat' first
    | with_reducible assumption | extract_lets | with_reducible apply finishWith_stays | with_reducible apply addOp_stays
    | with_reducible apply setJob_stays | with_reducible apply passOn_stays | with_reducible refine PairStays.eq (by assumption) ?_ | split
    | with_reducible apply PairStays.fst | (intro _; intros; beta_reduce) | with_reducible refine Stays.same ?_ rfl rfl rfl rfl rfl rfl rfl rfl rfl

theorem spanStreamRead_stays {ρ s : State} (hρ : Stays ρ s) (x : Span) (p : Nat) (j : Job) : Stays ρ (spanStreamRead s x p j) := by
  unfold spanStreamRead
  repeat' first
    | with_reducible assumption | extract_lets | with_reducible apply finishWith_stays | with_reducible apply finishBus_stays
    | with_reducible apply addOp_stays | with_reducible apply passOn_stays | simp only [PairStays.mk_iff]
    | with_reducible apply PairStays.fst | with_reducible refine PairStays.eq (by assumption) ?_ | split
    | with_reducible refine Stays.same ?_ rfl rfl rfl rfl rfl rfl rfl rfl rfl

theorem spanByHandle_stays {ρ s : State} (hρ : Stays ρ s) (x : Span) (o : SpanOp) (j : Job) : Stays ρ (spanByHandle s x o j) := by
  unfold spanByHandle
  repeat' first
    | with_reducible assumption | extract_lets | with_reducible apply passOn_stays | with_reducible apply finishWith_stays
    | with_reducible apply dropOp_stays | split | with_reducible refine Stays.same ?_ rfl rfl rfl rfl rfl rfl rfl rfl rfl

theorem spanGo_stays {ρ s : State} (hρ : Stays ρ s) (j : Job) (d : List Byte) : Stays ρ (spanGo s j d) := by
  unfold spanGo
  repeat' first
    | with_reducible assumption | extract_lets | with_reducible apply finishWith_stays | with_reducible apply dropOp_stays
    | with_reducible apply spanByHandle_stays | with_reducible apply spanEffect_stays | with_reducible apply runSubs_stays | split
    | with_reducible apply Stays.ite | (intro _; intros; beta_reduce)
    | with_reducible refine Stays.same ?_ rfl rfl rfl rfl rfl rfl rfl rfl rfl

theorem spanFetch_stays {ρ s : State} (hρ : Stays ρ s) (b : Bus) (j : Job) (p : Nat) (rows : List Nat) (n : Nat) :
    Stays ρ (spanFetch s b j p rows n) := by
  unfold spanFetch
  repeat' first
    | with_reducible assumption | extract_lets | with_reducible apply addOp_stays | with_reducible apply spanGo_stays
    | with_reducible apply sendPulls_stays | with_reducible apply setJob_stays | with_reducible apply finishBus_stays
    | with_reducible apply dropOp_stays | simp only [PairStays.mk_iff] | with_reducible apply PairStays.fst
    | with_reducible refine PairStays.eq (by assumption) ?_ | split
    | with_reducible refine Stays.same ?_ rfl rfl rfl rfl rfl rfl rfl rfl rfl

theorem spanWrite_stays {ρ s : State} (hρ : Stays ρ s) (b : Bus) (x : Span) (p : Nat) (j : Job) : Stays ρ (spanWrite s b x p j) := by
  unfold spanWrite
  repeat' first
    | with_reducible assumption | extract_lets | with_reducible apply finishWith_stays | with_reducible apply spanFetch_stays
    | with_reducible apply absorbBus_stays | split

theorem spanFlushOne_stays {ρ s : State} (hρ : Stays ρ s) (j : Job) (p : Nat) (x : Span) : Stays ρ (spanFlushOne s j p x) := by
  unfold spanFlushOne
  repeat' first
    | with_reducible assumption | extract_lets | with_reducible apply finishWith_stays | with_reducible apply addOp_stays
    | with_reducible apply runSubs_stays | simp only [PairStays.mk_iff] | with_reducible apply PairStays.fst
    | with_reducible refine PairStays.eq (by assumption) ?_ | split | (intro _; intros; beta_reduce)
    | with_reducible refine Stays.same ?_ rfl rfl rfl rfl rfl rfl rfl rfl rfl

theorem spanFlush_stays {ρ s : State} (hρ : Stays ρ s) (j : Job) : Stays ρ (spanFlush s j) := by
  unfold spanFlush
  repeat' first
    | with_reducible assumption | extract_lets | with_reducible apply settle_stays | with_reducible apply spanFlushOne_stays
    | with_reducible apply setJob_stays | with_reducible apply Stays.foldl | split | (intro _; intros; beta_reduce)
    | with_reducible refine Stays.same ?_ rfl rfl rfl rfl rfl rfl rfl rfl rfl

theorem spanStart_stays {ρ s : State} (hρ : Stays ρ s) (b : Bus) (j : Job) : Stays ρ (spanStart s b j) := by
  unfold spanStart
  repeat' first
    | with_reducible assumption | extract_lets | with_reducible apply finishWith_stays | with_reducible apply spanRead_stays
    | with_reducible apply spanOpen_stays | with_reducible apply spanStreamRead_stays | with_reducible apply spanFetch_stays
    | with_reducible apply absorbBus_stays | with_reducible apply spanWrite_stays | split | with_reducible apply Stays.ite
    | with_reducible refine Stays.same ?_ rfl rfl rfl rfl rfl rfl rfl rfl rfl

theorem resyncNext_stays {ρ s : State} (hρ : Stays ρ s) (p : Nat) : Stays ρ (resyncNext s p) := by
  unfold resyncNext
  repeat' first
    | with_reducible assumption | extract_lets | with_reducible apply addOp_stays | with_reducible apply runSubs_stays
    | simp only [PairStays.mk_iff] | with_reducible apply PairStays.fst | with_reducible refine PairStays.eq (by assumption) ?_ | split
    | (intro _; intros; beta_reduce) | with_reducible refine Stays.same ?_ rfl rfl rfl rfl rfl rfl rfl rfl rfl

theorem resyncAll_stays {ρ s : State} (hρ : Stays ρ s) : Stays ρ (resyncAll s) := by
  unfold resyncAll
  repeat' first
    | with_reducible assumption | extract_lets | with_reducible apply resyncNext_stays | with_reducible apply Stays.foldl | split
    | (intro _; intros; beta_reduce)

theorem restoreMember_stays {ρ s : State} (hρ : Stays ρ s) (p k id : Nat) : Stays ρ (restoreMember s p k id) := by
  unfold restoreMember
  repeat' first
    | with_reducible assumption | extract_lets | with_reducible apply modSpan_stays | with_reducible apply logEvent_stays | split
    | (intro _; intros; beta_reduce) | with_reducible refine Stays.same ?_ rfl rfl rfl rfl rfl rfl rfl rfl rfl

theorem resyncStep_stays {ρ s : State} (hρ : Stays ρ s) (x : Span) (o : SpanOp) : Stays ρ (resyncStep s x o) := by
  unfold resyncStep
  extract_lets r ok
  clear_value ok
  repeat' first
    | with_reducible assumption | extract_lets | with_reducible apply runSubs_stays | with_reducible apply modSpan_stays
    | with_reducible apply dropOp_stays | with_reducible apply resyncNext_stays | with_reducible apply restoreMember_stays | split

theorem readDone_stays {ρ s : State} (hρ : Stays ρ s) (x : Span) (o : SpanOp) (j : Job) : Stays ρ (readDone s x o j) := by
  unfold readDone
  repeat' first
    | with_reducible assumption | extract_lets | with_reducible apply deliver_stays | with_reducible apply dropOp_stays
    | with_reducible apply finishWith_stays | split | (intro _; intros; beta_reduce)
    | with_reducible refine Stays.same ?_ rfl rfl rfl rfl rfl rfl rfl rfl rfl

theorem writeDone_stays {ρ s : State} (hρ : Stays ρ s) (x : Span) (o : SpanOp) (j : Job) : Stays ρ (writeDone s x o j) := by
  unfold writeDone
  repeat' first
    | with_reducible assumption | extract_lets | with_reducible apply finishWith_stays | with_reducible apply dropOp_stays
    | with_reducible apply modSpan_stays | with_reducible apply finish_stays | split | with_reducible apply Stays.ite
    | (intro _; intros; beta_reduce) | with_reducible refine Stays.same ?_ rfl rfl rfl rfl rfl rfl rfl rfl rfl

theorem streamDone_stays {ρ s : State} (hρ : Stays ρ s) (x : Span) (o : SpanOp) (j : Job) (y : SpanSub) (c : Compl) :
    Stays ρ (streamDone s x o j y c) := by
  unfold streamDone
  repeat' first
    | with_reducible assumption | extract_lets | with_reducible apply dropOp_stays | with_reducible apply deliver_stays
    | with_reducible apply finish_stays | with_reducible apply modSpan_stays | split | with_reducible apply Stays.ite
    | (intro _; intros; beta_reduce) | with_reducible refine Stays.same ?_ rfl rfl rfl rfl rfl rfl rfl rfl rfl

theorem flushAnswered_stays {ρ s : State} (hρ : Stays ρ s) (o : SpanOp) (j : Job) : Stays ρ (flushAnswered s o j) := by
  unfold flushAnswered
  repeat' first
    | with_reducible assumption | extract_lets | with_reducible apply finishWith_stays | with_reducible apply settle_stays
    | with_reducible apply dropOp_stays | with_reducible apply modSpan_stays | split | (intro _; intros; beta_reduce)
    | with_reducible refine Stays.same ?_ rfl rfl rfl rfl rfl rfl rfl rfl rfl

theorem spanStep_stays {ρ s : State} (hρ : Stays ρ s) (o : SpanOp) : Stays ρ (spanStep s o) := by
  unfold spanStep
  repeat' first
    | with_reducible assumption | extract_lets | with_reducible apply resyncStep_stays | with_reducible apply flushAnswered_stays
    | with_reducible apply finishWith_stays | with_reducible apply dropOp_stays | with_reducible apply spanEffect_stays
    | with_reducible apply readDone_stays | with_reducible apply resyncNext_stays | with_reducible apply writeDone_stays
    | with_reducible apply streamDone_stays | split | (intro _; intros; beta_reduce)
    | with_reducible refine Stays.same ?_ rfl rfl rfl rfl rfl rfl rfl rfl rfl

theorem spanData_stays {ρ s : State} (hρ : Stays ρ s) (o : SpanOp) (y : SpanSub) (d : List Byte) : Stays ρ (spanData s o y d) := by
  unfold spanData
  repeat' first
    | with_reducible assumption | extract_lets | with_reducible apply setOp_stays | split
    | with_reducible refine Stays.same ?_ rfl rfl rfl rfl rfl rfl rfl rfl rfl

theorem spanAnswer_stays {ρ s : State} (hρ : Stays ρ s) (o : SpanOp) (y : SpanSub) (c : Compl) : Stays ρ (spanAnswer s o y c) := by
  unfold spanAnswer
  repeat' first
    | with_reducible assumption | extract_lets | with_reducible apply answer_stays | with_reducible apply spanStep_stays
    | with_reducible apply setOp_stays | split | with_reducible refine Stays.same ?_ rfl rfl rfl rfl rfl rfl rfl rfl rfl

theorem spanLeft_stays {ρ s : State} (hρ : Stays ρ s) (left : Nat → Bool) (o : SpanOp) : Stays ρ (spanLeft s left o) := by
  unfold spanLeft
  repeat' first
    | with_reducible assumption | extract_lets | with_reducible apply dropOp_stays | with_reducible apply spanRead_stays
    | with_reducible apply spanGo_stays | with_reducible apply answer_stays | with_reducible apply modSpan_stays
    | with_reducible apply spanStep_stays | with_reducible apply setOp_stays | split | with_reducible apply Stays.ite
    | (intro _; intros; beta_reduce) | with_reducible refine Stays.same ?_ rfl rfl rfl rfl rfl rfl rfl rfl rfl

theorem spansLeft_stays {ρ s : State} (hρ : Stays ρ s) (left : Nat → Bool) : Stays ρ (spansLeft s left) := by
  unfold spansLeft
  repeat' first
    | with_reducible assumption | extract_lets | with_reducible apply spanLeft_stays | with_reducible apply Stays.foldl | split
    | (intro _; intros; beta_reduce)

/-! ### FlashReads -/

theorem countRead_stays {ρ s : State} (hρ : Stays ρ s) (fl : FlashRead) : Stays ρ (countRead s fl) := by
  unfold countRead
  repeat' first
    | with_reducible assumption | extract_lets | with_reducible apply modHealth_stays | split | (intro _; intros; beta_reduce)
    | with_reducible refine Stays.same ?_ rfl rfl rfl rfl rfl rfl rfl rfl rfl

theorem noteReads_stays {ρ s : State} (hρ : Stays ρ s) (rs : List Ref) : Stays ρ (noteReads s rs) := by
  unfold noteReads
  repeat' first
    | with_reducible assumption | extract_lets | with_reducible apply modMedia_stays | with_reducible apply Stays.foldl | split
    | (intro _; intros; beta_reduce) | with_reducible refine Stays.same ?_ rfl rfl rfl rfl rfl rfl rfl rfl rfl

theorem recordRetry_stays {ρ s : State} (hρ : Stays ρ s) (g n : Nat) : Stays ρ (recordRetry s g n) := by
  unfold recordRetry
  repeat' first
    | with_reducible assumption | extract_lets | split | with_reducible refine Stays.same ?_ rfl rfl rfl rfl rfl rfl rfl rfl rfl

theorem noteRetry_stays {ρ s : State} (hρ : Stays ρ s) (fl : FlashRead) (rs : List Ref) : Stays ρ (noteRetry s fl rs) := by
  unfold noteRetry
  repeat' first
    | with_reducible assumption | extract_lets | with_reducible apply recordRetry_stays | with_reducible apply Stays.foldl | split
    | (intro _; intros; beta_reduce) | with_reducible refine Stays.same ?_ rfl rfl rfl rfl rfl rfl rfl rfl rfl

theorem retireRebuilt_stays {ρ s : State} (hρ : Stays ρ s) (rs : List Ref) : Stays ρ (retireRebuilt s rs) := by
  unfold retireRebuilt
  repeat' first
    | with_reducible assumption | extract_lets | with_reducible apply retireBlock_stays | with_reducible apply Stays.foldl | split
    | (intro _; intros; beta_reduce) | with_reducible refine Stays.same ?_ rfl rfl rfl rfl rfl rfl rfl rfl rfl

theorem logLost_stays {ρ s : State} (hρ : Stays ρ s) (part kind stream first count : Nat) (r : Ref) :
    Stays ρ (logLost s part kind stream first count r) := by
  unfold logLost
  repeat' first
    | with_reducible assumption | extract_lets | with_reducible apply modMedia_stays | with_reducible apply logEvent_stays | split
    | (intro _; intros; beta_reduce) | with_reducible refine Stays.same ?_ rfl rfl rfl rfl rfl rfl rfl rfl rfl

theorem waitRetry_stays {ρ s : State} (hρ : Stays ρ s) (j : Job) (luns : List Nat) : OptStays ρ (waitRetry s j luns) := by
  unfold waitRetry
  repeat' first
    | with_reducible assumption | extract_lets | with_reducible apply modLun_stays | with_reducible exact OptStays.none
    | with_reducible apply OptStays.some | with_reducible apply OptStays.map | with_reducible apply OptStays.bind
    | with_reducible apply OptStays.foldl | with_reducible apply OptStays.getD | with_reducible refine OptStays.eq (by assumption) ?_
    | with_reducible apply Stays.foldl | split | (intro _; intros; beta_reduce)
    | with_reducible refine Stays.same ?_ rfl rfl rfl rfl rfl rfl rfl rfl rfl

theorem retryStep_stays {ρ s : State} (hρ : Stays ρ s) (j : Job) (g : FlashPage) : Stays ρ (retryStep s j g) := by
  unfold retryStep
  repeat' first
    | with_reducible assumption | extract_lets | with_reducible apply modLun_stays | split | (intro _; intros; beta_reduce)
    | with_reducible refine Stays.same ?_ rfl rfl rfl rfl rfl rfl rfl rfl rfl

theorem endRetry_stays {ρ s : State} (hρ : Stays ρ s) (k : Nat) (r : Retry) (hit : Ref → Bool) (rebuilt : Bool) :
    Stays ρ (endRetry s k r hit rebuilt) := by
  unfold endRetry
  repeat' first
    | with_reducible assumption | extract_lets | with_reducible apply modLun_stays | with_reducible apply recordRetry_stays | split
    | (intro _; intros; beta_reduce) | with_reducible refine Stays.same ?_ rfl rfl rfl rfl rfl rfl rfl rfl rfl

theorem dropTaken_stays {ρ s : State} (hρ : Stays ρ s) (j : Job) : Stays ρ (dropTaken s j) := by
  unfold dropTaken
  repeat' first
    | with_reducible assumption | extract_lets | with_reducible apply modMedia_stays | split | (intro _; intros; beta_reduce)
    | with_reducible refine Stays.same ?_ rfl rfl rfl rfl rfl rfl rfl rfl rfl

theorem wakeChannels_stays {ρ s : State} (hρ : Stays ρ s) (luns : List Nat) : Stays ρ (wakeChannels s luns) := by
  unfold wakeChannels
  repeat' first
    | with_reducible assumption | extract_lets | with_reducible apply wakeDomain_stays | with_reducible apply Stays.foldl | split
    | (intro _; intros; beta_reduce)

theorem useThresholds_stays {ρ s : State} (hρ : Stays ρ s) (blocks : List Nat) : Stays ρ (useThresholds s blocks) := by
  unfold useThresholds
  repeat' first
    | with_reducible assumption | extract_lets | with_reducible apply modLun_stays | with_reducible apply Stays.foldl | split
    | (intro _; intros; beta_reduce) | with_reducible refine Stays.same ?_ rfl rfl rfl rfl rfl rfl rfl rfl rfl

theorem reachFlash_stays {ρ s : State} (hρ : Stays ρ s) (j : Job) (pages : List (Nat × Nat)) (retry : Option FlashPage) :
    SumStays ρ (reachFlash s j pages retry) := by
  unfold reachFlash
  repeat' first
    | with_reducible assumption | extract_lets | with_reducible apply wakeChannels_stays | with_reducible apply waitRetry_stays
    | with_reducible apply retryStep_stays | with_reducible apply useThresholds_stays | with_reducible apply dropTaken_stays
    | with_reducible exact OptStays.none | with_reducible apply OptStays.some | with_reducible apply OptStays.map
    | with_reducible apply OptStays.bind | with_reducible apply OptStays.foldl | with_reducible apply OptStays.getD
    | with_reducible refine OptStays.eq (by assumption) ?_ | with_reducible apply SumStays.inl | with_reducible apply SumStays.inr
    | with_reducible refine SumStays.eqInl (by assumption) ?_ | with_reducible refine SumStays.eqInr (by assumption) ?_ | split
    | (intro _; intros; beta_reduce) | with_reducible refine Stays.same ?_ rfl rfl rfl rfl rfl rfl rfl rfl rfl

theorem readFlash_stays {ρ s : State} (hρ : Stays ρ s) (j : Job) (fl : FlashRead) (hit redo : Ref → Bool) (xs : List (Nat × Ref)) :
    SumStays ρ (readFlash s j fl hit redo xs) := by
  unfold readFlash
  repeat' first
    | with_reducible assumption | extract_lets | with_reducible apply reachFlash_stays | with_reducible apply noteReads_stays
    | with_reducible apply countRead_stays | with_reducible apply endRetry_stays | with_reducible apply noteRetry_stays
    | with_reducible apply retireRebuilt_stays | with_reducible apply SumStays.inl | with_reducible apply SumStays.inr
    | with_reducible refine SumStays.eqInl (by assumption) ?_ | with_reducible refine SumStays.eqInr (by assumption) ?_
    | with_reducible apply Stays.foldl | split | with_reducible apply Stays.ite | (intro _; intros; beta_reduce)
    | with_reducible refine Stays.same ?_ rfl rfl rfl rfl rfl rfl rfl rfl rfl

/-! ### IoCommands -/

theorem logLostUnits_stays {ρ s : State} (hρ : Stays ρ s) (p lbs : Nat) (us : List (Nat × Ref)) : Stays ρ (logLostUnits s p lbs us) := by
  unfold logLostUnits
  repeat' first
    | with_reducible assumption | extract_lets | with_reducible apply logLost_stays | with_reducible apply Stays.foldl | split
    | (intro _; intros; beta_reduce)

theorem readBlocks_stays {ρ s : State} (hρ : Stays ρ s) (j : Job) (fl : FlashRead) (p lbs first len : Nat) :
    Stays ρ (readBlocks s j fl p lbs first len) := by
  unfold readBlocks
  repeat' first
    | with_reducible assumption | extract_lets | with_reducible apply readFlash_stays | with_reducible apply deliver_stays
    | with_reducible apply logLostUnits_stays | with_reducible apply finishWith_stays
    | with_reducible refine SumStays.eqInl (by assumption) ?_ | with_reducible refine SumStays.eqInr (by assumption) ?_ | split
    | (intro _; intros; beta_reduce) | with_reducible refine Stays.same ?_ rfl rfl rfl rfl rfl rfl rfl rfl rfl

theorem execRead_stays (q : Fin 4097) (count : Word) (bus : Bus) (fl : FlashRead) (s : State) :
    NextStays s (execRead q count bus fl s) := by
  have hρ := Stays.refl s
  unfold execRead
  repeat' first
    | with_reducible assumption | extract_lets | with_reducible apply NextStays.next | with_reducible apply spanStart_stays
    | with_reducible apply absorbBus_stays | with_reducible apply finishWith_stays | with_reducible apply finishBus_stays
    | with_reducible apply readBlocks_stays | with_reducible apply takeLeaves_stays | split
    | with_reducible refine Stays.same ?_ rfl rfl rfl rfl rfl rfl rfl rfl rfl

theorem rangeLeaves_stays {ρ s : State} (hρ : Stays ρ s) (bus : Bus) (e : List Byte) : Stays ρ (rangeLeaves s bus e) := by
  unfold rangeLeaves
  repeat' first
    | with_reducible assumption | extract_lets | with_reducible apply takeLeaves_stays | split

theorem execWrite_stays (q : Fin 4097) (count : Word) (bus : Bus) (s : State) : NextStays s (execWrite q count bus s) := by
  have hρ := Stays.refl s
  unfold execWrite
  repeat' first
    | with_reducible assumption | extract_lets | with_reducible apply NextStays.next | with_reducible apply spanStart_stays
    | with_reducible apply finishWith_stays | with_reducible apply fetchData_stays | with_reducible apply rangeLeaves_stays
    | with_reducible apply absorbBus_stays | split | with_reducible refine Stays.same ?_ rfl rfl rfl rfl rfl rfl rfl rfl rfl

theorem execWriteZeroes_stays (q : Fin 4097) (count : Word) (bus : Bus) (s : State) : NextStays s (execWriteZeroes q count bus s) := by
  have hρ := Stays.refl s
  unfold execWriteZeroes
  repeat' first
    | with_reducible assumption | extract_lets | with_reducible apply NextStays.next | with_reducible apply spanStart_stays
    | with_reducible apply absorbBus_stays | with_reducible apply settle_stays | with_reducible apply placeZero_stays
    | with_reducible apply rangeLeaves_stays | with_reducible apply finishWith_stays | split
    | with_reducible refine Stays.same ?_ rfl rfl rfl rfl rfl rfl rfl rfl rfl

theorem execTrim_stays (q : Fin 4097) (count : Word) (bus : Bus) (s : State) : NextStays s (execTrim q count bus s) := by
  have hρ := Stays.refl s
  unfold execTrim
  repeat' first
    | with_reducible assumption | extract_lets | with_reducible apply NextStays.next | with_reducible apply spanStart_stays
    | with_reducible apply absorbBus_stays | with_reducible apply settle_stays | with_reducible apply placeZero_stays
    | with_reducible apply rangeLeaves_stays | with_reducible apply finishWith_stays | split
    | with_reducible refine Stays.same ?_ rfl rfl rfl rfl rfl rfl rfl rfl rfl

theorem execFlush_stays (q : Fin 4097) (count : Word) (s : State) : NextStays s (execFlush q count s) := by
  have hρ := Stays.refl s
  unfold execFlush
  repeat' first
    | with_reducible assumption | extract_lets | with_reducible apply NextStays.next | with_reducible apply spanFlush_stays
    | with_reducible apply settle_stays | split | with_reducible refine Stays.same ?_ rfl rfl rfl rfl rfl rfl rfl rfl rfl

theorem execFence_stays (q : Fin 4097) (count : Word) (s : State) : NextStays s (execFence q count s) := by
  have hρ := Stays.refl s
  unfold execFence
  repeat' first
    | with_reducible assumption | extract_lets | with_reducible apply NextStays.next | with_reducible apply settle_stays | split
    | with_reducible refine Stays.same ?_ rfl rfl rfl rfl rfl rfl rfl rfl rfl

theorem readRaw_stays {ρ s : State} (hρ : Stays ρ s) (j : Job) (cws : List CwResult) (retry : Option FlashPage) :
    Stays ρ (readRaw s j cws retry) := by
  unfold readRaw
  repeat' first
    | with_reducible assumption | extract_lets | with_reducible apply reachFlash_stays | with_reducible apply endRetry_stays
    | with_reducible apply deliver_stays | with_reducible refine SumStays.eqInl (by assumption) ?_
    | with_reducible refine SumStays.eqInr (by assumption) ?_ | with_reducible apply Stays.foldl | split | with_reducible apply Stays.ite
    | (intro _; intros; beta_reduce) | with_reducible refine Stays.same ?_ rfl rfl rfl rfl rfl rfl rfl rfl rfl

theorem execRawRead_stays (q : Fin 4097) (count : Word) (bus : Bus) (cws : List CwResult) (retry : Option FlashPage) (s : State) :
    NextStays s (execRawRead q count bus cws retry s) := by
  have hρ := Stays.refl s
  unfold execRawRead
  repeat' first
    | with_reducible assumption | extract_lets | with_reducible apply NextStays.next | with_reducible apply finishWith_stays
    | with_reducible apply finishBus_stays | with_reducible apply absorbBus_stays | with_reducible apply readRaw_stays | split
    | with_reducible refine Stays.same ?_ rfl rfl rfl rfl rfl rfl rfl rfl rfl

/-! ### StreamCommands -/

theorem createStream_stays {ρ s : State} (hρ : Stays ρ s) (j : Job) (p h : Nat) : Stays ρ (createStream s j p h) := by
  unfold createStream
  repeat' first
    | with_reducible assumption | extract_lets | with_reducible apply closeWith_stays | with_reducible apply settle_stays
    | with_reducible apply setJob_stays | split | (intro _; intros; beta_reduce)
    | with_reducible refine Stays.same ?_ rfl rfl rfl rfl rfl rfl rfl rfl rfl

theorem execStreamOpen_stays (q : Fin 4097) (count : Word) (s : State) : NextStays s (execStreamOpen q count s) := by
  have hρ := Stays.refl s
  unfold execStreamOpen
  repeat' first
    | with_reducible assumption | extract_lets | with_reducible apply NextStays.next | with_reducible apply spanStart_stays
    | with_reducible apply finishWith_stays | with_reducible apply createStream_stays | with_reducible apply finish_stays
    | with_reducible apply setStream_stays | split | with_reducible refine Stays.same ?_ rfl rfl rfl rfl rfl rfl rfl rfl rfl

theorem execStreamAppend_stays (q : Fin 4097) (count : Word) (bus : Bus) (s : State) : NextStays s (execStreamAppend q count bus s) := by
  have hρ := Stays.refl s
  unfold execStreamAppend
  repeat' first
    | with_reducible assumption | extract_lets | with_reducible apply NextStays.next | with_reducible apply spanStart_stays
    | with_reducible apply finishWith_stays | with_reducible apply fetchData_stays | with_reducible apply absorbBus_stays | split
    | with_reducible refine Stays.same ?_ rfl rfl rfl rfl rfl rfl rfl rfl rfl

theorem execStreamMark_stays (q : Fin 4097) (count : Word) (s : State) : NextStays s (execStreamMark q count s) := by
  have hρ := Stays.refl s
  unfold execStreamMark
  repeat' first
    | with_reducible assumption | extract_lets | with_reducible apply NextStays.next | with_reducible apply spanStart_stays
    | with_reducible apply finishWith_stays | with_reducible apply settle_stays | with_reducible apply placeMark_stays | split
    | with_reducible refine Stays.same ?_ rfl rfl rfl rfl rfl rfl rfl rfl rfl

theorem execStreamClose_stays (q : Fin 4097) (count : Word) (s : State) : NextStays s (execStreamClose q count s) := by
  have hρ := Stays.refl s
  unfold execStreamClose
  repeat' first
    | with_reducible assumption | extract_lets | with_reducible apply NextStays.next | with_reducible apply spanStart_stays
    | with_reducible apply finishWith_stays | with_reducible apply endOrEmpty_stays | with_reducible apply setStream_stays
    | with_reducible apply settle_stays | with_reducible apply setJob_stays | split
    | with_reducible refine Stays.same ?_ rfl rfl rfl rfl rfl rfl rfl rfl rfl

theorem readRecords_stays {ρ s : State} (hρ : Stays ρ s) (j : Job) (key : Nat) (t : Strm) (fl : FlashRead) :
    Stays ρ (readRecords s j key t fl) := by
  unfold readRecords
  repeat' first
    | with_reducible assumption | extract_lets | with_reducible apply finishWith_stays | with_reducible apply readFlash_stays
    | with_reducible apply deliver_stays | with_reducible apply logLost_stays | with_reducible refine SumStays.eqInl (by assumption) ?_
    | with_reducible refine SumStays.eqInr (by assumption) ?_ | with_reducible apply Stays.foldl | split | (intro _; intros; beta_reduce)
    | with_reducible refine Stays.same ?_ rfl rfl rfl rfl rfl rfl rfl rfl rfl

theorem logLostBytes_stays {ρ s : State} (hρ : Stays ρ s) (key : Nat) (r : Ref) : Stays ρ (logLostBytes s key r) := by
  unfold logLostBytes
  repeat' first
    | with_reducible assumption | extract_lets | with_reducible apply logLost_stays | split
    | with_reducible refine Stays.same ?_ rfl rfl rfl rfl rfl rfl rfl rfl rfl

theorem readStream_stays {ρ s : State} (hρ : Stays ρ s) (j : Job) (key : Nat) (t : Strm) (fl : FlashRead) :
    Stays ρ (readStream s j key t fl) := by
  unfold readStream
  repeat' first
    | with_reducible assumption | (extract_lets start stop gap dataEnd top d xs; clear_value gap dataEnd) | extract_lets
    | with_reducible apply finishWith_stays | with_reducible apply readFlash_stays | with_reducible apply logLostBytes_stays
    | with_reducible apply deliver_stays | with_reducible refine SumStays.eqInl (by assumption) ?_
    | with_reducible refine SumStays.eqInr (by assumption) ?_ | with_reducible apply Stays.foldl | split | (intro _; intros; beta_reduce)
    | with_reducible refine Stays.same ?_ rfl rfl rfl rfl rfl rfl rfl rfl rfl

theorem execStreamRead_stays (q : Fin 4097) (count : Word) (bus : Bus) (fl : FlashRead) (s : State) :
    NextStays s (execStreamRead q count bus fl s) := by
  have hρ := Stays.refl s
  unfold execStreamRead
  repeat' first
    | with_reducible assumption | extract_lets | with_reducible apply NextStays.next | with_reducible apply spanStart_stays
    | with_reducible apply absorbBus_stays | with_reducible apply finishWith_stays | with_reducible apply finishBus_stays
    | with_reducible apply readRecords_stays | with_reducible apply readStream_stays | split
    | with_reducible refine Stays.same ?_ rfl rfl rfl rfl rfl rfl rfl rfl rfl

theorem execAshlarTimeout_stays (part : Fin 32) (stream : BitVec 16) (s : State) : NextStays s (execAshlarTimeout part stream s) := by
  have hρ := Stays.refl s
  unfold execAshlarTimeout
  repeat' first
    | with_reducible assumption | extract_lets | with_reducible apply NextStays.next | with_reducible apply settle_stays
    | with_reducible apply endRunning_stays | split | with_reducible refine Stays.same ?_ rfl rfl rfl rfl rfl rfl rfl rfl rfl

theorem execCapstoneSigned_stays (s : State) : NextStays s (execCapstoneSigned s) := by
  have hρ := Stays.refl s
  unfold execCapstoneSigned
  repeat' first
    | with_reducible assumption | extract_lets | with_reducible apply NextStays.next | with_reducible apply wakeDomain_stays
    | with_reducible apply settle_stays | with_reducible apply setStream_stays | split
    | with_reducible refine Stays.same ?_ rfl rfl rfl rfl rfl rfl rfl rfl rfl

theorem releaseExpired_stays {ρ s : State} (hρ : Stays ρ s) : Stays ρ (releaseExpired s) := by
  unfold releaseExpired
  repeat' first
    | with_reducible assumption | extract_lets | with_reducible apply freeEmpty_stays | split | (intro _; intros; beta_reduce)
    | with_reducible refine Stays.same ?_ rfl rfl rfl rfl rfl rfl rfl rfl rfl

theorem execRetentionCheck_stays (s : State) : NextStays s (execRetentionCheck s) := by
  have hρ := Stays.refl s
  unfold execRetentionCheck
  repeat' first
    | with_reducible assumption | extract_lets | with_reducible apply NextStays.next | with_reducible apply releaseExpired_stays | split
    | with_reducible refine Stays.same ?_ rfl rfl rfl rfl rfl rfl rfl rfl rfl

end Sys2Proof.Machine
end

