-- ==== Sys2Proof/Laws/StaysAdmin.lean ====
section
/-! SUPPORT. `Stays` for the operations and commands of calibration, the MSP, the log pages, admin commands, media work, recovery and partitions: one lemma an operation, from which the
invariants that every command outside the resets keeps follow by cases. -/

namespace Sys2Proof.Machine

/-! ### CalOps -/

theorem setCap_stays {ρ s : State} (hρ : Stays ρ s) : Stays ρ (setCap s) := by
  unfold setCap
  repeat' first
    | with_reducible assumption | extract_lets | split | with_reducible refine Stays.same ?_ rfl rfl rfl rfl rfl rfl rfl rfl rfl

theorem requestCal_stays {ρ s0 : State} (hρ : Stays ρ s0) (kind : Nat) (us : List Nat) : Stays ρ (requestCal s0 kind us) := by
  unfold requestCal
  repeat' first
    | with_reducible assumption | extract_lets | with_reducible apply noteGen_stays | split
    | with_reducible refine Stays.same ?_ rfl rfl rfl rfl rfl rfl rfl rfl rfl

theorem requestKind_stays {ρ s : State} (hρ : Stays ρ s) (kind : Nat) : Stays ρ (requestKind s kind) := by
  unfold requestKind
  repeat' first
    | with_reducible assumption | extract_lets | with_reducible apply requestCal_stays | split

theorem tempTrigger_stays {ρ s : State} (hρ : Stays ρ s) : Stays ρ (tempTrigger s) := by
  unfold tempTrigger
  repeat' first
    | with_reducible assumption | extract_lets | with_reducible apply requestCal_stays | split | with_reducible apply Stays.ite
    | (intro _; intros; beta_reduce) | with_reducible refine Stays.same ?_ rfl rfl rfl rfl rfl rfl rfl rfl rfl

/-! ### Calibration -/

theorem endRun_stays {ρ s : State} (hρ : Stays ρ s) (kind : Nat) (agreed : Bool) : Stays ρ (endRun s kind agreed) := by
  unfold endRun
  repeat' first
    | with_reducible assumption | extract_lets | with_reducible apply settle_stays | with_reducible apply refresh_stays
    | with_reducible apply setIrq_stays | split | with_reducible refine Stays.same ?_ rfl rfl rfl rfl rfl rfl rfl rfl rfl

theorem degrade_stays {ρ s : State} (hρ : Stays ρ s) (kind unit consec : Nat) : Stays ρ (degrade s kind unit consec) := by
  unfold degrade
  repeat' first
    | with_reducible assumption | extract_lets | with_reducible apply refresh_stays | with_reducible apply logEvent_stays | split
    | with_reducible refine Stays.same ?_ rfl rfl rfl rfl rfl rfl rfl rfl rfl

theorem modRec_stays {ρ s : State} (hρ : Stays ρ s) (kind : Nat) (f : CalRec → CalRec) : Stays ρ (modRec s kind f) := by
  unfold modRec
  repeat' first
    | with_reducible assumption | extract_lets | split | with_reducible refine Stays.same ?_ rfl rfl rfl rfl rfl rfl rfl rfl rfl

theorem noteAccept_stays {ρ s : State} (hρ : Stays ρ s) (kind value : Nat) : Stays ρ (noteAccept s kind value) := by
  unfold noteAccept
  repeat' first
    | with_reducible assumption | extract_lets | with_reducible apply modRec_stays | split | (intro _; intros; beta_reduce)
    | with_reducible refine Stays.same ?_ rfl rfl rfl rfl rfl rfl rfl rfl rfl

theorem noteReject_stays {ρ s : State} (hρ : Stays ρ s) (kind unit a b : Nat) : Stays ρ (noteReject s kind unit a b) := by
  unfold noteReject
  repeat' first
    | with_reducible assumption | extract_lets | with_reducible apply modRec_stays | split | (intro _; intros; beta_reduce)
    | with_reducible refine Stays.same ?_ rfl rfl rfl rfl rfl rfl rfl rfl rfl

theorem closeRun_stays {ρ s : State} (hρ : Stays ρ s) (kind accepted : Nat) (rejected : List Nat) (stop : Bool) :
    Stays ρ (closeRun s kind accepted rejected stop) := by
  unfold closeRun
  repeat' first
    | with_reducible assumption | extract_lets | with_reducible apply noteAccept_stays | with_reducible apply endRun_stays | split
    | with_reducible apply Stays.ite | with_reducible refine Stays.same ?_ rfl rfl rfl rfl rfl rfl rfl rfl rfl

theorem trimUnit_stays {ρ s : State} (hρ : Stays ρ s) (u : Nat) (a b : Sweep) : PairStays ρ (trimUnit s u a b) := by
  unfold trimUnit
  repeat' first
    | with_reducible assumption | extract_lets | with_reducible apply noteReject_stays | with_reducible apply degrade_stays
    | simp only [PairStays.mk_iff] | with_reducible apply PairStays.fst | with_reducible refine PairStays.eq (by assumption) ?_ | split
    | with_reducible refine Stays.same ?_ rfl rfl rfl rfl rfl rfl rfl rfl rfl

theorem trimAll_stays {ρ a1 : State} (hρ : Stays ρ a1) (rs : List (Nat × Sweep × Sweep)) (a0 : List Nat) :
    PairStays ρ (trimAll rs a0 a1) := by
  induction a0 generalizing a1 with
  | nil =>
    rw [trimAll]
    exact .mk hρ
  | cons x xs ih =>
    rw [trimAll]
    repeat' first
      | with_reducible assumption | with_reducible apply ih | extract_lets | with_reducible apply trimUnit_stays
      | with_reducible refine PairStays.eq (by assumption) ?_ | split | simp only [PairStays.mk_iff] | with_reducible apply PairStays.fst

theorem execCalTrimRun_stays (results : List (Nat × Sweep × Sweep)) (s : State) : NextStays s (execCalTrimRun results s) := by
  have hρ := Stays.refl s
  unfold execCalTrimRun
  repeat' first
    | with_reducible assumption | extract_lets | with_reducible apply NextStays.next | with_reducible apply trimAll_stays
    | with_reducible apply closeRun_stays | simp only [PairStays.mk_iff] | with_reducible apply PairStays.fst
    | with_reducible refine PairStays.eq (by assumption) ?_ | split | (intro _; intros; beta_reduce)
    | with_reducible refine Stays.same ?_ rfl rfl rfl rfl rfl rfl rfl rfl rfl

theorem trackUnit_stays {ρ s : State} (hρ : Stays ρ s) (g : Nat) (a b : Search) : PairStays ρ (trackUnit s g a b) := by
  unfold trackUnit
  repeat' first
    | with_reducible assumption | extract_lets | with_reducible apply noteReject_stays | with_reducible apply degrade_stays
    | simp only [PairStays.mk_iff] | with_reducible apply PairStays.fst | with_reducible refine PairStays.eq (by assumption) ?_ | split
    | (intro _; intros; beta_reduce) | with_reducible refine Stays.same ?_ rfl rfl rfl rfl rfl rfl rfl rfl rfl

theorem trackAll_stays {ρ a1 : State} (hρ : Stays ρ a1) (rs : List (Nat × Search × Search)) (a0 : List Nat) :
    PairStays ρ (trackAll rs a0 a1) := by
  induction a0 generalizing a1 with
  | nil =>
    rw [trackAll]
    exact .mk hρ
  | cons x xs ih =>
    rw [trackAll]
    repeat' first
      | with_reducible assumption | with_reducible apply ih | extract_lets | with_reducible apply trackUnit_stays
      | with_reducible refine PairStays.eq (by assumption) ?_ | split | simp only [PairStays.mk_iff] | with_reducible apply PairStays.fst

theorem execCalTrackRun_stays (results : List (Nat × Search × Search)) (s : State) : NextStays s (execCalTrackRun results s) := by
  have hρ := Stays.refl s
  unfold execCalTrackRun
  repeat' first
    | with_reducible assumption | extract_lets | with_reducible apply NextStays.next | with_reducible apply trackAll_stays
    | with_reducible apply closeRun_stays | simp only [PairStays.mk_iff] | with_reducible apply PairStays.fst
    | with_reducible refine PairStays.eq (by assumption) ?_ | split | (intro _; intros; beta_reduce)
    | with_reducible refine Stays.same ?_ rfl rfl rfl rfl rfl rfl rfl rfl rfl

theorem setCalPin_stays {ρ s : State} (hρ : Stays ρ s) (v : Bool) : Stays ρ (setCalPin s v) := by
  unfold setCalPin
  repeat' first
    | with_reducible assumption | extract_lets | split | with_reducible refine Stays.same ?_ rfl rfl rfl rfl rfl rfl rfl rfl rfl

theorem startDischarge_stays {ρ s : State} (hρ : Stays ρ s) (second : Bool) (v0 : Nat) (first : Option Nat) :
    Stays ρ (startDischarge s second v0 first) := by
  unfold startDischarge
  repeat' first
    | with_reducible assumption | extract_lets | with_reducible apply setCalPin_stays | split
    | with_reducible refine Stays.same ?_ rfl rfl rfl rfl rfl rfl rfl rfl rfl

theorem concludeHold_stays {ρ s0 : State} (hρ : Stays ρ s0) (a b : Option Nat) : Stays ρ (concludeHold s0 a b) := by
  unfold concludeHold
  repeat' first
    | with_reducible assumption | extract_lets | with_reducible apply setCalPin_stays | with_reducible apply noteReject_stays
    | with_reducible apply endRun_stays | with_reducible apply degrade_stays | with_reducible apply setCap_stays
    | with_reducible apply noteAccept_stays | split | (intro _; intros; beta_reduce)
    | with_reducible refine Stays.same ?_ rfl rfl rfl rfl rfl rfl rfl rfl rfl

theorem endDischarge_stays {ρ s0 : State} (hρ : Stays ρ s0) (second : Bool) (v0 : Nat) (first c : Option Nat) :
    Stays ρ (endDischarge s0 second v0 first c) := by
  unfold endDischarge
  repeat' first
    | with_reducible assumption | extract_lets | with_reducible apply setCalPin_stays | with_reducible apply concludeHold_stays | split
    | with_reducible refine Stays.same ?_ rfl rfl rfl rfl rfl rfl rfl rfl rfl

theorem holdSample_stays {ρ s : State} (hρ : Stays ρ s) (code : Nat) : Stays ρ (holdSample s code) := by
  unfold holdSample
  repeat' first
    | with_reducible assumption | extract_lets | with_reducible apply endDischarge_stays | with_reducible apply startDischarge_stays
    | split | with_reducible refine Stays.same ?_ rfl rfl rfl rfl rfl rfl rfl rfl rfl

theorem execCalHoldupRun_stays (s : State) : NextStays s (execCalHoldupRun s) := by
  have hρ := Stays.refl s
  unfold execCalHoldupRun
  repeat' first
    | with_reducible assumption | extract_lets | with_reducible apply NextStays.next | with_reducible apply startDischarge_stays | split
    | with_reducible refine Stays.same ?_ rfl rfl rfl rfl rfl rfl rfl rfl rfl

theorem execHoldupDischargeTimeout_stays (s : State) : NextStays s (execHoldupDischargeTimeout s) := by
  have hρ := Stays.refl s
  unfold execHoldupDischargeTimeout
  repeat' first
    | with_reducible assumption | extract_lets | with_reducible apply NextStays.next | with_reducible apply endDischarge_stays | split
    | with_reducible refine Stays.same ?_ rfl rfl rfl rfl rfl rfl rfl rfl rfl

theorem execHoldupRechargeTimeout_stays (s : State) : NextStays s (execHoldupRechargeTimeout s) := by
  have hρ := Stays.refl s
  unfold execHoldupRechargeTimeout
  repeat' first
    | with_reducible assumption | extract_lets | with_reducible apply NextStays.next | with_reducible apply concludeHold_stays | split
    | with_reducible refine Stays.same ?_ rfl rfl rfl rfl rfl rfl rfl rfl rfl

theorem execHoldupConditionTimeout_stays (s : State) : NextStays s (execHoldupConditionTimeout s) := by
  have hρ := Stays.refl s
  unfold execHoldupConditionTimeout
  repeat' first
    | with_reducible assumption | extract_lets | with_reducible apply NextStays.next | with_reducible apply concludeHold_stays | split
    | with_reducible refine Stays.same ?_ rfl rfl rfl rfl rfl rfl rfl rfl rfl

theorem execCalRepeat_stays (kind : Fin 3) (s : State) : NextStays s (execCalRepeat kind s) := by
  have hρ := Stays.refl s
  unfold execCalRepeat
  repeat' first
    | with_reducible assumption | extract_lets | with_reducible apply NextStays.next | with_reducible apply requestCal_stays | split
    | with_reducible refine Stays.same ?_ rfl rfl rfl rfl rfl rfl rfl rfl rfl

theorem calCtrlWrite_stays {ρ s : State} (hρ : Stays ρ s) (v : Word) : Stays ρ (calCtrlWrite s v) := by
  unfold calCtrlWrite
  repeat' first
    | with_reducible assumption | extract_lets | with_reducible apply noteGen_stays | with_reducible apply requestKind_stays
    | with_reducible apply Stays.foldl | split | (intro _; intros; beta_reduce)
    | with_reducible refine Stays.same ?_ rfl rfl rfl rfl rfl rfl rfl rfl rfl

theorem calReq_stays {ρ s : State} (hρ : Stays ρ s) (v : Word) : Stays ρ (calReq s v) := by
  unfold calReq
  repeat' first
    | with_reducible assumption | extract_lets | with_reducible apply calCtrlWrite_stays | split

theorem execCalReqTrim_stays (value : Word) (s : State) : NextStays s (execCalReqTrim value s) := by
  have hρ := Stays.refl s
  unfold execCalReqTrim
  repeat' first
    | with_reducible assumption | extract_lets | with_reducible apply NextStays.next | with_reducible apply calReq_stays | split

theorem execCalReqTrack_stays (value : Word) (s : State) : NextStays s (execCalReqTrack value s) := by
  have hρ := Stays.refl s
  unfold execCalReqTrack
  repeat' first
    | with_reducible assumption | extract_lets | with_reducible apply NextStays.next | with_reducible apply calReq_stays | split

theorem execCalReqHoldup_stays (value : Word) (s : State) : NextStays s (execCalReqHoldup value s) := by
  have hρ := Stays.refl s
  unfold execCalReqHoldup
  repeat' first
    | with_reducible assumption | extract_lets | with_reducible apply NextStays.next | with_reducible apply calReq_stays | split

/-! ### Msp -/

theorem endBurn_stays {ρ s : State} (hρ : Stays ρ s) (word : Nat) (v : DWord) (clocks : Nat) (failing : DWord) :
    Stays ρ (endBurn s word v clocks failing) := by
  unfold endBurn
  repeat' first
    | with_reducible assumption | extract_lets | split | with_reducible refine Stays.same ?_ rfl rfl rfl rfl rfl rfl rfl rfl rfl
    | with_reducible refine Stays.burn _ _ ?_ rfl rfl rfl rfl rfl rfl rfl rfl

theorem endFrame_stays {ρ s : State} (hρ : Stays ρ s) : Stays ρ (endFrame s) := by
  unfold endFrame
  repeat' first
    | with_reducible assumption | extract_lets | with_reducible apply endBurn_stays | split
    | with_reducible refine Stays.same ?_ rfl rfl rfl rfl rfl rfl rfl rfl rfl

theorem answer_stays {ρ s : State} (hρ : Stays ρ s) (fstat : Nat) (d : Nat) (data : List Byte) : Stays ρ (answer s fstat d data) := by
  unfold answer
  repeat' first
    | with_reducible assumption | extract_lets | split | with_reducible refine Stays.same ?_ rfl rfl rfl rfl rfl rfl rfl rfl rfl

theorem deny_stays {ρ s : State} (hρ : Stays ρ s) (d : Nat) : Stays ρ (deny s d) := by
  unfold deny
  repeat' first
    | with_reducible assumption | extract_lets | with_reducible apply answer_stays | split
    | with_reducible refine Stays.same ?_ rfl rfl rfl rfl rfl rfl rfl rfl rfl

theorem execMspReadStatus_stays (arg hcrc : BitVec 16) (s : State) : NextStays s (execMspReadStatus arg hcrc s) := by
  have hρ := Stays.refl s
  unfold execMspReadStatus
  repeat' first
    | with_reducible assumption | extract_lets | with_reducible apply NextStays.next | with_reducible apply endFrame_stays
    | with_reducible apply answer_stays | split

theorem execMspReadId_stays (arg hcrc : BitVec 16) (s : State) : NextStays s (execMspReadId arg hcrc s) := by
  have hρ := Stays.refl s
  unfold execMspReadId
  repeat' first
    | with_reducible assumption | extract_lets | with_reducible apply NextStays.next | with_reducible apply endFrame_stays
    | with_reducible apply answer_stays | split

theorem execReadOtp_stays (arg hcrc : BitVec 16) (s : State) : NextStays s (execReadOtp arg hcrc s) := by
  have hρ := Stays.refl s
  unfold execReadOtp
  repeat' first
    | with_reducible assumption | extract_lets | with_reducible apply NextStays.next | with_reducible apply endFrame_stays
    | with_reducible apply answer_stays | split | (intro _; intros; beta_reduce)

theorem execReadSnapshot_stays (arg hcrc : BitVec 16) (s : State) : NextStays s (execReadSnapshot arg hcrc s) := by
  have hρ := Stays.refl s
  unfold execReadSnapshot
  repeat' first
    | with_reducible assumption | extract_lets | with_reducible apply NextStays.next | with_reducible apply endFrame_stays
    | with_reducible apply answer_stays | with_reducible apply deny_stays | split

theorem syncDisagree_stays {ρ s : State} (hρ : Stays ρ s) : Stays ρ (syncDisagree s) := by
  unfold syncDisagree
  repeat' first
    | with_reducible assumption | extract_lets | split | with_reducible refine Stays.same ?_ rfl rfl rfl rfl rfl rfl rfl rfl rfl

theorem setRequested_stays {ρ s : State} (hρ : Stays ρ s) (ch : BitVec 16) (fl : BitVec 8) : Stays ρ (setRequested s ch fl) := by
  unfold setRequested
  repeat' first
    | with_reducible assumption | extract_lets | with_reducible apply syncDisagree_stays | split
    | with_reducible refine Stays.same ?_ rfl rfl rfl rfl rfl rfl rfl rfl rfl

theorem orderFrame_stays {ρ s0 : State} (hρ : Stays ρ s0) (op : Nat) (setting : Bool) (arg : BitVec 16) (payload : Word) (hcrc :
    BitVec 16) : Stays ρ (orderFrame op setting arg payload hcrc s0) := by
  unfold orderFrame
  repeat' first
    | with_reducible assumption | extract_lets | with_reducible apply endFrame_stays | with_reducible apply answer_stays
    | with_reducible apply deny_stays | with_reducible apply setRequested_stays | split

theorem execOrderSet_stays (arg : BitVec 16) (payload : Word) (hcrc : BitVec 16) (s : State) :
    NextStays s (execOrderSet arg payload hcrc s) := by
  have hρ := Stays.refl s
  unfold execOrderSet
  repeat' first
    | with_reducible assumption | extract_lets | with_reducible apply NextStays.next | with_reducible apply orderFrame_stays | split

theorem execOrderClear_stays (arg : BitVec 16) (payload : Word) (hcrc : BitVec 16) (s : State) :
    NextStays s (execOrderClear arg payload hcrc s) := by
  have hρ := Stays.refl s
  unfold execOrderClear
  repeat' first
    | with_reducible assumption | extract_lets | with_reducible apply NextStays.next | with_reducible apply orderFrame_stays | split

theorem applyOrders_stays {ρ s : State} (hρ : Stays ρ s) (heldCh : BitVec 16) (heldFl : BitVec 8) :
    Stays ρ (applyOrders s heldCh heldFl) := by
  unfold applyOrders
  repeat' first
    | with_reducible assumption | extract_lets | with_reducible apply takeOffline_stays | with_reducible apply refresh_stays
    | with_reducible apply enterHalted_stays | with_reducible apply logEvent_stays | with_reducible apply syncDisagree_stays
    | with_reducible apply Stays.foldl | split | with_reducible apply Stays.ite | (intro _; intros; beta_reduce)
    | with_reducible refine Stays.same ?_ rfl rfl rfl rfl rfl rfl rfl rfl rfl

theorem execOrderApply_stays (s : State) : NextStays s (execOrderApply s) := by
  have hρ := Stays.refl s
  unfold execOrderApply
  repeat' first
    | with_reducible assumption | extract_lets | with_reducible apply NextStays.next | with_reducible apply applyOrders_stays | split

theorem execDisagreeTimeout_stays (s : State) : NextStays s (execDisagreeTimeout s) := by
  have hρ := Stays.refl s
  unfold execDisagreeTimeout
  repeat' first
    | with_reducible assumption | extract_lets | with_reducible apply NextStays.next | split
    | with_reducible refine Stays.same ?_ rfl rfl rfl rfl rfl rfl rfl rfl rfl

theorem execBurn_stays (arg : BitVec 16) (payload : DWord) (hcrc : BitVec 16) (s : State) :
    NextStays s (execBurn arg payload hcrc s) := by
  have hρ := Stays.refl s
  unfold execBurn
  repeat' first
    | with_reducible assumption | extract_lets | with_reducible apply NextStays.next | with_reducible apply endFrame_stays
    | with_reducible apply answer_stays | with_reducible apply deny_stays | split
    | with_reducible refine Stays.same ?_ rfl rfl rfl rfl rfl rfl rfl rfl rfl

theorem execMspBadOp_stays (op : Byte) (arg hcrc : BitVec 16) (s : State) : NextStays s (execMspBadOp op arg hcrc s) := by
  have hρ := Stays.refl s
  unfold execMspBadOp
  repeat' first
    | with_reducible assumption | extract_lets | with_reducible apply NextStays.next | with_reducible apply endFrame_stays
    | with_reducible apply answer_stays | split

theorem execMspCsRise_stays (clocks : Nat) (failing : DWord) (s : State) : NextStays s (execMspCsRise clocks failing s) := by
  have hρ := Stays.refl s
  unfold execMspCsRise
  repeat' first
    | with_reducible assumption | extract_lets | with_reducible apply NextStays.next | with_reducible apply endBurn_stays | split
    | with_reducible refine Stays.same ?_ rfl rfl rfl rfl rfl rfl rfl rfl rfl

theorem raiseTherm_stays {ρ s : State} (hρ : Stays ρ s) (firmware : Bool) : Stays ρ (raiseTherm s firmware) := by
  unfold raiseTherm
  repeat' first
    | with_reducible assumption | extract_lets | split | with_reducible apply Stays.ite
    | with_reducible refine Stays.same ?_ rfl rfl rfl rfl rfl rfl rfl rfl rfl
    | with_reducible refine Stays.burn _ _ ?_ rfl rfl rfl rfl rfl rfl rfl rfl

theorem execThermometerBurn_stays (firmware : Bool) (s : State) : NextStays s (execThermometerBurn firmware s) := by
  have hρ := Stays.refl s
  unfold execThermometerBurn
  repeat' first
    | with_reducible assumption | extract_lets | with_reducible apply NextStays.next | with_reducible apply raiseTherm_stays | split
    | with_reducible refine Stays.same ?_ rfl rfl rfl rfl rfl rfl rfl rfl rfl

/-! ### LogPages -/

theorem notePage_stays {ρ s : State} (hρ : Stays ρ s) (page part : Nat) : Stays ρ (notePage s page part) := by
  unfold notePage
  repeat' first
    | with_reducible assumption | extract_lets | split | with_reducible refine Stays.same ?_ rfl rfl rfl rfl rfl rfl rfl rfl rfl

/-! ### Admin -/

theorem finishSaved_stays {ρ s : State} (hρ : Stays ρ s) (j : Job) (result : Nat) : Stays ρ (finishSaved s j result) := by
  unfold finishSaved
  repeat' first
    | with_reducible assumption | extract_lets | with_reducible apply finish_stays | split

theorem finishOk_stays {ρ s : State} (hρ : Stays ρ s) (j : Job) (result : Nat) : Stays ρ (finishOk s j result) := by
  unfold finishOk
  repeat' first
    | with_reducible assumption | extract_lets | with_reducible apply finish_stays | split

theorem execIdentify_stays (count : Word) (bus : Bus) (s : State) : NextStays s (execIdentify count bus s) := by
  have hρ := Stays.refl s
  unfold execIdentify
  repeat' first
    | with_reducible assumption | (extract_lets e len cns body; clear_value body) | (extract_lets e len cns s0 body; clear_value body)
    | (extract_lets s0 e len cns body; clear_value body) | extract_lets | with_reducible apply NextStays.next
    | with_reducible apply finishWith_stays | with_reducible apply absorbBus_stays | with_reducible apply finishBus_stays
    | with_reducible apply deliver_stays | split | with_reducible refine Stays.same ?_ rfl rfl rfl rfl rfl rfl rfl rfl rfl

theorem execAttest_stays (count : Word) (bus : Bus) (s : State) : NextStays s (execAttest count bus s) := by
  have hρ := Stays.refl s
  unfold execAttest
  repeat' first
    | with_reducible assumption | with_reducible apply wakeDomain_stays | extract_lets | with_reducible apply NextStays.next | with_reducible apply absorbBus_stays
    | with_reducible apply finishBus_stays | with_reducible apply deliver_stays | split
    | with_reducible refine Stays.same ?_ rfl rfl rfl rfl rfl rfl rfl rfl rfl

theorem execCreateQueue_stays (count : Word) (s : State) : NextStays s (execCreateQueue count s) := by
  have hρ := Stays.refl s
  unfold execCreateQueue
  repeat' first
    | with_reducible assumption | extract_lets | with_reducible apply NextStays.next | with_reducible apply finishWith_stays
    | with_reducible apply writeShadow_stays | with_reducible apply finishOk_stays | split
    | with_reducible refine Stays.same ?_ rfl rfl rfl rfl rfl rfl rfl rfl rfl

theorem reclaim_stays {ρ a1 : State} (hρ : Stays ρ a1) (b : Bus) (q a0 a2 : Nat) : PairStays ρ (reclaim b q a0 a1 a2) := by
  induction a0 generalizing a1 a2 with
  | zero =>
    rw [reclaim]
    exact .mk hρ
  | succ fuel ih =>
    rw [reclaim]
    repeat' first
      | with_reducible assumption | with_reducible apply ih | extract_lets | with_reducible apply queueFault_stays
      | with_reducible apply modQueue_stays | with_reducible apply complete_stays | with_reducible apply addJob_stays | split
      | simp only [PairStays.mk_iff]

theorem execDisableQueue_stays (count : Word) (bus : Bus) (s : State) : NextStays s (execDisableQueue count bus s) := by
  have hρ := Stays.refl s
  unfold execDisableQueue
  repeat' first
    | with_reducible assumption | extract_lets | with_reducible apply NextStays.next | with_reducible apply finishWith_stays
    | with_reducible apply finishOk_stays | with_reducible apply absorbBus_stays | with_reducible apply disableQueue_stays
    | with_reducible apply reclaim_stays | with_reducible apply settle_stays | with_reducible apply setJob_stays
    | simp only [PairStays.mk_iff] | with_reducible apply PairStays.fst | with_reducible refine PairStays.eq (by assumption) ?_ | split
    | with_reducible apply Stays.ite | with_reducible refine Stays.same ?_ rfl rfl rfl rfl rfl rfl rfl rfl rfl

theorem execDestroyQueue_stays (count : Word) (s : State) : NextStays s (execDestroyQueue count s) := by
  have hρ := Stays.refl s
  unfold execDestroyQueue
  repeat' first
    | with_reducible assumption | extract_lets | with_reducible apply NextStays.next | with_reducible apply finishWith_stays
    | with_reducible apply finishOk_stays | split | with_reducible refine Stays.same ?_ rfl rfl rfl rfl rfl rfl rfl rfl rfl

theorem execQueryQueue_stays (count : Word) (s : State) : NextStays s (execQueryQueue count s) := by
  have hρ := Stays.refl s
  unfold execQueryQueue
  repeat' first
    | with_reducible assumption | extract_lets | with_reducible apply NextStays.next | with_reducible apply finishWith_stays
    | with_reducible apply finish_stays | split | with_reducible refine Stays.same ?_ rfl rfl rfl rfl rfl rfl rfl rfl rfl

theorem execSetTime_stays (count : Word) (s : State) : NextStays s (execSetTime count s) := by
  have hρ := Stays.refl s
  unfold execSetTime
  repeat' first
    | with_reducible assumption | extract_lets | with_reducible apply NextStays.next | with_reducible apply finishOk_stays
    | with_reducible apply releaseExpired_stays | split | with_reducible refine Stays.same ?_ rfl rfl rfl rfl rfl rfl rfl rfl rfl

theorem execGetLog_stays (count : Word) (bus : Bus) (s : State) : NextStays s (execGetLog count bus s) := by
  have hρ := Stays.refl s
  unfold execGetLog
  repeat' first
    | with_reducible assumption | extract_lets | with_reducible apply NextStays.next | with_reducible apply finishWith_stays
    | with_reducible apply notePage_stays | with_reducible apply absorbBus_stays | with_reducible apply finishBus_stays
    | with_reducible apply deliver_stays | split | with_reducible refine Stays.same ?_ rfl rfl rfl rfl rfl rfl rfl rfl rfl

theorem putFeature_stays {ρ s : State} (hρ : Stays ρ s) (id p v : Nat) : Stays ρ (putFeature s id p v) := by
  unfold putFeature
  repeat' first
    | with_reducible assumption | extract_lets | with_reducible apply noteGen_stays | split | (intro _; intros; beta_reduce)
    | with_reducible refine Stays.same ?_ rfl rfl rfl rfl rfl rfl rfl rfl rfl

theorem execSetFeature_stays (count : Word) (s : State) : NextStays s (execSetFeature count s) := by
  have hρ := Stays.refl s
  unfold execSetFeature
  repeat' first
    | with_reducible assumption | extract_lets | with_reducible apply NextStays.next | with_reducible apply finishWith_stays
    | with_reducible apply finishSaved_stays | with_reducible apply putFeature_stays | split
    | with_reducible refine Stays.same ?_ rfl rfl rfl rfl rfl rfl rfl rfl rfl

theorem execGetFeature_stays (count : Word) (s : State) : NextStays s (execGetFeature count s) := by
  have hρ := Stays.refl s
  unfold execGetFeature
  repeat' first
    | with_reducible assumption | extract_lets | with_reducible apply NextStays.next | with_reducible apply finishWith_stays
    | with_reducible apply finishOk_stays | split | with_reducible refine Stays.same ?_ rfl rfl rfl rfl rfl rfl rfl rfl rfl

/-! ### Media -/

theorem execFlashStatusPoll_stays (lun : LunId) (answer : PollAnswer) (s : State) : NextStays s (execFlashStatusPoll lun answer s) := by
  have hρ := Stays.refl s
  unfold execFlashStatusPoll
  repeat' first
    | with_reducible assumption | extract_lets | with_reducible apply NextStays.next | with_reducible apply settle_stays
    | with_reducible apply pollLun_stays | with_reducible apply answer_stays | split

theorem execFlashResume_stays (lun : LunId) (fail : Bool) (s : State) : NextStays s (execFlashResume lun fail s) := by
  have hρ := Stays.refl s
  unfold execFlashResume
  repeat' first
    | with_reducible assumption | extract_lets | with_reducible apply NextStays.next | with_reducible apply modLun_stays
    | with_reducible apply settle_stays | with_reducible apply faultStatus_stays | split | (intro _; intros; beta_reduce)
    | with_reducible refine Stays.same ?_ rfl rfl rfl rfl rfl rfl rfl rfl rfl

theorem eraseBlocks_stays {ρ s : State} (hρ : Stays ρ s) (ks : List Nat) : Stays ρ (eraseBlocks s ks) := by
  unfold eraseBlocks
  repeat' first
    | with_reducible assumption | extract_lets | with_reducible apply erased_stays | with_reducible apply Stays.foldl | split
    | (intro _; intros; beta_reduce)

theorem noteVictim_stays {ρ s : State} (hρ : Stays ρ s) (v : Nat) : Stays ρ (noteVictim s v) := modMedia_stays hρ _

theorem execGcReclaim_stays (s : State) : NextStays s (execGcReclaim s) := by
  have hρ := Stays.refl s
  unfold execGcReclaim
  repeat' first
    | with_reducible assumption | extract_lets | with_reducible apply NextStays.next | with_reducible apply emptyCourse_stays
    | with_reducible apply noteVictim_stays | with_reducible apply eraseBlocks_stays | with_reducible exact OptStays.none
    | with_reducible apply OptStays.some | with_reducible apply OptStays.map | with_reducible apply OptStays.bind
    | with_reducible apply OptStays.foldl | with_reducible apply OptStays.getD | with_reducible refine OptStays.eq (by assumption) ?_
    | split | with_reducible refine Stays.same ?_ rfl rfl rfl rfl rfl rfl rfl rfl rfl

theorem wornCourse_stays {ρ s : State} (hρ : Stays ρ s) (cold : Bool) : Stays ρ (wornCourse s cold) := by
  unfold wornCourse
  repeat' first
    | with_reducible assumption | extract_lets | with_reducible apply formCourse_stays | split | (intro _; intros; beta_reduce)

theorem openWorn_stays {ρ s : State} (hρ : Stays ρ s) (id : Nat) : Stays ρ (openWorn s id) := by
  unfold openWorn
  extract_lets valid s1
  have h1 : Stays ρ s1 := by
    unfold s1
    split
    · exact wornCourse_stays hρ true
    · exact hρ
  split
  · exact wornCourse_stays h1 false
  · exact h1

theorem execWearLevel_stays (s : State) : NextStays s (execWearLevel s) := by
  have hρ := Stays.refl s
  unfold execWearLevel
  repeat' first
    | with_reducible assumption | extract_lets | with_reducible apply NextStays.next | with_reducible apply emptyCourse_stays
    | with_reducible apply openWorn_stays | with_reducible exact OptStays.none | with_reducible apply OptStays.some
    | with_reducible apply OptStays.map | with_reducible apply OptStays.bind | with_reducible apply OptStays.foldl
    | with_reducible apply OptStays.getD | with_reducible refine OptStays.eq (by assumption) ?_ | split
    | with_reducible refine Stays.same ?_ rfl rfl rfl rfl rfl rfl rfl rfl rfl

theorem execRefresh_stays (lun : LunId) (block : BitVec 20) (_soft3 : Bool) (s : State) :
    NextStays s (execRefresh lun block _soft3 s) := by
  have hρ := Stays.refl s
  unfold execRefresh
  repeat' first
    | with_reducible assumption | extract_lets | with_reducible apply NextStays.next | with_reducible apply settle_stays
    | with_reducible apply freeEmpty_stays | with_reducible apply retireBlock_stays | split
    | with_reducible refine Stays.same ?_ rfl rfl rfl rfl rfl rfl rfl rfl rfl

theorem execFootingFold_stays (s : State) : NextStays s (execFootingFold s) := by
  have hρ := Stays.refl s
  unfold execFootingFold
  repeat' first
    | with_reducible assumption | extract_lets | with_reducible apply NextStays.next | with_reducible apply emptyCourse_stays
    | with_reducible exact OptStays.none | with_reducible apply OptStays.some | with_reducible apply OptStays.map
    | with_reducible apply OptStays.bind | with_reducible apply OptStays.foldl | with_reducible apply OptStays.getD
    | with_reducible refine OptStays.eq (by assumption) ?_ | split | (intro _; intros; beta_reduce)
    | with_reducible refine Stays.same ?_ rfl rfl rfl rfl rfl rfl rfl rfl rfl

theorem execDieRelocate_stays (s : State) : NextStays s (execDieRelocate s) := by
  have hρ := Stays.refl s
  unfold execDieRelocate
  repeat' first
    | with_reducible assumption | extract_lets | with_reducible apply NextStays.next | with_reducible apply placeMoved_stays
    | with_reducible apply refresh_stays | with_reducible apply freeEmpty_stays | with_reducible apply modMedia_stays
    | with_reducible exact OptStays.none | with_reducible apply OptStays.some | with_reducible apply OptStays.map
    | with_reducible apply OptStays.bind | with_reducible apply OptStays.foldl | with_reducible apply OptStays.getD
    | with_reducible refine OptStays.eq (by assumption) ?_ | split | (intro _; intros; beta_reduce)
    | with_reducible refine Stays.same ?_ rfl rfl rfl rfl rfl rfl rfl rfl rfl

theorem execBlockErase_stays (s : State) : NextStays s (execBlockErase s) := by
  have hρ := Stays.refl s
  unfold execBlockErase
  repeat' first
    | with_reducible assumption | extract_lets | with_reducible apply NextStays.next | with_reducible apply eraseBlocks_stays
    | with_reducible apply freeEmpty_stays | split

theorem commitHealth_stays {ρ s : State} (hρ : Stays ρ s) : Stays ρ (commitHealth s) := by
  unfold commitHealth
  repeat' first
    | with_reducible assumption | extract_lets | split | with_reducible refine Stays.same ?_ rfl rfl rfl rfl rfl rfl rfl rfl rfl

theorem commitUnmapped_stays {ρ s : State} (hρ : Stays ρ s) : Stays ρ (commitUnmapped s) := by
  unfold commitUnmapped
  repeat' first
    | with_reducible assumption | extract_lets | with_reducible apply commitRef_stays | with_reducible apply Stays.foldl | split
    | (intro _; intros; beta_reduce) | with_reducible refine Stays.same ?_ rfl rfl rfl rfl rfl rfl rfl rfl rfl

theorem writePlinth_stays {ρ s : State} (hρ : Stays ρ s) : Stays ρ (writePlinth s) := by
  unfold writePlinth
  repeat' first
    | with_reducible assumption | extract_lets | with_reducible apply flushLeaves_stays | with_reducible apply commitUnmapped_stays
    | with_reducible apply commitHealth_stays | split | (intro _; intros; beta_reduce)
    | with_reducible refine Stays.same ?_ rfl rfl rfl rfl rfl rfl rfl rfl rfl

theorem execPlinthWrite_stays (s : State) : NextStays s (execPlinthWrite s) := by
  have hρ := Stays.refl s
  unfold execPlinthWrite
  repeat' first
    | with_reducible assumption | extract_lets | with_reducible apply NextStays.next | with_reducible apply settle_stays
    | with_reducible apply writePlinth_stays | split

theorem execHealthCommit_stays (s : State) : NextStays s (execHealthCommit s) := by
  have hρ := Stays.refl s
  unfold execHealthCommit
  repeat' first
    | with_reducible assumption | extract_lets | with_reducible apply NextStays.next | with_reducible apply commitHealth_stays | split

theorem execOverdrivePeriod_stays (waited : Bool) (bgBytes gcShare : Nat) (s : State) :
    NextStays s (execOverdrivePeriod waited bgBytes gcShare s) := by
  have hρ := Stays.refl s
  unfold execOverdrivePeriod
  repeat' first
    | with_reducible assumption | extract_lets | with_reducible apply NextStays.next | with_reducible apply setIrq_stays | split
    | with_reducible apply Stays.ite | with_reducible refine Stays.same ?_ rfl rfl rfl rfl rfl rfl rfl rfl rfl

/-! ### Recovery -/

theorem logFractureRec_stays {ρ s : State} (hρ : Stays ρ s) (key : Nat) (b : List Byte) : Stays ρ (logFractureRec s key b) := by
  unfold logFractureRec
  repeat' first
    | with_reducible assumption | extract_lets | with_reducible apply logEvent_stays | split

theorem replayAll_stays {ρ s0 : State} (hρ : Stays ρ s0) (ad log : Bool) : Stays ρ (replayAll s0 ad log) := by
  unfold replayAll
  repeat' first
    | with_reducible assumption | extract_lets | with_reducible apply setStream_stays | with_reducible apply logFractureRec_stays
    | with_reducible apply Stays.foldl | split | with_reducible apply Stays.ite | (intro _; intros; beta_reduce)
    | with_reducible refine Stays.same ?_ rfl rfl rfl rfl rfl rfl rfl rfl rfl

theorem logLostAckEntry_stays {ρ s : State} (hρ : Stays ρ s) (part flags first count boot : Nat) :
    Stays ρ (logLostAckEntry s part flags first count boot) := by
  unfold logLostAckEntry
  repeat' first
    | with_reducible assumption | extract_lets | with_reducible apply logEvent_stays | with_reducible apply modHealth_stays | split
    | (intro _; intros; beta_reduce) | with_reducible refine Stays.same ?_ rfl rfl rfl rfl rfl rfl rfl rfl rfl

theorem logRangeUnknown_stays {ρ s : State} (hρ : Stays ρ s) (blind : Bool) : Stays ρ (logRangeUnknown blind s) := by
  unfold logRangeUnknown
  repeat' first
    | with_reducible assumption | extract_lets | with_reducible apply logLostAckEntry_stays | with_reducible apply Stays.foldl | split
    | (intro _; intros; beta_reduce)

theorem reportLostAck_stays {ρ s : State} (hρ : Stays ρ s) : Stays ρ (reportLostAck s) := by
  unfold reportLostAck
  repeat' first
    | with_reducible assumption | extract_lets | with_reducible apply logLostAckEntry_stays | with_reducible apply logRangeUnknown_stays
    | with_reducible apply Stays.foldl | split | (intro _; intros; beta_reduce)
    | with_reducible refine Stays.same ?_ rfl rfl rfl rfl rfl rfl rfl rfl rfl

theorem reportPowerFail_stays {ρ s : State} (hρ : Stays ρ s) : Stays ρ (reportPowerFail s) := by
  unfold reportPowerFail
  repeat' first
    | with_reducible assumption | extract_lets | with_reducible apply modHealth_stays | with_reducible apply logEvent_stays | split
    | (intro _; intros; beta_reduce) | with_reducible refine Stays.same ?_ rfl rfl rfl rfl rfl rfl rfl rfl rfl

theorem reportWithdrawn_stays {ρ s : State} (hρ : Stays ρ s) : Stays ρ (reportWithdrawn s) := by
  unfold reportWithdrawn
  repeat' first
    | with_reducible assumption | extract_lets | with_reducible apply logEvent_stays | with_reducible apply Stays.foldl | split
    | (intro _; intros; beta_reduce) | with_reducible refine Stays.same ?_ rfl rfl rfl rfl rfl rfl rfl rfl rfl

theorem noteReplay_stays {ρ s : State} (hρ : Stays ρ s) : Stays ρ (noteReplay s) := by
  unfold noteReplay
  repeat' first
    | with_reducible assumption | extract_lets | with_reducible apply noteGen_stays | with_reducible apply Stays.foldl | split
    | (intro _; intros; beta_reduce)

theorem clearLoss_stays {ρ s0 : State} (hρ : Stays ρ s0) : Stays ρ (clearLoss s0) := by
  unfold clearLoss
  repeat' first
    | with_reducible assumption | extract_lets | with_reducible apply noteReplay_stays | split
    | with_reducible refine Stays.same ?_ rfl rfl rfl rfl rfl rfl rfl rfl rfl

theorem execRecovered_stays (plinthOk : Bool) (scanned : Nat) (s : State) : NextStays s (execRecovered plinthOk scanned s) := by
  have hρ := Stays.refl s
  unfold execRecovered
  repeat' first
    | with_reducible assumption | extract_lets | with_reducible apply NextStays.next | with_reducible apply logEvent_stays
    | with_reducible apply reportWithdrawn_stays | with_reducible apply reportPowerFail_stays | with_reducible apply reportLostAck_stays
    | with_reducible apply replayAll_stays | with_reducible apply writePlinth_stays | with_reducible apply clearLoss_stays
    | with_reducible apply refresh_stays | with_reducible apply settle_stays | with_reducible apply sealOpen_stays | split
    | with_reducible apply Stays.ite | with_reducible refine Stays.same ?_ rfl rfl rfl rfl rfl rfl rfl rfl rfl

theorem adopt_stays {ρ s : State} (hρ : Stays ρ s) (keys : List (Nat × List Byte)) : Stays ρ (adopt s keys) := by
  unfold adopt
  repeat' first
    | with_reducible assumption | extract_lets | with_reducible apply replayAll_stays | with_reducible apply logFractureRec_stays
    | with_reducible apply writePlinth_stays | with_reducible apply clearLoss_stays | with_reducible apply reportWithdrawn_stays
    | with_reducible apply reportPowerFail_stays | with_reducible apply reportLostAck_stays | with_reducible apply Stays.foldl | split
    | (intro _; intros; beta_reduce) | with_reducible refine Stays.same ?_ rfl rfl rfl rfl rfl rfl rfl rfl rfl

/-! ### Partitions -/

theorem clearPart_stays {ρ s : State} (hρ : Stays ρ s) (p : Nat) : Stays ρ (clearPart s p) := by
  unfold clearPart
  repeat' first
    | with_reducible assumption | extract_lets | with_reducible apply dropLeaves_stays | split | (intro _; intros; beta_reduce)
    | with_reducible refine Stays.same ?_ rfl rfl rfl rfl rfl rfl rfl rfl rfl

theorem execCreatePartition_stays (count : Word) (bus : Bus) (s : State) : NextStays s (execCreatePartition count bus s) := by
  have hρ := Stays.refl s
  unfold execCreatePartition
  repeat' first
    | with_reducible assumption | extract_lets | with_reducible apply NextStays.next | with_reducible apply finishWith_stays
    | with_reducible apply finishSaved_stays | with_reducible apply absorbBus_stays | with_reducible apply finishBus_stays
    | with_reducible apply deliver_stays | split | with_reducible refine Stays.same ?_ rfl rfl rfl rfl rfl rfl rfl rfl rfl

theorem execDeletePartition_stays (count : Word) (s : State) : NextStays s (execDeletePartition count s) := by
  have hρ := Stays.refl s
  unfold execDeletePartition
  repeat' first
    | with_reducible assumption | extract_lets | with_reducible apply NextStays.next | with_reducible apply finishWith_stays
    | with_reducible apply finishSaved_stays | with_reducible apply clearPart_stays | with_reducible apply freeEmpty_stays | split
    | (intro _; intros; beta_reduce) | with_reducible refine Stays.same ?_ rfl rfl rfl rfl rfl rfl rfl rfl rfl

theorem execSetHold_stays (count : Word) (s : State) : NextStays s (execSetHold count s) := by
  have hρ := Stays.refl s
  unfold execSetHold
  repeat' first
    | with_reducible assumption | extract_lets | with_reducible apply NextStays.next | with_reducible apply finishWith_stays
    | with_reducible apply finishSaved_stays | with_reducible apply setStream_stays | split
    | with_reducible refine Stays.same ?_ rfl rfl rfl rfl rfl rfl rfl rfl rfl

theorem execAdoptMedia_stays (count : Word) (bus : Bus) (s : State) : NextStays s (execAdoptMedia count bus s) := by
  have hρ := Stays.refl s
  unfold execAdoptMedia
  repeat' first
    | with_reducible assumption | extract_lets | with_reducible apply NextStays.next | with_reducible apply finishWith_stays
    | with_reducible apply absorbBus_stays | with_reducible apply finishBus_stays | with_reducible apply finish_stays
    | with_reducible apply logEvent_stays | with_reducible apply adopt_stays | with_reducible apply refresh_stays
    | with_reducible apply finishSaved_stays | split | (intro _; intros; beta_reduce)
    | with_reducible refine Stays.same ?_ rfl rfl rfl rfl rfl rfl rfl rfl rfl

theorem closeCourses_stays {ρ s : State} (hρ : Stays ρ s) (ids : List Nat) : Stays ρ (closeCourses s ids) := modMedia_stays hρ _

theorem eraseCourses_stays {ρ s : State} (hρ : Stays ρ s) (ids : List Nat) : OptStays ρ (eraseCourses s ids) := by
  unfold eraseCourses
  repeat' first
    | with_reducible assumption | with_reducible apply closeCourses_stays | extract_lets | with_reducible apply emptyCourse_stays | with_reducible apply eraseBlocks_stays
    | with_reducible exact OptStays.none | with_reducible apply OptStays.some | with_reducible apply OptStays.map
    | with_reducible apply OptStays.bind | with_reducible apply OptStays.foldl | with_reducible apply OptStays.getD
    | with_reducible refine OptStays.eq (by assumption) ?_ | with_reducible apply Stays.foldl | split | (intro _; intros; beta_reduce)

theorem cryptoErase_stays {ρ s : State} (hρ : Stays ρ s) (p : Nat) : Stays ρ (cryptoErase s p) := by
  unfold cryptoErase
  repeat' first
    | with_reducible assumption | extract_lets | with_reducible apply clearPart_stays | split | (intro _; intros; beta_reduce)
    | with_reducible refine Stays.same ?_ rfl rfl rfl rfl rfl rfl rfl rfl rfl

theorem sanitizeParts_stays {ρ s : State} (hρ : Stays ρ s) (ks es : List Nat) : OptStays ρ (sanitizeParts s ks es) := by
  unfold sanitizeParts
  repeat' first
    | with_reducible assumption | extract_lets | with_reducible apply clearPart_stays | with_reducible apply cryptoErase_stays
    | with_reducible apply eraseCourses_stays | with_reducible exact OptStays.none | with_reducible apply OptStays.some
    | with_reducible apply OptStays.map | with_reducible apply OptStays.bind | with_reducible apply OptStays.foldl
    | with_reducible apply OptStays.getD | with_reducible refine OptStays.eq (by assumption) ?_ | with_reducible apply Stays.foldl
    | split | (intro _; intros; beta_reduce)

theorem execSanitize_stays (count : Word) (residue : Nat) (s : State) : NextStays s (execSanitize count residue s) := by
  have hρ := Stays.refl s
  unfold execSanitize
  repeat' first
    | with_reducible assumption | extract_lets | with_reducible apply NextStays.next | with_reducible apply finishWith_stays
    | with_reducible apply sanitizeParts_stays | with_reducible apply logEvent_stays | with_reducible apply finish_stays
    | with_reducible apply freeEmpty_stays | with_reducible exact OptStays.none | with_reducible apply OptStays.some
    | with_reducible apply OptStays.map | with_reducible apply OptStays.bind | with_reducible apply OptStays.foldl
    | with_reducible apply OptStays.getD | with_reducible refine OptStays.eq (by assumption) ?_ | split | with_reducible apply Stays.ite
    | (intro _; intros; beta_reduce) | with_reducible refine Stays.same ?_ rfl rfl rfl rfl rfl rfl rfl rfl rfl

end Sys2Proof.Machine
end

