-- ==== Sys2Proof/Laws/StaysCascade.lean ====
section
/-! SUPPORT. `Stays` for the operations and commands of the cascade: one lemma an operation, from which the
invariants that every command outside the resets keeps follow by cases. -/

namespace Sys2Proof.Machine

/-! ### Cascade -/

theorem modPort_stays {ρ s : State} (hρ : Stays ρ s) (n : Fin 3) (f : Port → Port) : Stays ρ (modPort s n f) := by
  unfold modPort
  repeat' first
    | with_reducible assumption | extract_lets | split | with_reducible refine Stays.same ?_ rfl rfl rfl rfl rfl rfl rfl rfl rfl

theorem casEvent_stays {ρ s : State} (hρ : Stays ρ s) (bits : BitVec 8) (member : Option Nat) : Stays ρ (casEvent s bits member) := by
  unfold casEvent
  repeat' first
    | with_reducible assumption | extract_lets | with_reducible apply setIrq_stays | split
    | with_reducible refine Stays.same ?_ rfl rfl rfl rfl rfl rfl rfl rfl rfl

theorem takeTxn_stays {ρ s : State} (hρ : Stays ρ s) : Stays ρ (takeTxn s) := by
  unfold takeTxn
  repeat' first
    | with_reducible assumption | extract_lets | split | with_reducible refine Stays.same ?_ rfl rfl rfl rfl rfl rfl rfl rfl rfl

theorem receive_stays {ρ s : State} (hρ : Stays ρ s) (n : Fin 3) (rx : Rx) : PairStays ρ (receive s n rx) := by
  unfold receive
  repeat' first
    | with_reducible assumption | extract_lets | with_reducible apply modPort_stays | simp only [PairStays.mk_iff]
    | with_reducible apply PairStays.fst | with_reducible refine PairStays.eq (by assumption) ?_ | split | (intro _; intros; beta_reduce)
    | with_reducible refine Stays.same ?_ rfl rfl rfl rfl rfl rfl rfl rfl rfl

theorem refusePull_stays {ρ s : State} (hρ : Stays ρ s) (p : Packet) : Stays ρ (refusePull s p) := by
  unfold refusePull
  repeat' first
    | with_reducible assumption | extract_lets | with_reducible apply sendPkt_stays | split

theorem relay_stays {ρ s : State} (hρ : Stays ρ s) (n : Fin 3) (p : Packet) : Stays ρ (relay s n p) := by
  unfold relay
  repeat' first
    | with_reducible assumption | extract_lets | with_reducible apply sendPort_stays | with_reducible apply sendPkt_stays
    | with_reducible apply answerEntry_stays | with_reducible apply refusePull_stays | split | (intro _; intros; beta_reduce)
    | with_reducible refine Stays.same ?_ rfl rfl rfl rfl rfl rfl rfl rfl rfl

theorem onPacket_stays {ρ s : State} (hρ : Stays ρ s) (n : Fin 3) (rx : Rx) (type : Nat) (act : State → State)
    (h : ∀ t, Stays ρ t → Stays ρ (act t)) : Stays ρ (onPacket s n rx type act) := by
  unfold onPacket
  extract_lets r s1
  have hr : Stays ρ r.1 := (receive_stays hρ n rx).fst
  have h1 : Stays ρ s1 := freeRx_stays hr _ _
  clear_value s1 r
  split
  · exact hr
  · split
    · exact h1
    · split
      · exact h _ h1
      · exact relay_stays h1 _ _

theorem endTransfer_stays {ρ s : State} (hρ : Stays ρ s) (tr : Transfer) (status : Nat) : Stays ρ (endTransfer s tr status) := by
  unfold endTransfer
  repeat' first
    | with_reducible assumption | extract_lets | with_reducible apply setStream_stays | with_reducible apply sendPkt_stays
    | with_reducible apply settle_stays | with_reducible apply complete_stays | split | with_reducible apply Stays.ite
    | (intro _; intros; beta_reduce) | with_reducible refine Stays.same ?_ rfl rfl rfl rfl rfl rfl rfl rfl rfl

theorem dropFwds_stays {ρ s : State} (hρ : Stays ρ s) (left : Nat → Bool) : Stays ρ (dropFwds s left) := by
  unfold dropFwds
  repeat' first
    | with_reducible assumption | extract_lets | with_reducible apply settle_stays | with_reducible apply complete_stays
    | with_reducible apply Stays.foldl | split | (intro _; intros; beta_reduce)
    | with_reducible refine Stays.same ?_ rfl rfl rfl rfl rfl rfl rfl rfl rfl

theorem orphanTargets_stays {ρ s : State} (hρ : Stays ρ s) (left : Nat → Bool) : Stays ρ (orphanTargets s left) := by
  unfold orphanTargets
  repeat' first
    | with_reducible assumption | extract_lets | with_reducible apply settle_stays | with_reducible apply freeRx_stays
    | with_reducible apply Stays.foldl | split | (intro _; intros; beta_reduce)
    | with_reducible refine Stays.same ?_ rfl rfl rfl rfl rfl rfl rfl rfl rfl

theorem membersLeft_stays {ρ s : State} (hρ : Stays ρ s) (left : Nat → Bool) : Stays ρ (membersLeft s left) := by
  unfold membersLeft
  repeat' first
    | with_reducible assumption | extract_lets | with_reducible apply dropFwds_stays | with_reducible apply endTransfer_stays
    | with_reducible apply orphanTargets_stays | with_reducible apply spansLeft_stays | with_reducible apply Stays.foldl | split
    | (intro _; intros; beta_reduce) | with_reducible refine Stays.same ?_ rfl rfl rfl rfl rfl rfl rfl rfl rfl

theorem sendLeave_stays {ρ s : State} (hρ : Stays ρ s) (dest : Nat) (ids : List Nat) : Stays ρ (sendLeave s dest ids) := by
  unfold sendLeave
  repeat' first
    | with_reducible assumption | extract_lets | with_reducible apply sendSegs_stays | with_reducible apply takeTxn_stays | split

theorem loseUp_stays {ρ s : State} (hρ : Stays ρ s) : Stays ρ (loseUp s) := by
  unfold loseUp
  repeat' first
    | with_reducible assumption | extract_lets | with_reducible apply sendPort_stays | with_reducible apply membersLeft_stays | split
    | (intro _; intros; beta_reduce) | with_reducible refine Stays.same ?_ rfl rfl rfl rfl rfl rfl rfl rfl rfl

theorem spanLeave_stays {ρ s : State} (hρ : Stays ρ s) (id : Nat) (r : RosterE) : Stays ρ (spanLeave s id r) := by
  unfold spanLeave
  repeat' first
    | with_reducible assumption | extract_lets | with_reducible apply logEvent_stays | with_reducible apply Stays.foldl | split
    | (intro _; intros; beta_reduce) | with_reducible refine Stays.same ?_ rfl rfl rfl rfl rfl rfl rfl rfl rfl

theorem spanJoin_stays {ρ s : State} (hρ : Stays ρ s) (id : Nat) (r : RosterE) : Stays ρ (spanJoin s id r) := by
  unfold spanJoin
  repeat' first
    | with_reducible assumption | extract_lets | with_reducible apply restoreMember_stays | with_reducible apply modSpan_stays
    | with_reducible apply Stays.foldl | split | (intro _; intros; beta_reduce)
    | with_reducible refine Stays.same ?_ rfl rfl rfl rfl rfl rfl rfl rfl rfl

theorem spanAbsences_stays {ρ s : State} (hρ : Stays ρ s) : Stays ρ (spanAbsences s) := by
  unfold spanAbsences
  repeat' first
    | with_reducible assumption | extract_lets | with_reducible apply logEvent_stays | with_reducible apply modSpan_stays
    | with_reducible apply Stays.foldl | split | (intro _; intros; beta_reduce)
    | with_reducible refine Stays.same ?_ rfl rfl rfl rfl rfl rfl rfl rfl rfl

theorem sendEnum_stays {ρ s : State} (hρ : Stays ρ s) (id depth : Nat) (rs : List (Nat × Nat)) : Stays ρ (sendEnum s id depth rs) := by
  unfold sendEnum
  repeat' first
    | with_reducible assumption | extract_lets | with_reducible apply sendPkt_stays | with_reducible apply takeTxn_stays | split
    | (intro _; intros; beta_reduce)

theorem writeRoutes_stays {ρ s : State} (hρ : Stays ρ s) (id d pos : Nat) : Stays ρ (writeRoutes s id d pos) := by
  unfold writeRoutes
  repeat' first
    | with_reducible assumption | extract_lets | with_reducible apply sendEnum_stays | with_reducible apply Stays.foldl | split
    | (intro _; intros; beta_reduce) | with_reducible refine Stays.same ?_ rfl rfl rfl rfl rfl rfl rfl rfl rfl

theorem beginAttest_stays {ρ s : State} (hρ : Stays ρ s) (id d pos : Nat) : Stays ρ (beginAttest s id d pos) := by
  unfold beginAttest
  repeat' first
    | with_reducible assumption | extract_lets | with_reducible apply writeRoutes_stays | with_reducible apply takeTxn_stays
    | with_reducible apply sendPkt_stays | split | with_reducible refine Stays.same ?_ rfl rfl rfl rfl rfl rfl rfl rfl rfl

theorem serveJoin_stays {ρ a1 : State} (hρ : Stays ρ a1) (a0 : Nat) : Stays ρ (serveJoin a0 a1) := by
  induction a0 generalizing a1 with
  | zero =>
    rw [serveJoin]
    exact hρ
  | succ fuel ih =>
    rw [serveJoin]
    repeat' first
      | with_reducible assumption | with_reducible apply ih | extract_lets | with_reducible apply beginAttest_stays | split
      | (intro _; intros; beta_reduce) | with_reducible refine Stays.same ?_ rfl rfl rfl rfl rfl rfl rfl rfl rfl

theorem joinAt_stays {ρ s : State} (hρ : Stays ρ s) (d pos : Nat) : Stays ρ (joinAt s d pos) := by
  unfold joinAt
  repeat' first
    | with_reducible assumption | extract_lets | with_reducible apply serveJoin_stays | split | (intro _; intros; beta_reduce)
    | with_reducible refine Stays.same ?_ rfl rfl rfl rfl rfl rfl rfl rfl rfl

theorem enumNext_stays {ρ s : State} (hρ : Stays ρ s) : Stays ρ (enumNext s) := by
  unfold enumNext
  repeat' first
    | with_reducible assumption | extract_lets | with_reducible apply beginAttest_stays | split
    | with_reducible refine Stays.same ?_ rfl rfl rfl rfl rfl rfl rfl rfl rfl

theorem settleAttest_stays {ρ s : State} (hρ : Stays ρ s) (a : Attest) (answer : Option (List Byte)) :
    Stays ρ (settleAttest s a answer) := by
  unfold settleAttest
  repeat' first
    | with_reducible assumption | extract_lets | with_reducible apply answer_stays | with_reducible apply sendEnum_stays
    | with_reducible apply casEvent_stays | with_reducible apply spanJoin_stays | with_reducible apply enumNext_stays
    | with_reducible apply serveJoin_stays | with_reducible apply resyncAll_stays | split | with_reducible apply Stays.ite
    | (intro _; intros; beta_reduce) | with_reducible refine Stays.same ?_ rfl rfl rfl rfl rfl rfl rfl rfl rfl

theorem keystoneLeave_stays {ρ s : State} (hρ : Stays ρ s) (ids : List Nat) : Stays ρ (keystoneLeave s ids) := by
  unfold keystoneLeave
  extract_lets left at_ gone top first
  clear_value first
  repeat' first
    | with_reducible assumption | extract_lets | with_reducible apply membersLeft_stays | with_reducible apply spanLeave_stays
    | with_reducible apply casEvent_stays | with_reducible apply sendLeave_stays | with_reducible apply enumNext_stays
    | with_reducible apply serveJoin_stays | with_reducible apply Stays.foldl | split | (intro _; intros; beta_reduce)
    | with_reducible refine Stays.same ?_ rfl rfl rfl rfl rfl rfl rfl rfl rfl

theorem portLoss_stays {ρ s : State} (hρ : Stays ρ s) (n : Fin 3) : Stays ρ (portLoss s n) := by
  unfold portLoss
  repeat' first
    | with_reducible assumption | extract_lets | with_reducible apply modPort_stays | with_reducible apply loseUp_stays
    | with_reducible apply keystoneLeave_stays | with_reducible apply sendLeave_stays | split | (intro _; intros; beta_reduce)
    | with_reducible refine Stays.same ?_ rfl rfl rfl rfl rfl rfl rfl rfl rfl

theorem linkFail_stays {ρ s : State} (hρ : Stays ρ s) (n : Fin 3) : Stays ρ (linkFail s n) := by
  unfold linkFail
  repeat' first
    | with_reducible assumption | extract_lets | with_reducible apply portLoss_stays | with_reducible apply casEvent_stays | split

/-! ### CascadeLink -/

theorem startTraining_stays {ρ s : State} (hρ : Stays ρ s) (n : Fin 3) : Stays ρ (startTraining s n) := by
  unfold startTraining
  repeat' first
    | with_reducible assumption | extract_lets | with_reducible apply modPort_stays | with_reducible apply wakeDomain_stays | split
    | (intro _; intros; beta_reduce) | with_reducible refine Stays.same ?_ rfl rfl rfl rfl rfl rfl rfl rfl rfl

theorem execPortTrain_stays (port : Fin 3) (s : State) : NextStays s (execPortTrain port s) := by
  have hρ := Stays.refl s
  unfold execPortTrain
  repeat' first
    | with_reducible assumption | extract_lets | with_reducible apply NextStays.next | with_reducible apply startTraining_stays | split

theorem execTrainRetry_stays (port : Fin 3) (s : State) : NextStays s (execTrainRetry port s) := by
  have hρ := Stays.refl s
  unfold execTrainRetry
  repeat' first
    | with_reducible assumption | extract_lets | with_reducible apply NextStays.next | with_reducible apply startTraining_stays | split

theorem portUp_stays {ρ s : State} (hρ : Stays ρ s) (n : Fin 3) : Stays ρ (portUp s n) := by
  unfold portUp
  repeat' first
    | with_reducible assumption | extract_lets | with_reducible apply modPort_stays | with_reducible apply joinAt_stays
    | with_reducible apply sendPkt_stays | with_reducible apply takeTxn_stays | split | (intro _; intros; beta_reduce)
    | with_reducible refine Stays.same ?_ rfl rfl rfl rfl rfl rfl rfl rfl rfl

theorem execTrain_stays (port : Fin 3) (role version : Byte) (keystone : Bool) (s : State) :
    NextStays s (execTrain port role version keystone s) := by
  have hρ := Stays.refl s
  unfold execTrain
  repeat' first
    | with_reducible assumption | extract_lets | with_reducible apply NextStays.next | with_reducible apply modPort_stays
    | with_reducible apply logEvent_stays | with_reducible apply portUp_stays | split | with_reducible apply Stays.ite
    | (intro _; intros; beta_reduce) | with_reducible refine Stays.same ?_ rfl rfl rfl rfl rfl rfl rfl rfl rfl

theorem execBlockLockAcquired_stays (port : Fin 3) (s : State) : NextStays s (execBlockLockAcquired port s) := by
  have hρ := Stays.refl s
  unfold execBlockLockAcquired
  repeat' first
    | with_reducible assumption | extract_lets | with_reducible apply NextStays.next | with_reducible apply modPort_stays | split
    | (intro _; intros; beta_reduce) | with_reducible refine Stays.same ?_ rfl rfl rfl rfl rfl rfl rfl rfl rfl

theorem execBlockLockLost_stays (port : Fin 3) (s : State) : NextStays s (execBlockLockLost port s) := by
  have hρ := Stays.refl s
  unfold execBlockLockLost
  repeat' first
    | with_reducible assumption | extract_lets | with_reducible apply NextStays.next | with_reducible apply modPort_stays | split
    | (intro _; intros; beta_reduce) | with_reducible refine Stays.same ?_ rfl rfl rfl rfl rfl rfl rfl rfl rfl

theorem execLeaveDetect_stays (port : Fin 3) (s : State) : NextStays s (execLeaveDetect port s) := by
  have hρ := Stays.refl s
  unfold execLeaveDetect
  repeat' first
    | with_reducible assumption | extract_lets | with_reducible apply NextStays.next | with_reducible apply portLoss_stays | split

theorem execAck_stays (port : Fin 3) (seq : BitVec 12) (s : State) : NextStays s (execAck port seq s) := by
  have hρ := Stays.refl s
  unfold execAck
  repeat' first
    | with_reducible assumption | extract_lets | with_reducible apply NextStays.next | with_reducible apply modPort_stays | split
    | (intro _; intros; beta_reduce) | with_reducible refine Stays.same ?_ rfl rfl rfl rfl rfl rfl rfl rfl rfl

theorem replayOnce_stays {ρ s : State} (hρ : Stays ρ s) (n : Fin 3) : Stays ρ (replayOnce s n) := by
  unfold replayOnce
  repeat' first
    | with_reducible assumption | extract_lets | with_reducible apply linkFail_stays | with_reducible apply modPort_stays | split
    | (intro _; intros; beta_reduce) | with_reducible refine Stays.same ?_ rfl rfl rfl rfl rfl rfl rfl rfl rfl

theorem execNak_stays (port : Fin 3) (seq : BitVec 12) (s : State) : NextStays s (execNak port seq s) := by
  have hρ := Stays.refl s
  unfold execNak
  repeat' first
    | with_reducible assumption | extract_lets | with_reducible apply NextStays.next | with_reducible apply replayOnce_stays | split
    | (intro _; intros; beta_reduce)

theorem execReplayTimeout_stays (port : Fin 3) (s : State) : NextStays s (execReplayTimeout port s) := by
  have hρ := Stays.refl s
  unfold execReplayTimeout
  repeat' first
    | with_reducible assumption | extract_lets | with_reducible apply NextStays.next | with_reducible apply replayOnce_stays | split

theorem execCredit_stays (port : Fin 3) (ent req rsp : BitVec 16) (s : State) : NextStays s (execCredit port ent req rsp s) := by
  have hρ := Stays.refl s
  unfold execCredit
  repeat' first
    | with_reducible assumption | extract_lets | with_reducible apply NextStays.next | with_reducible apply modPort_stays | split
    | (intro _; intros; beta_reduce) | with_reducible refine Stays.same ?_ rfl rfl rfl rfl rfl rfl rfl rfl rfl

theorem execCreditTimer_stays (port : Fin 3) (s : State) : NextStays s (execCreditTimer port s) := by
  have hρ := Stays.refl s
  unfold execCreditTimer
  repeat' first
    | with_reducible assumption | extract_lets | with_reducible apply NextStays.next | with_reducible apply modPort_stays | split
    | (intro _; intros; beta_reduce) | with_reducible refine Stays.same ?_ rfl rfl rfl rfl rfl rfl rfl rfl rfl

/-! ### CascadePackets -/

theorem execEntry_stays (port : Fin 3) (rx : Rx) (s : State) : NextStays s (execEntry port rx s) := by
  have hρ := Stays.refl s
  unfold execEntry
  repeat' first
    | with_reducible assumption | extract_lets | with_reducible apply NextStays.next | with_reducible apply receive_stays
    | with_reducible apply freeRx_stays | with_reducible apply answerEntry_stays | with_reducible apply relay_stays
    | simp only [PairStays.mk_iff] | with_reducible apply PairStays.fst | with_reducible refine PairStays.eq (by assumption) ?_ | split
    | with_reducible refine Stays.same ?_ rfl rfl rfl rfl rfl rfl rfl rfl rfl

theorem sendPullData_stays {ρ s : State} (hρ : Stays ρ s) (p : Packet) (d : List Byte) (seg : Nat) :
    Stays ρ (sendPullData s p d seg) := by
  unfold sendPullData
  repeat' first
    | with_reducible assumption | extract_lets | with_reducible apply sendPkt_stays | split

theorem answerPull_stays {ρ s : State} (hρ : Stays ρ s) (b : Bus) (p : Packet) : Stays ρ (answerPull s b p) := by
  unfold answerPull
  repeat' first
    | with_reducible assumption | extract_lets | with_reducible apply refusePull_stays | with_reducible apply sendPullData_stays
    | with_reducible apply countBus_stays | split | with_reducible refine Stays.same ?_ rfl rfl rfl rfl rfl rfl rfl rfl rfl

theorem refuseReleased_stays {ρ s : State} (hρ : Stays ρ s) (p : Packet) : Stays ρ (refuseReleased s p) := by
  unfold refuseReleased
  repeat' first
    | with_reducible assumption | extract_lets | with_reducible apply sendPkt_stays | split

theorem transferPull_stays {ρ s : State} (hρ : Stays ρ s) (p : Packet) : Stays ρ (transferPull s p) := by
  unfold transferPull
  repeat' first
    | with_reducible assumption | extract_lets | with_reducible apply refuseReleased_stays | with_reducible apply refusePull_stays
    | with_reducible apply sendPullData_stays | split | with_reducible apply Stays.ite | (intro _; intros; beta_reduce)
    | with_reducible refine Stays.same ?_ rfl rfl rfl rfl rfl rfl rfl rfl rfl

theorem execPull_stays (port : Fin 3) (rx : Rx) (bus : Bus) (s : State) : NextStays s (execPull port rx bus s) := by
  have hρ := Stays.refl s
  unfold execPull
  repeat' first
    | with_reducible assumption | extract_lets | with_reducible apply NextStays.next | with_reducible apply onPacket_stays
    | with_reducible apply absorbBus_stays | with_reducible apply transferPull_stays | with_reducible apply answerPull_stays | split
    | (intro _; intros; beta_reduce)

theorem setTransfer_stays {ρ s : State} (hρ : Stays ρ s) (tr : Transfer) : Stays ρ (setTransfer s tr) := by
  unfold setTransfer
  repeat' first
    | with_reducible assumption | extract_lets | split | (intro _; intros; beta_reduce)
    | with_reducible refine Stays.same ?_ rfl rfl rfl rfl rfl rfl rfl rfl rfl

theorem pullNext_stays {ρ s : State} (hρ : Stays ρ s) (tr : Transfer) : Stays ρ (pullNext s tr) := by
  unfold pullNext
  repeat' first
    | with_reducible assumption | extract_lets | with_reducible apply sendPkt_stays | split | (intro _; intros; beta_reduce)
    | with_reducible refine Stays.same ?_ rfl rfl rfl rfl rfl rfl rfl rfl rfl

theorem transferCert_stays {ρ s : State} (hρ : Stays ρ s) (tr : Transfer) (cert : List Byte) : Stays ρ (transferCert s tr cert) := by
  unfold transferCert
  repeat' first
    | with_reducible assumption | extract_lets | with_reducible apply endTransfer_stays | with_reducible apply pullNext_stays
    | with_reducible apply setTransfer_stays | split | with_reducible refine Stays.same ?_ rfl rfl rfl rfl rfl rfl rfl rfl rfl

theorem transferRecord_stays {ρ s : State} (hρ : Stays ρ s) (tr : Transfer) (r data : List Byte) :
    Stays ρ (transferRecord s tr r data) := by
  unfold transferRecord
  repeat' first
    | with_reducible assumption | extract_lets | with_reducible apply endTransfer_stays | with_reducible apply setStream_stays
    | with_reducible apply pullNext_stays | with_reducible apply setTransfer_stays | split | with_reducible apply Stays.ite
    | (intro _; intros; beta_reduce) | with_reducible refine Stays.same ?_ rfl rfl rfl rfl rfl rfl rfl rfl rfl

theorem transferData_stays {ρ s : State} (hρ : Stays ρ s) (tr : Transfer) (p : Packet) : Stays ρ (transferData s tr p) := by
  unfold transferData
  repeat' first
    | with_reducible assumption | extract_lets | with_reducible apply endTransfer_stays | with_reducible apply pullNext_stays
    | with_reducible apply setTransfer_stays | with_reducible apply transferRecord_stays | split
    | with_reducible refine Stays.same ?_ rfl rfl rfl rfl rfl rfl rfl rfl rfl

theorem execStreamTransfer_stays (q : Fin 4097) (count : Word) (s : State) : NextStays s (execStreamTransfer q count s) := by
  have hρ := Stays.refl s
  unfold execStreamTransfer
  repeat' first
    | with_reducible assumption | extract_lets | with_reducible apply NextStays.next | with_reducible apply finishWith_stays
    | with_reducible apply setJob_stays | with_reducible apply takeTxn_stays | with_reducible apply transferCert_stays
    | with_reducible apply sendPkt_stays | split | with_reducible refine Stays.same ?_ rfl rfl rfl rfl rfl rfl rfl rfl rfl

theorem execKeyq_stays (port : Fin 3) (rx : Rx) (s : State) : NextStays s (execKeyq port rx s) := by
  have hρ := Stays.refl s
  unfold execKeyq
  repeat' first
    | with_reducible assumption | extract_lets | with_reducible apply NextStays.next | with_reducible apply onPacket_stays
    | with_reducible apply sendPkt_stays | split | (intro _; intros; beta_reduce)

theorem execKeyrsp_stays (port : Fin 3) (rx : Rx) (s : State) : NextStays s (execKeyrsp port rx s) := by
  have hρ := Stays.refl s
  unfold execKeyrsp
  repeat' first
    | with_reducible assumption | extract_lets | with_reducible apply NextStays.next | with_reducible apply onPacket_stays
    | with_reducible apply transferCert_stays | split | (intro _; intros; beta_reduce)
    | with_reducible refine Stays.same ?_ rfl rfl rfl rfl rfl rfl rfl rfl rfl

theorem entryData_stays {ρ s : State} (hρ : Stays ρ s) (p : Packet) : Stays ρ (entryData s p) := by
  unfold entryData
  repeat' first
    | with_reducible assumption | extract_lets | with_reducible apply finishWith_stays | with_reducible apply spanGo_stays
    | with_reducible apply setJob_stays | with_reducible apply settle_stays | split | (intro _; intros; beta_reduce)
    | with_reducible refine Stays.same ?_ rfl rfl rfl rfl rfl rfl rfl rfl rfl

theorem execPulldata_stays (port : Fin 3) (rx : Rx) (s : State) : NextStays s (execPulldata port rx s) := by
  have hρ := Stays.refl s
  unfold execPulldata
  repeat' first
    | with_reducible assumption | extract_lets | with_reducible apply NextStays.next | with_reducible apply onPacket_stays
    | with_reducible apply transferData_stays | with_reducible apply entryData_stays | split | (intro _; intros; beta_reduce)
    | with_reducible refine Stays.same ?_ rfl rfl rfl rfl rfl rfl rfl rfl rfl

theorem entryRead_stays {ρ s : State} (hρ : Stays ρ s) (p : Packet) : Stays ρ (entryRead s p) := by
  unfold entryRead
  repeat' first
    | with_reducible assumption | extract_lets | with_reducible apply spanData_stays | with_reducible apply scatter_stays
    | with_reducible apply setJob_stays | with_reducible apply countBus_stays | simp only [PairStays.mk_iff]
    | with_reducible apply PairStays.fst | with_reducible refine PairStays.eq (by assumption) ?_ | split
    | with_reducible refine Stays.same ?_ rfl rfl rfl rfl rfl rfl rfl rfl rfl

theorem execRdata_stays (port : Fin 3) (rx : Rx) (bus : Bus) (s : State) : NextStays s (execRdata port rx bus s) := by
  have hρ := Stays.refl s
  unfold execRdata
  repeat' first
    | with_reducible assumption | extract_lets | with_reducible apply NextStays.next | with_reducible apply onPacket_stays
    | with_reducible apply absorbBus_stays | with_reducible apply entryRead_stays | split | (intro _; intros; beta_reduce)

theorem entryDone_stays {ρ s : State} (hρ : Stays ρ s) (p : Packet) : Stays ρ (entryDone s p) := by
  unfold entryDone
  repeat' first
    | with_reducible assumption | extract_lets | with_reducible apply spanAnswer_stays | with_reducible apply finishWith_stays
    | with_reducible apply spoil_stays | with_reducible apply settle_stays | with_reducible apply postRecord_stays | split
    | (intro _; intros; beta_reduce) | with_reducible refine Stays.same ?_ rfl rfl rfl rfl rfl rfl rfl rfl rfl

theorem execCompl_stays (port : Fin 3) (rx : Rx) (s : State) : NextStays s (execCompl port rx s) := by
  have hρ := Stays.refl s
  unfold execCompl
  repeat' first
    | with_reducible assumption | extract_lets | with_reducible apply NextStays.next | with_reducible apply onPacket_stays
    | with_reducible apply entryDone_stays | split | (intro _; intros; beta_reduce)

theorem takeEnum_stays {ρ s : State} (hρ : Stays ρ s) (p : Packet) : Stays ρ (takeEnum s p) := by
  unfold takeEnum
  repeat' first
    | with_reducible assumption | extract_lets | with_reducible apply sendPkt_stays | with_reducible apply takeTxn_stays
    | with_reducible apply Stays.foldl | split | with_reducible apply Stays.ite | (intro _; intros; beta_reduce)
    | with_reducible refine Stays.same ?_ rfl rfl rfl rfl rfl rfl rfl rfl rfl

theorem execEnum_stays (port : Fin 3) (rx : Rx) (s : State) : NextStays s (execEnum port rx s) := by
  have hρ := Stays.refl s
  unfold execEnum
  repeat' first
    | with_reducible assumption | extract_lets | with_reducible apply NextStays.next | with_reducible apply onPacket_stays
    | with_reducible apply takeEnum_stays | split | (intro _; intros; beta_reduce)

theorem execEnumAck_stays (port : Fin 3) (rx : Rx) (s : State) : NextStays s (execEnumAck port rx s) :=
  .next (onPacket_stays (Stays.refl s) _ _ _ _ fun _ h => h)

theorem execAttestReq_stays (port : Fin 3) (rx : Rx) (s : State) : NextStays s (execAttestReq port rx s) := by
  have hρ := Stays.refl s
  unfold execAttestReq
  repeat' first
    | with_reducible assumption | with_reducible apply wakeDomain_stays | extract_lets | with_reducible apply NextStays.next | with_reducible apply onPacket_stays
    | with_reducible apply sendPort_stays | split | (intro _; intros; beta_reduce)

theorem execAttestRsp_stays (port : Fin 3) (rx : Rx) (s : State) : NextStays s (execAttestRsp port rx s) := by
  have hρ := Stays.refl s
  unfold execAttestRsp
  repeat' first
    | with_reducible assumption | extract_lets | with_reducible apply NextStays.next | with_reducible apply onPacket_stays
    | with_reducible apply settleAttest_stays | split | (intro _; intros; beta_reduce)
    | with_reducible refine Stays.same ?_ rfl rfl rfl rfl rfl rfl rfl rfl rfl

theorem execAttestTimeout_stays (s : State) : NextStays s (execAttestTimeout s) := by
  have hρ := Stays.refl s
  unfold execAttestTimeout
  repeat' first
    | with_reducible assumption | extract_lets | with_reducible apply NextStays.next | with_reducible apply settleAttest_stays | split
    | with_reducible refine Stays.same ?_ rfl rfl rfl rfl rfl rfl rfl rfl rfl

theorem execJoin_stays (port : Fin 3) (rx : Rx) (s : State) : NextStays s (execJoin port rx s) := by
  have hρ := Stays.refl s
  unfold execJoin
  repeat' first
    | with_reducible assumption | extract_lets | with_reducible apply NextStays.next | with_reducible apply onPacket_stays
    | with_reducible apply joinAt_stays | split | (intro _; intros; beta_reduce)
    | with_reducible refine Stays.same ?_ rfl rfl rfl rfl rfl rfl rfl rfl rfl

theorem execLeave_stays (port : Fin 3) (rx : Rx) (s : State) : NextStays s (execLeave port rx s) := by
  have hρ := Stays.refl s
  unfold execLeave
  repeat' first
    | with_reducible assumption | extract_lets | with_reducible apply NextStays.next | with_reducible apply onPacket_stays
    | with_reducible apply keystoneLeave_stays | with_reducible apply loseUp_stays | with_reducible apply membersLeft_stays | split
    | (intro _; intros; beta_reduce)

/-! ### CascadeAdmin -/

theorem enumStart_stays {ρ s : State} (hρ : Stays ρ s) (j : Job) : Stays ρ (enumStart s j) := by
  unfold enumStart
  repeat' first
    | with_reducible assumption | extract_lets | with_reducible apply sendPkt_stays | with_reducible apply takeTxn_stays
    | with_reducible apply enumNext_stays | with_reducible apply setJob_stays | with_reducible apply Stays.foldl | split
    | (intro _; intros; beta_reduce) | with_reducible refine Stays.same ?_ rfl rfl rfl rfl rfl rfl rfl rfl rfl

theorem formSpan_stays {ρ s : State} (hρ : Stays ρ s) (held : List MemberPart) (p : Nat) : Stays ρ (formSpan held s p) := by
  unfold formSpan
  repeat' first
    | with_reducible assumption | extract_lets | with_reducible apply logEvent_stays | split | (intro _; intros; beta_reduce)
    | with_reducible refine Stays.same ?_ rfl rfl rfl rfl rfl rfl rfl rfl rfl

theorem enumEnd_stays {ρ s : State} (hρ : Stays ρ s) (j : Job) (e : Enumeration) (held : List MemberPart) :
    Stays ρ (enumEnd s j e held) := by
  unfold enumEnd
  repeat' first
    | with_reducible assumption | extract_lets | with_reducible apply formSpan_stays | with_reducible apply serveJoin_stays
    | with_reducible apply resyncAll_stays | with_reducible apply spanAbsences_stays | with_reducible apply finishSaved_stays
    | with_reducible apply Stays.foldl | split | (intro _; intros; beta_reduce)
    | with_reducible refine Stays.same ?_ rfl rfl rfl rfl rfl rfl rfl rfl rfl

theorem execCascadeEnumerate_stays (count : Word) (held : List MemberPart) (s : State) :
    NextStays s (execCascadeEnumerate count held s) := by
  have hρ := Stays.refl s
  unfold execCascadeEnumerate
  repeat' first
    | with_reducible assumption | extract_lets | with_reducible apply NextStays.next | with_reducible apply enumEnd_stays
    | with_reducible apply finishWith_stays | with_reducible apply enumStart_stays | split
    | with_reducible refine Stays.same ?_ rfl rfl rfl rfl rfl rfl rfl rfl rfl

theorem acceptHeld_stays {ρ s : State} (hρ : Stays ρ s) (id : Nat) (r : RosterE) : Stays ρ (acceptHeld s id r) := by
  unfold acceptHeld
  repeat' first
    | with_reducible assumption | extract_lets | with_reducible apply spanJoin_stays | with_reducible apply casEvent_stays
    | with_reducible apply sendEnum_stays | with_reducible apply resyncAll_stays | split
    | with_reducible refine Stays.same ?_ rfl rfl rfl rfl rfl rfl rfl rfl rfl

theorem execCascadeRoster_stays (count : Word) (bus : Bus) (s : State) : NextStays s (execCascadeRoster count bus s) := by
  have hρ := Stays.refl s
  unfold execCascadeRoster
  repeat' first
    | with_reducible assumption | extract_lets | with_reducible apply NextStays.next | with_reducible apply finishWith_stays
    | with_reducible apply absorbBus_stays | with_reducible apply finishBus_stays | with_reducible apply deliver_stays
    | with_reducible apply finishSaved_stays | with_reducible apply acceptHeld_stays | split | (intro _; intros; beta_reduce)
    | with_reducible refine Stays.same ?_ rfl rfl rfl rfl rfl rfl rfl rfl rfl

theorem selfTestUnits_stays {ρ s : State} (hρ : Stays ρ s) (mask : Nat) (r : SelfTest) : Stays ρ (selfTestUnits s mask r) := by
  unfold selfTestUnits
  repeat' first
    | with_reducible assumption | extract_lets | with_reducible apply takeOffline_stays | with_reducible apply dieFailed_stays
    | with_reducible apply linkFail_stays | with_reducible apply Stays.foldl | split | with_reducible apply Stays.ite
    | (intro _; intros; beta_reduce) | with_reducible refine Stays.same ?_ rfl rfl rfl rfl rfl rfl rfl rfl rfl

theorem execSelfTest_stays (count : Word) (r : SelfTest) (s : State) : NextStays s (execSelfTest count r s) := by
  have hρ := Stays.refl s
  unfold execSelfTest
  repeat' first
    | with_reducible assumption | extract_lets | with_reducible apply NextStays.next | with_reducible apply finishWith_stays
    | with_reducible apply logEvent_stays | with_reducible apply finish_stays | with_reducible apply refresh_stays
    | with_reducible apply selfTestUnits_stays | with_reducible apply settle_stays | with_reducible apply enterFailed_stays | split
    | with_reducible apply Stays.ite | with_reducible refine Stays.same ?_ rfl rfl rfl rfl rfl rfl rfl rfl rfl

end Sys2Proof.Machine
end

