-- ==== Sys2Proof/Laws/StaysRest.lean ====
section
/-! SUPPORT. `Stays` for the operations and commands of images, balls, links, the Mason units, the power-fail sequence, registers, start-up and time: one lemma an operation, from which the
invariants that every command outside the resets keeps follow by cases. -/

namespace Sys2Proof.Machine

/-! ### Images -/

theorem refuseImage_stays {ρ s : State} (hρ : Stays ρ s) (j : Job) (kind check status : Nat) :
    Stays ρ (refuseImage s j kind check status) := by
  unfold refuseImage
  repeat' first
    | with_reducible assumption | extract_lets | with_reducible apply finish_stays | with_reducible apply logEvent_stays | split

theorem execLoadProfile_stays (count : Word) (bus : Bus) (s : State) : NextStays s (execLoadProfile count bus s) := by
  have hρ := Stays.refl s
  unfold execLoadProfile
  repeat' first
    | with_reducible assumption | extract_lets | with_reducible apply NextStays.next | with_reducible apply refuseImage_stays
    | with_reducible apply absorbBus_stays | with_reducible apply finishBus_stays | with_reducible apply finishOk_stays
    | with_reducible apply finishSaved_stays | split | (intro _; intros; beta_reduce)
    | with_reducible refine Stays.same ?_ rfl rfl rfl rfl rfl rfl rfl rfl rfl

theorem loadStandby_stays {ρ s : State} (hρ : Stays ρ s) (u : Ucode) : Stays ρ (loadStandby s u) := by
  unfold loadStandby
  repeat' first
    | with_reducible assumption | extract_lets | split | with_reducible refine Stays.same ?_ rfl rfl rfl rfl rfl rfl rfl rfl rfl

theorem execLoadMicrocode_stays (count : Word) (bus : Bus) (s : State) : NextStays s (execLoadMicrocode count bus s) := by
  have hρ := Stays.refl s
  unfold execLoadMicrocode
  repeat' first
    | with_reducible assumption | extract_lets | with_reducible apply NextStays.next | with_reducible apply refuseImage_stays
    | with_reducible apply finishWith_stays | with_reducible apply absorbBus_stays | with_reducible apply finishBus_stays
    | with_reducible apply finishSaved_stays | with_reducible apply loadStandby_stays | split
    | with_reducible refine Stays.same ?_ rfl rfl rfl rfl rfl rfl rfl rfl rfl

theorem execCommitFirmware_stays (count : Word) (bus : Bus) (s : State) : NextStays s (execCommitFirmware count bus s) := by
  have hρ := Stays.refl s
  unfold execCommitFirmware
  repeat' first
    | with_reducible assumption | extract_lets | with_reducible apply NextStays.next | with_reducible apply refuseImage_stays
    | with_reducible apply finishWith_stays | with_reducible apply absorbBus_stays | with_reducible apply finishBus_stays
    | with_reducible apply finishSaved_stays | split | with_reducible apply Stays.ite
    | with_reducible refine Stays.same ?_ rfl rfl rfl rfl rfl rfl rfl rfl rfl

theorem execStartCalibration_stays (count : Word) (s : State) : NextStays s (execStartCalibration count s) := by
  have hρ := Stays.refl s
  unfold execStartCalibration
  repeat' first
    | with_reducible assumption | extract_lets | with_reducible apply NextStays.next | with_reducible apply requestKind_stays
    | with_reducible apply settle_stays | with_reducible apply setJob_stays | with_reducible apply Stays.foldl | split
    | (intro _; intros; beta_reduce) | with_reducible refine Stays.same ?_ rfl rfl rfl rfl rfl rfl rfl rfl rfl

theorem execAttachMapStore_stays (count : Word) (bus : Bus) (s : State) : NextStays s (execAttachMapStore count bus s) := by
  have hρ := Stays.refl s
  unfold execAttachMapStore
  repeat' first
    | with_reducible assumption | extract_lets | with_reducible apply NextStays.next | with_reducible apply finishWith_stays
    | with_reducible apply absorbBus_stays | with_reducible apply finishBus_stays | with_reducible apply countBus_stays
    | with_reducible apply finishOk_stays | with_reducible apply attachMap_stays | with_reducible apply Stays.foldl | split
    | (intro _; intros; beta_reduce) | with_reducible refine Stays.same ?_ rfl rfl rfl rfl rfl rfl rfl rfl rfl

theorem execDetachMapStore_stays (count : Word) (s : State) : NextStays s (execDetachMapStore count s) := by
  have hρ := Stays.refl s
  unfold execDetachMapStore
  repeat' first
    | with_reducible assumption | extract_lets | with_reducible apply NextStays.next | with_reducible apply finishWith_stays
    | with_reducible apply finishOk_stays | with_reducible apply detachMap_stays | split
    | with_reducible refine Stays.same ?_ rfl rfl rfl rfl rfl rfl rfl rfl rfl

/-! ### Startup -/

theorem execStrapCompare_stays (levels : BitVec 8) (s : State) : NextStays s (execStrapCompare levels s) := by
  have hρ := Stays.refl s
  unfold execStrapCompare
  repeat' first
    | with_reducible assumption | extract_lets | with_reducible apply NextStays.next | with_reducible apply enterFailed_stays | split
    | with_reducible refine Stays.same ?_ rfl rfl rfl rfl rfl rfl rfl rfl rfl

theorem trainPcie_stays {ρ s : State} (hρ : Stays ρ s) : Stays ρ (trainPcie s) := by
  unfold trainPcie
  repeat' first
    | with_reducible assumption | extract_lets | split | with_reducible refine Stays.same ?_ rfl rfl rfl rfl rfl rfl rfl rfl rfl

theorem execCoreRelease_stays (dramGib : Fin 9) (s : State) : NextStays s (execCoreRelease dramGib s) := by
  have hρ := Stays.refl s
  unfold execCoreRelease
  repeat' first
    | with_reducible assumption | extract_lets | with_reducible apply NextStays.next | with_reducible apply trainPcie_stays
    | with_reducible apply startPowerFail_stays | split | (intro _; intros; beta_reduce)
    | with_reducible refine Stays.same ?_ rfl rfl rfl rfl rfl rfl rfl rfl rfl

theorem execPllLockTimeout_stays (s : State) : NextStays s (execPllLockTimeout s) := by
  have hρ := Stays.refl s
  unfold execPllLockTimeout
  repeat' first
    | with_reducible assumption | extract_lets | with_reducible apply NextStays.next | with_reducible apply enterFailed_stays | split

theorem logSlot_stays {ρ s : State} (hρ : Stays ρ s) (f : Option FwSlot) : Stays ρ (logSlot s f) := by
  unfold logSlot
  repeat' first
    | with_reducible assumption | extract_lets | with_reducible apply logEvent_stays | split
    | with_reducible refine Stays.same ?_ rfl rfl rfl rfl rfl rfl rfl rfl rfl

theorem thermAtStart_stays {ρ s : State} (hρ : Stays ρ s) (firmware : Bool) : Stays ρ (thermAtStart s firmware) := by
  unfold thermAtStart
  repeat' first
    | with_reducible assumption | extract_lets | with_reducible apply raiseTherm_stays | split | with_reducible apply Stays.ite
    | with_reducible refine Stays.same ?_ rfl rfl rfl rfl rfl rfl rfl rfl rfl

theorem execFirmwareStart_stays (hashOk signOk identityOk : Bool) (s : State) :
    NextStays s (execFirmwareStart hashOk signOk identityOk s) := by
  have hρ := Stays.refl s
  unfold execFirmwareStart
  extract_lets s0 s1 a b
  clear_value a
  clear_value b
  repeat' first
    | with_reducible assumption | extract_lets | with_reducible apply NextStays.next | with_reducible apply logEvent_stays
    | with_reducible apply logSlot_stays | with_reducible apply enterFailed_stays | with_reducible apply thermAtStart_stays | split
    | (intro _; intros; beta_reduce) | with_reducible refine Stays.same ?_ rfl rfl rfl rfl rfl rfl rfl rfl rfl

theorem logProfileEntry_stays {ρ s : State} (hρ : Stays ρ s) (kind k : Nat) (id : DWord) : Stays ρ (logProfileEntry s kind k id) := by
  unfold logProfileEntry
  repeat' first
    | with_reducible assumption | extract_lets | with_reducible apply logEvent_stays | split

theorem probeChannel_stays {ρ s : State} (hρ : Stays ρ s) (ch : Nat) (found : List (Nat × DWord)) :
    Stays ρ (probeChannel s ch found) := by
  unfold probeChannel
  repeat' first
    | with_reducible assumption | extract_lets | with_reducible apply logProfileEntry_stays | with_reducible apply Stays.foldl | split
    | (intro _; intros; beta_reduce) | with_reducible refine Stays.same ?_ rfl rfl rfl rfl rfl rfl rfl rfl rfl

theorem probeAll_stays {ρ s : State} (hρ : Stays ρ s) (found : List (LunId × DWord)) : Stays ρ (probeAll s found) := by
  unfold probeAll
  repeat' first
    | with_reducible assumption | extract_lets | with_reducible apply probeChannel_stays | with_reducible apply Stays.foldl | split
    | (intro _; intros; beta_reduce) | with_reducible refine Stays.same ?_ rfl rfl rfl rfl rfl rfl rfl rfl rfl

theorem execProbe_stays (found : List (LunId × DWord)) (mcOk : Bool) (s : State) : NextStays s (execProbe found mcOk s) := by
  have hρ := Stays.refl s
  unfold execProbe
  repeat' first
    | with_reducible assumption | extract_lets | with_reducible apply NextStays.next | with_reducible apply enterFailed_stays
    | with_reducible apply probeAll_stays | split

theorem execBootWindowEntry_stays (s : State) : NextStays s (execBootWindowEntry s) := by
  have hρ := Stays.refl s
  unfold execBootWindowEntry
  repeat' first
    | with_reducible assumption | extract_lets | with_reducible apply NextStays.next | with_reducible apply applyOrders_stays
    | with_reducible apply refresh_stays | split | with_reducible refine Stays.same ?_ rfl rfl rfl rfl rfl rfl rfl rfl rfl

theorem writeHeld_stays {ρ s : State} (hρ : Stays ρ s) : Stays ρ (writeHeld s) := by
  unfold writeHeld
  exact Stays.foldl _ _ (Stays.same hρ rfl rfl rfl rfl rfl rfl rfl rfl rfl) fun t e ht =>
    setIrq_stays (Stays.upd ht (AonStays.refl _) (GblStays.refl _) rfl (logAdd_stays _ _) id id id) _

theorem execRecoveryStart_stays (s : State) : NextStays s (execRecoveryStart s) := by
  have hρ := Stays.refl s
  unfold execRecoveryStart
  repeat' first
    | with_reducible assumption | extract_lets | with_reducible apply NextStays.next | with_reducible apply newSystemArea_stays
    | with_reducible apply setSafe_stays | with_reducible apply refresh_stays | with_reducible apply writeHeld_stays
    | with_reducible apply requestKind_stays | split | with_reducible refine Stays.same ?_ rfl rfl rfl rfl rfl rfl rfl rfl rfl

theorem execFootingCheck_stays (descOk : Bool) (written : List (LunId × Nat)) (s : State) :
    NextStays s (execFootingCheck descOk written s) := by
  have hρ := Stays.refl s
  unfold execFootingCheck
  repeat' first
    | with_reducible assumption | extract_lets | with_reducible apply NextStays.next | split | (intro _; intros; beta_reduce)
    | with_reducible refine Stays.same ?_ rfl rfl rfl rfl rfl rfl rfl rfl rfl

theorem execFullService_stays (s : State) : NextStays s (execFullService s) := by
  have hρ := Stays.refl s
  unfold execFullService
  repeat' first
    | with_reducible assumption | extract_lets | with_reducible apply NextStays.next | with_reducible apply absorbFooting_stays
    | with_reducible apply refresh_stays | split | with_reducible apply Stays.ite
    | with_reducible refine Stays.same ?_ rfl rfl rfl rfl rfl rfl rfl rfl rfl

theorem takeFooting_stays {ρ s : State} (hρ : Stays ρ s) (want n : Nat) : Stays ρ (takeFooting want n s) := by
  induction n generalizing s with
  | zero =>
    rw [takeFooting]
    exact hρ
  | succ n ih =>
    rw [takeFooting]
    repeat' first
      | with_reducible assumption | with_reducible apply ih | with_reducible apply setBlk_stays | split

theorem execFootingRebuild_stays (s : State) : NextStays s (execFootingRebuild s) := by
  have hρ := Stays.refl s
  unfold execFootingRebuild
  repeat' first
    | with_reducible assumption | extract_lets | with_reducible apply NextStays.next | with_reducible apply takeFooting_stays | split
    | (intro _; intros; beta_reduce) | with_reducible refine Stays.same ?_ rfl rfl rfl rfl rfl rfl rfl rfl rfl

theorem execAutoLock_stays (s : State) : NextStays s (execAutoLock s) := by
  have hρ := Stays.refl s
  unfold execAutoLock
  repeat' first
    | with_reducible assumption | extract_lets | with_reducible apply NextStays.next | with_reducible apply refresh_stays
    | with_reducible apply logEvent_stays | split | with_reducible refine Stays.same ?_ rfl rfl rfl rfl rfl rfl rfl rfl rfl
    | with_reducible refine Stays.unlocked ?_ (by first | assumption | simp_all) rfl rfl rfl rfl rfl rfl

/-! ### Pins -/

theorem assertWake_stays {ρ s : State} (hρ : Stays ρ s) : Stays ρ (assertWake s) := by
  unfold assertWake
  repeat' first
    | with_reducible assumption | extract_lets | split | with_reducible refine Stays.same ?_ rfl rfl rfl rfl rfl rfl rfl rfl rfl

theorem execPfailAssert_stays (s : State) : NextStays s (execPfailAssert s) := by
  have hρ := Stays.refl s
  unfold execPfailAssert
  repeat' first
    | with_reducible assumption | extract_lets | with_reducible apply NextStays.next | with_reducible apply assertWake_stays
    | with_reducible apply startPowerFail_stays | split | with_reducible refine Stays.same ?_ rfl rfl rfl rfl rfl rfl rfl rfl rfl

theorem execPfailDeassert_stays (s : State) : NextStays s (execPfailDeassert s) := by
  have hρ := Stays.refl s
  unfold execPfailDeassert
  repeat' first
    | with_reducible assumption | extract_lets | with_reducible apply NextStays.next | split
    | with_reducible refine Stays.same ?_ rfl rfl rfl rfl rfl rfl rfl rfl rfl

theorem execVddCoreLow_stays (s : State) : NextStays s (execVddCoreLow s) := by
  have hρ := Stays.refl s
  unfold execVddCoreLow
  repeat' first
    | with_reducible assumption | extract_lets | with_reducible apply NextStays.next | with_reducible apply startPowerFail_stays | split
    | with_reducible refine Stays.same ?_ rfl rfl rfl rfl rfl rfl rfl rfl rfl

theorem execSysclkLoss_stays (s : State) : NextStays s (execSysclkLoss s) := by
  have hρ := Stays.refl s
  unfold execSysclkLoss
  repeat' first
    | with_reducible assumption | extract_lets | with_reducible apply NextStays.next | with_reducible apply startPowerFail_stays
    | with_reducible apply enterFailed_stays | split | with_reducible refine Stays.same ?_ rfl rfl rfl rfl rfl rfl rfl rfl rfl

theorem execThermalCritical_stays (s : State) : NextStays s (execThermalCritical s) := by
  have hρ := Stays.refl s
  unfold execThermalCritical
  repeat' first
    | with_reducible assumption | extract_lets | with_reducible apply NextStays.next | with_reducible apply setIrq_stays
    | with_reducible apply assertWake_stays | with_reducible apply enterHalted_stays | with_reducible apply startPowerFail_stays | split
    | with_reducible refine Stays.same ?_ rfl rfl rfl rfl rfl rfl rfl rfl rfl

theorem execRailLoss_stays (bank : Fin 4) (s : State) : NextStays s (execRailLoss bank s) := by
  have hρ := Stays.refl s
  unfold execRailLoss
  repeat' first
    | with_reducible assumption | extract_lets | with_reducible apply NextStays.next | with_reducible apply takeOffline_stays
    | with_reducible apply Stays.foldl | split | (intro _; intros; beta_reduce)
    | with_reducible refine Stays.same ?_ rfl rfl rfl rfl rfl rfl rfl rfl rfl

theorem execPresenceChange_stays (present : BitVec 3) (s : State) : NextStays s (execPresenceChange present s) := by
  have hρ := Stays.refl s
  unfold execPresenceChange
  repeat' first
    | with_reducible assumption | extract_lets | with_reducible apply NextStays.next | with_reducible apply setIrq_stays
    | with_reducible apply wakeDomain_stays | with_reducible apply assertWake_stays | split | (intro _; intros; beta_reduce)
    | with_reducible refine Stays.same ?_ rfl rfl rfl rfl rfl rfl rfl rfl rfl

theorem execDomainGate_stays (d : Fin 22) (power : Bool) (packets : List Nat) (s : State) :
    NextStays s (execDomainGate d power packets s) := by
  have hρ := Stays.refl s
  unfold execDomainGate
  repeat' first
    | with_reducible assumption | extract_lets | with_reducible apply NextStays.next | with_reducible apply Stays.foldl | split
    | with_reducible apply Stays.ite | (intro _; intros; beta_reduce)
    | with_reducible refine Stays.same ?_ rfl rfl rfl rfl rfl rfl rfl rfl rfl

theorem execDomainWake_stays (d : Fin 22) (packets : List Nat) (s : State) : NextStays s (execDomainWake d packets s) := by
  have hρ := Stays.refl s
  unfold execDomainWake
  repeat' first
    | with_reducible assumption | extract_lets | with_reducible apply NextStays.next | with_reducible apply Stays.foldl | split
    | (intro _; intros; beta_reduce) | with_reducible refine Stays.same ?_ rfl rfl rfl rfl rfl rfl rfl rfl rfl

/-! ### Link -/

theorem execPerstAssert_stays (s : State) : NextStays s (execPerstAssert s) := by
  have hρ := Stays.refl s
  unfold execPerstAssert
  repeat' first
    | with_reducible assumption | extract_lets | with_reducible apply NextStays.next | with_reducible apply hostReset_stays
    | with_reducible apply enterOrphan_stays | split | with_reducible refine Stays.same ?_ rfl rfl rfl rfl rfl rfl rfl rfl rfl

theorem execPerstRelease_stays (s : State) : NextStays s (execPerstRelease s) := by
  have hρ := Stays.refl s
  unfold execPerstRelease
  repeat' first
    | with_reducible assumption | extract_lets | with_reducible apply NextStays.next | with_reducible apply trainPcie_stays
    | with_reducible apply releaseWake_stays | split | with_reducible refine Stays.same ?_ rfl rfl rfl rfl rfl rfl rfl rfl rfl

theorem execLinkDown_stays (s : State) : NextStays s (execLinkDown s) := by
  have hρ := Stays.refl s
  unfold execLinkDown
  repeat' first
    | with_reducible assumption | extract_lets | with_reducible apply NextStays.next | with_reducible apply enterOrphan_stays | split

theorem logOrphanEntry_stays {ρ s : State} (hρ : Stays ρ s) : Stays ρ (logOrphanEntry s) := by
  unfold logOrphanEntry
  repeat' first
    | with_reducible assumption | extract_lets | with_reducible apply logEvent_stays | with_reducible apply Stays.foldl | split
    | (intro _; intros; beta_reduce)

theorem leaveOrphan_stays {ρ s : State} (hρ : Stays ρ s) : Stays ρ (leaveOrphan s) := by
  unfold leaveOrphan
  repeat' first
    | with_reducible assumption | extract_lets | with_reducible apply logOrphanEntry_stays | with_reducible apply hostReset_stays
    | with_reducible apply settle_stays | split | with_reducible refine Stays.same ?_ rfl rfl rfl rfl rfl rfl rfl rfl rfl

theorem execLinkUp_stays (lanes : Fin 5) (gen : Fin 5) (s : State) : NextStays s (execLinkUp lanes gen s) := by
  have hρ := Stays.refl s
  unfold execLinkUp
  repeat' first
    | with_reducible assumption | extract_lets | with_reducible apply NextStays.next | with_reducible apply leaveOrphan_stays
    | with_reducible apply wakeDomain_stays | with_reducible apply releaseWake_stays | split | with_reducible apply Stays.ite
    | with_reducible refine Stays.same ?_ rfl rfl rfl rfl rfl rfl rfl rfl rfl

theorem execFlr_stays (s : State) : NextStays s (execFlr s) := by
  have hρ := Stays.refl s
  unfold execFlr
  repeat' first
    | with_reducible assumption | extract_lets | with_reducible apply NextStays.next | with_reducible apply hostReset_stays | split

theorem execConfigWrite_stays (change : ConfigChange) (s : State) : NextStays s (execConfigWrite change s) := by
  have hρ := Stays.refl s
  unfold execConfigWrite
  repeat' first
    | with_reducible assumption | extract_lets | with_reducible apply NextStays.next | with_reducible apply sendVector_stays
    | with_reducible apply wakeDomain_stays | split | with_reducible apply Stays.ite
    | with_reducible refine Stays.same ?_ rfl rfl rfl rfl rfl rfl rfl rfl rfl

theorem execMsixTableWrite_stays (offset : BitVec 15) (value : DWord) (wide : Bool) (s : State) :
    NextStays s (execMsixTableWrite offset value wide s) := by
  have hρ := Stays.refl s
  unfold execMsixTableWrite
  repeat' first
    | with_reducible assumption | extract_lets | with_reducible apply NextStays.next | split | with_reducible apply Stays.ite
    | with_reducible refine Stays.same ?_ rfl rfl rfl rfl rfl rfl rfl rfl rfl

theorem gateHost_stays {ρ s : State} (hρ : Stays ρ s) (link : LinkState) (m : DomMode) : Stays ρ (gateHost s link m) := by
  unfold gateHost
  repeat' first
    | with_reducible assumption | extract_lets | split | with_reducible refine Stays.same ?_ rfl rfl rfl rfl rfl rfl rfl rfl rfl

theorem execLinkPowerState_stays (pm : LinkPm) (s : State) : NextStays s (execLinkPowerState pm s) := by
  have hρ := Stays.refl s
  unfold execLinkPowerState
  repeat' first
    | with_reducible assumption | extract_lets | with_reducible apply NextStays.next | with_reducible apply wakeDomain_stays
    | with_reducible apply gateHost_stays | with_reducible apply assertWake_stays | split
    | with_reducible refine Stays.same ?_ rfl rfl rfl rfl rfl rfl rfl rfl rfl

/-! ### MasonSeq -/

theorem masonWord_stays {ρ s : State} (hρ : Stays ρ s) (c : Fin 16) (i : WordIn) : PairStays ρ (masonWord s c i) := by
  unfold masonWord
  repeat' first
    | with_reducible assumption | extract_lets | with_reducible apply setMason_stays | with_reducible apply commitCandidate_stays
    | simp only [PairStays.mk_iff] | with_reducible apply PairStays.fst | with_reducible refine PairStays.eq (by assumption) ?_ | split
    | with_reducible apply Stays.ite | with_reducible refine Stays.same ?_ rfl rfl rfl rfl rfl rfl rfl rfl rfl

theorem masonRun_stays {ρ a1 : State} (hρ : Stays ρ a1) (c : Fin 16) (stopAtSwitch : Bool) (a0 : List WordIn) :
    Stays ρ (masonRun c stopAtSwitch a0 a1) := by
  induction a0 generalizing a1 with
  | nil =>
    rw [masonRun]
    exact hρ
  | cons x xs ih =>
    rw [masonRun]
    repeat' first
      | with_reducible assumption | with_reducible apply ih | with_reducible apply masonWord_stays
      | with_reducible refine PairStays.eq (by assumption) ?_ | split

theorem execMasonRoutinePost_stays (ch : Fin 16) (routine : Fin 32) (opnds : Vector Word 8) (work : FlashWork) (s : State) :
    NextStays s (execMasonRoutinePost ch routine opnds work s) := by
  have hρ := Stays.refl s
  unfold execMasonRoutinePost
  repeat' first
    | with_reducible assumption | extract_lets | with_reducible apply NextStays.next | with_reducible apply startWork_stays
    | with_reducible apply wakeDomain_stays | with_reducible apply setMason_stays | with_reducible exact OptStays.none
    | with_reducible apply OptStays.some | with_reducible apply OptStays.map | with_reducible apply OptStays.bind
    | with_reducible apply OptStays.foldl | with_reducible apply OptStays.getD | with_reducible refine OptStays.eq (by assumption) ?_
    | split | with_reducible refine Stays.same ?_ rfl rfl rfl rfl rfl rfl rfl rfl rfl

theorem execMasonEvent_stays (ch : Fin 16) (inputs : List WordIn) (s : State) : NextStays s (execMasonEvent ch inputs s) := by
  have hρ := Stays.refl s
  unfold execMasonEvent
  repeat' first
    | with_reducible assumption | extract_lets | with_reducible apply NextStays.next | with_reducible apply masonRun_stays | split

theorem execSwitchTaken_stays (ch : Fin 16) (inputs : List WordIn) (s : State) : NextStays s (execSwitchTaken ch inputs s) := by
  have hρ := Stays.refl s
  unfold execSwitchTaken
  repeat' first
    | with_reducible assumption | extract_lets | with_reducible apply NextStays.next | with_reducible apply masonRun_stays | split

theorem execMcSwitchTimeout_stays (ch : Fin 16) (s : State) : NextStays s (execMcSwitchTimeout ch s) := by
  have hρ := Stays.refl s
  unfold execMcSwitchTimeout
  repeat' first
    | with_reducible assumption | extract_lets | with_reducible apply NextStays.next | with_reducible apply logEvent_stays
    | with_reducible apply setMason_stays | split | with_reducible refine Stays.same ?_ rfl rfl rfl rfl rfl rfl rfl rfl rfl

theorem mcFields_stays {ρ s : State} (hρ : Stays ρ s) (v : Word) : Stays ρ (mcFields s v) := by
  unfold mcFields
  repeat' first
    | with_reducible assumption | extract_lets | split | with_reducible refine Stays.same ?_ rfl rfl rfl rfl rfl rfl rfl rfl rfl

theorem requestSwitch_stays {ρ s : State} (hρ : Stays ρ s) (c : Fin 16) : Stays ρ (requestSwitch s c) := by
  unfold requestSwitch
  repeat' first
    | with_reducible assumption | extract_lets | with_reducible apply wakeDomain_stays | with_reducible apply setMason_stays | split
    | with_reducible refine Stays.same ?_ rfl rfl rfl rfl rfl rfl rfl rfl rfl

theorem forceSwitch_stays {ρ s : State} (hρ : Stays ρ s) (c : Fin 16) : Stays ρ (forceSwitch s c) := by
  unfold forceSwitch
  repeat' first
    | with_reducible assumption | extract_lets | with_reducible apply wakeDomain_stays | with_reducible apply setMason_stays
    | with_reducible apply cutChannel_stays | split | with_reducible refine Stays.same ?_ rfl rfl rfl rfl rfl rfl rfl rfl rfl

theorem mcCtrlWrite_stays {ρ s : State} (hρ : Stays ρ s) (v : Word) : Stays ρ (mcCtrlWrite s v) := by
  unfold mcCtrlWrite
  repeat' first
    | with_reducible assumption | extract_lets | with_reducible apply mcFields_stays | with_reducible apply commitCandidate_stays
    | with_reducible apply forceSwitch_stays | with_reducible apply requestSwitch_stays | with_reducible apply Stays.foldl | split
    | (intro _; intros; beta_reduce)

theorem execMcSwitch_stays (value : Word) (s : State) : NextStays s (execMcSwitch value s) := by
  have hρ := Stays.refl s
  unfold execMcSwitch
  repeat' first
    | with_reducible assumption | extract_lets | with_reducible apply NextStays.next | with_reducible apply mcCtrlWrite_stays | split

theorem execMcForce_stays (value : Word) (s : State) : NextStays s (execMcForce value s) := by
  have hρ := Stays.refl s
  unfold execMcForce
  repeat' first
    | with_reducible assumption | extract_lets | with_reducible apply NextStays.next | with_reducible apply mcCtrlWrite_stays | split

theorem restartMason_stays {ρ s : State} (hρ : Stays ρ s) (c : Fin 16) : Stays ρ (restartMason s c) := by
  unfold restartMason
  repeat' first
    | with_reducible assumption | extract_lets | with_reducible apply commitCandidate_stays | with_reducible apply setMason_stays | split
    | with_reducible apply Stays.ite | with_reducible refine Stays.same ?_ rfl rfl rfl rfl rfl rfl rfl rfl rfl

theorem execMachineCheck_stays (ch : Fin 16) (addr : BitVec 12) (readbackOk referenceOk : Bool) (s : State) :
    NextStays s (execMachineCheck ch addr readbackOk referenceOk s) := by
  have hρ := Stays.refl s
  unfold execMachineCheck
  repeat' first
    | with_reducible assumption | extract_lets | with_reducible apply NextStays.next | with_reducible apply setMason_stays
    | with_reducible apply setIrq_stays | with_reducible apply logEvent_stays | with_reducible apply enterHalted_stays
    | with_reducible apply cutChannel_stays | with_reducible apply restartMason_stays | with_reducible apply takeOffline_stays | split
    | with_reducible refine Stays.same ?_ rfl rfl rfl rfl rfl rfl rfl rfl rfl

theorem scrubOne_stays {ρ s : State} (hρ : Stays ρ s) (x : Fin 5 × Bool × BitVec 12) : Stays ρ (scrubOne s x) := by
  unfold scrubOne
  repeat' first
    | with_reducible assumption | extract_lets | with_reducible apply logEvent_stays | split
    | with_reducible refine Stays.same ?_ rfl rfl rfl rfl rfl rfl rfl rfl rfl

theorem execMcScrub_stays (bad : List (Fin 5 × Bool × BitVec 12)) (s : State) : NextStays s (execMcScrub bad s) := by
  have hρ := Stays.refl s
  unfold execMcScrub
  repeat' first
    | with_reducible assumption | extract_lets | with_reducible apply NextStays.next | with_reducible apply scrubOne_stays
    | with_reducible apply Stays.foldl | split | (intro _; intros; beta_reduce)
    | with_reducible refine Stays.same ?_ rfl rfl rfl rfl rfl rfl rfl rfl rfl

/-! ### PowerFail -/

theorem publishSample_stays {ρ s : State} (hρ : Stays ρ s) (code : Nat) : Stays ρ (publishSample s code) := by
  unfold publishSample
  repeat' first
    | with_reducible assumption | extract_lets | with_reducible apply noteGen_stays | split
    | with_reducible refine Stays.same ?_ rfl rfl rfl rfl rfl rfl rfl rfl rfl

theorem tripSample_stays {ρ s : State} (hρ : Stays ρ s) : Stays ρ (tripSample s) := by
  unfold tripSample
  repeat' first
    | with_reducible assumption | extract_lets | with_reducible apply startPowerFail_stays | split | with_reducible apply Stays.ite
    | with_reducible refine Stays.same ?_ rfl rfl rfl rfl rfl rfl rfl rfl rfl

theorem execAdcSample_stays (raw : BitVec 12) (s : State) : NextStays s (execAdcSample raw s) := by
  have hρ := Stays.refl s
  unfold execAdcSample
  repeat' first
    | with_reducible assumption | extract_lets | with_reducible apply NextStays.next | with_reducible apply settle_stays
    | with_reducible apply tripSample_stays | with_reducible apply holdSample_stays | with_reducible apply publishSample_stays | split

theorem execAckRelease_stays (s : State) : NextStays s (execAckRelease s) := by
  have hρ := Stays.refl s
  unfold execAckRelease
  repeat' first
    | with_reducible assumption | extract_lets | with_reducible apply NextStays.next | with_reducible apply settle_stays | split

theorem execPfSafe_stays (s : State) : NextStays s (execPfSafe s) := by
  have hρ := Stays.refl s
  unfold execPfSafe
  repeat' first
    | with_reducible assumption | extract_lets | with_reducible apply NextStays.next | split
    | with_reducible refine Stays.same ?_ rfl rfl rfl rfl rfl rfl rfl rfl rfl

theorem execThermalSample_stays (s0 s1 s2 s3 : Int) (s : State) : NextStays s (execThermalSample s0 s1 s2 s3 s) := by
  have hρ := Stays.refl s
  unfold execThermalSample
  repeat' first
    | with_reducible assumption | extract_lets | with_reducible apply NextStays.next | with_reducible apply setIrq_stays
    | with_reducible apply assertWake_stays | with_reducible apply tempTrigger_stays | split | with_reducible apply Stays.ite
    | with_reducible refine Stays.same ?_ rfl rfl rfl rfl rfl rfl rfl rfl rfl

/-! ### Registers -/

theorem writeIrqEn_stays {ρ s : State} (hρ : Stays ρ s) (v : Bool) : Stays ρ (writeIrqEn s v) := by
  unfold writeIrqEn
  repeat' first
    | with_reducible assumption | extract_lets | with_reducible apply sendVector_stays | split
    | with_reducible refine Stays.same ?_ rfl rfl rfl rfl rfl rfl rfl rfl rfl

theorem writeIrqMask_stays {ρ s : State} (hρ : Stays ρ s) (m : BitVec 13) : Stays ρ (writeIrqMask s m) := by
  unfold writeIrqMask
  repeat' first
    | with_reducible assumption | extract_lets | with_reducible apply sendVector_stays | split
    | with_reducible refine Stays.same ?_ rfl rfl rfl rfl rfl rfl rfl rfl rfl

theorem ctrlWrite_stays {ρ s : State} (hρ : Stays ρ s) (v : Nat) : Stays ρ (ctrlWrite s v) := by
  unfold ctrlWrite
  repeat' first
    | with_reducible assumption | extract_lets | with_reducible apply refresh_stays | with_reducible apply writeIrqEn_stays
    | with_reducible apply enterHalted_stays | with_reducible apply hostReset_stays | split | with_reducible apply Stays.ite
    | with_reducible refine Stays.same ?_ rfl rfl rfl rfl rfl rfl rfl rfl rfl

theorem rwlWrite_stays {ρ s : State} (hρ : Stays ρ s) (off : Nat) (f : State → State) (h : ¬s.gbl.lock = true → Stays ρ (f s)) :
    Stays ρ (rwlWrite s off f) := by
  unfold rwlWrite
  split
  · exact violation_stays hρ _
  · exact h ‹_›

theorem writeBootLock_stays {ρ s : State} (hρ : Stays ρ s) (v : Nat) : Stays ρ (writeBootLock s v) := by
  unfold writeBootLock
  repeat' first
    | with_reducible assumption | extract_lets | with_reducible apply rwlWrite_stays | with_reducible apply refresh_stays | split
    | (intro _; intros; beta_reduce) | with_reducible refine Stays.same ?_ rfl rfl rfl rfl rfl rfl rfl rfl rfl
    | with_reducible refine Stays.unlocked ?_ (by first | assumption | simp_all) rfl rfl rfl rfl rfl rfl

theorem writeQpart_stays {ρ s : State} (hρ : Stays ρ s) (v : Word) : Stays ρ (writeQpart s v) := by
  unfold writeQpart
  repeat' first
    | with_reducible assumption | extract_lets | with_reducible apply rwlWrite_stays | split | (intro _; intros; beta_reduce)
    | with_reducible refine Stays.same ?_ rfl rfl rfl rfl rfl rfl rfl rfl rfl
    | with_reducible refine Stays.unlocked ?_ (by first | assumption | simp_all) rfl rfl rfl rfl rfl rfl

theorem writePolicy_stays {ρ s : State} (hρ : Stays ρ s) (v : Nat) : Stays ρ (writePolicy s v) := by
  unfold writePolicy
  repeat' first
    | with_reducible assumption | extract_lets | with_reducible apply rwlWrite_stays | split | (intro _; intros; beta_reduce)
    | with_reducible refine Stays.same ?_ rfl rfl rfl rfl rfl rfl rfl rfl rfl
    | with_reducible refine Stays.unlocked ?_ (by first | assumption | simp_all) rfl rfl rfl rfl rfl rfl

theorem writePhbWin_stays {ρ s : State} (hρ : Stays ρ s) (v : Nat) : Stays ρ (writePhbWin s v) := by
  unfold writePhbWin
  repeat' first
    | with_reducible assumption | extract_lets | with_reducible apply rwlWrite_stays | split | (intro _; intros; beta_reduce)
    | with_reducible refine Stays.same ?_ rfl rfl rfl rfl rfl rfl rfl rfl rfl
    | with_reducible refine Stays.unlocked ?_ (by first | assumption | simp_all) rfl rfl rfl rfl rfl rfl

theorem admEnable_stays {ρ s : State} (hρ : Stays ρ s) : Stays ρ (admEnable s) := by
  unfold admEnable
  repeat' first
    | with_reducible assumption | extract_lets | with_reducible apply modQueue_stays | with_reducible apply writeShadow_stays | split
    | (intro _; intros; beta_reduce) | with_reducible refine Stays.same ?_ rfl rfl rfl rfl rfl rfl rfl rfl rfl

theorem admqCfgWrite_stays {ρ s : State} (hρ : Stays ρ s) (v : Nat) : Stays ρ (admqCfgWrite s v) := by
  unfold admqCfgWrite
  repeat' first
    | with_reducible assumption | extract_lets | with_reducible apply disableQueue_stays | with_reducible apply admEnable_stays | split
    | with_reducible refine Stays.same ?_ rfl rfl rfl rfl rfl rfl rfl rfl rfl

theorem invalidate_stays {ρ s : State} (hρ : Stays ρ s) (all : Bool) (slot : Nat) : Stays ρ (invalidate s all slot) := by
  unfold invalidate
  repeat' first
    | with_reducible assumption | extract_lets | with_reducible apply modQueue_stays | split | (intro _; intros; beta_reduce)
    | with_reducible refine Stays.same ?_ rfl rfl rfl rfl rfl rfl rfl rfl rfl

theorem modSel_stays {ρ s : State} (hρ : Stays ρ s) (f : MovCh → MovCh) : Stays ρ (modSel s f) := by
  unfold modSel
  repeat' first
    | with_reducible assumption | extract_lets | with_reducible apply setMov_stays | split

theorem writePwr_stays {ρ s : State} (hρ : Stays ρ s) (v : Nat) : Stays ρ (writePwr s v) := by
  unfold writePwr
  repeat' first
    | with_reducible assumption | extract_lets | split | with_reducible refine Stays.same ?_ rfl rfl rfl rfl rfl rfl rfl rfl rfl

theorem writeCas_stays {ρ s : State} (hρ : Stays ρ s) (v : Nat) : Stays ρ (writeCas s v) := by
  unfold writeCas
  repeat' first
    | with_reducible assumption | extract_lets | split | (intro _; intros; beta_reduce)
    | with_reducible refine Stays.same ?_ rfl rfl rfl rfl rfl rfl rfl rfl rfl

theorem writeAlways_stays {ρ s : State} (hρ : Stays ρ s) (off : Nat) (v : Word) : OptStays ρ (writeAlways s off v) := by
  unfold writeAlways
  repeat' first
    | with_reducible assumption | extract_lets | with_reducible apply ctrlWrite_stays | with_reducible apply writeIrqMask_stays
    | with_reducible apply modSel_stays | with_reducible apply writePwr_stays | with_reducible apply mcCtrlWrite_stays
    | with_reducible exact OptStays.none | with_reducible apply OptStays.some | with_reducible apply OptStays.map
    | with_reducible apply OptStays.bind | with_reducible apply OptStays.foldl | with_reducible apply OptStays.getD
    | with_reducible refine OptStays.eq (by assumption) ?_ | split | (intro _; intros; beta_reduce)
    | with_reducible refine Stays.same ?_ rfl rfl rfl rfl rfl rfl rfl rfl rfl

theorem writeRunning_stays {ρ s : State} (hρ : Stays ρ s) (off : Nat) (v : Word) : Stays ρ (writeRunning s off v) := by
  unfold writeRunning
  repeat' first
    | with_reducible assumption | extract_lets | with_reducible apply writeBootLock_stays | with_reducible apply writeQpart_stays
    | with_reducible apply writePolicy_stays | with_reducible apply rwlWrite_stays | with_reducible apply admqCfgWrite_stays
    | with_reducible apply invalidate_stays | with_reducible apply modSel_stays | with_reducible apply movCtrlWrite_stays
    | with_reducible apply calCtrlWrite_stays | with_reducible apply writeCas_stays | with_reducible apply writePhbWin_stays | split
    | (intro _; intros; beta_reduce) | with_reducible refine Stays.same ?_ rfl rfl rfl rfl rfl rfl rfl rfl rfl
    | with_reducible refine Stays.unlocked ?_ (by first | assumption | simp_all) rfl rfl rfl rfl rfl rfl

theorem regWrite_stays {ρ s : State} (hρ : Stays ρ s) (off : Nat) (v : Word) : Stays ρ (regWrite s off v) := by
  unfold regWrite
  repeat' first
    | with_reducible assumption | extract_lets | with_reducible apply writeAlways_stays | with_reducible apply writeRunning_stays
    | with_reducible exact OptStays.none | with_reducible apply OptStays.some | with_reducible apply OptStays.map
    | with_reducible apply OptStays.bind | with_reducible apply OptStays.foldl | with_reducible apply OptStays.getD
    | with_reducible refine OptStays.eq (by assumption) ?_ | split
    | with_reducible refine Stays.same ?_ rfl rfl rfl rfl rfl rfl rfl rfl rfl

theorem execTickCapture_stays (s : State) : NextStays s (execTickCapture s) := by
  have hρ := Stays.refl s
  unfold execTickCapture
  repeat' first
    | with_reducible assumption | extract_lets | with_reducible apply NextStays.next | split
    | with_reducible refine Stays.same ?_ rfl rfl rfl rfl rfl rfl rfl rfl rfl

theorem execRegisterWrite_stays (offset : BitVec 12) (value : Word) (be : BitVec 4) (s : State) :
    NextStays s (execRegisterWrite offset value be s) := by
  have hρ := Stays.refl s
  unfold execRegisterWrite
  repeat' first
    | with_reducible assumption | extract_lets | with_reducible apply NextStays.next | with_reducible apply regWrite_stays | split

theorem execRoReq_stays (irqEn : Bool) (s : State) : NextStays s (execRoReq irqEn s) := by
  have hρ := Stays.refl s
  unfold execRoReq
  repeat' first
    | with_reducible assumption | extract_lets | with_reducible apply NextStays.next | with_reducible apply regWrite_stays | split

theorem execHaltReq_stays (roReq softReset irqEn : Bool) (s : State) : NextStays s (execHaltReq roReq softReset irqEn s) := by
  have hρ := Stays.refl s
  unfold execHaltReq
  repeat' first
    | with_reducible assumption | extract_lets | with_reducible apply NextStays.next | with_reducible apply regWrite_stays | split

theorem execSoftReset_stays (roReq irqEn : Bool) (s : State) : NextStays s (execSoftReset roReq irqEn s) := by
  have hρ := Stays.refl s
  unfold execSoftReset
  repeat' first
    | with_reducible assumption | extract_lets | with_reducible apply NextStays.next | with_reducible apply regWrite_stays | split

theorem execIrqEnableWrite_stays (s : State) : NextStays s (execIrqEnableWrite s) := by
  have hρ := Stays.refl s
  unfold execIrqEnableWrite
  repeat' first
    | with_reducible assumption | extract_lets | with_reducible apply NextStays.next | with_reducible apply regWrite_stays | split

theorem execIrqMaskWrite_stays (mask : Word) (s : State) : NextStays s (execIrqMaskWrite mask s) := by
  have hρ := Stays.refl s
  unfold execIrqMaskWrite
  repeat' first
    | with_reducible assumption | extract_lets | with_reducible apply NextStays.next | with_reducible apply regWrite_stays | split

theorem execBootLockSet_stays (s : State) : NextStays s (execBootLockSet s) := by
  have hρ := Stays.refl s
  unfold execBootLockSet
  repeat' first
    | with_reducible assumption | extract_lets | with_reducible apply NextStays.next | with_reducible apply regWrite_stays | split

theorem execAdmqEnable_stays (value : Word) (s : State) : NextStays s (execAdmqEnable value s) := by
  have hρ := Stays.refl s
  unfold execAdmqEnable
  repeat' first
    | with_reducible assumption | extract_lets | with_reducible apply NextStays.next | with_reducible apply regWrite_stays | split

theorem execAdmqDisable_stays (value : Word) (s : State) : NextStays s (execAdmqDisable value s) := by
  have hρ := Stays.refl s
  unfold execAdmqDisable
  repeat' first
    | with_reducible assumption | extract_lets | with_reducible apply NextStays.next | with_reducible apply regWrite_stays | split

theorem execQinvSlot_stays (slot : BitVec 12) (s : State) : NextStays s (execQinvSlot slot s) := by
  have hρ := Stays.refl s
  unfold execQinvSlot
  repeat' first
    | with_reducible assumption | extract_lets | with_reducible apply NextStays.next | with_reducible apply regWrite_stays | split

theorem execQinvAll_stays (s : State) : NextStays s (execQinvAll s) := by
  have hρ := Stays.refl s
  unfold execQinvAll
  repeat' first
    | with_reducible assumption | extract_lets | with_reducible apply NextStays.next | with_reducible apply regWrite_stays | split

/-! ### Idle -/

theorem idleTick_stays {ρ s : State} (hρ : Stays ρ s) : Stays ρ (idleTick s) := by
  unfold idleTick
  repeat' first
    | with_reducible assumption | extract_lets | split | with_reducible refine Stays.same ?_ rfl rfl rfl rfl rfl rfl rfl rfl rfl

end Sys2Proof.Machine
end

