-- ==== Sys2Proof/Laws/Keeps.lean ====
section
/-! SUPPORT. What every command keeps, the resets among them: `Keeps r s`. The five commands below reset LOCK, the registers it
protects and the halt cause, so `Stays` is not theirs. -/

namespace Sys2Proof.Machine

/-- What every command keeps. -/
structure Keeps (s t : State) : Prop where
  pending : t.pending = s.pending
  aon : AonStays s.aon t.aon
  host : memWf s.host = true → memWf t.host = true
  dram : memWf s.dram = true → memWf t.dram = true
  log : LogStays s.log t.log

theorem Stays.keeps {s t : State} (h : Stays s t) : Keeps s t := ⟨h.pending, h.aon, h.host, h.dram, h.log⟩

theorem Keeps.refl (s : State) : Keeps s s := (Stays.refl s).keeps

theorem Keeps.trans {a b c : State} (h : Keeps a b) (k : Keeps b c) : Keeps a c :=
  ⟨k.pending.trans h.pending, h.aon.trans k.aon, fun x => k.host (h.host x), fun x => k.dram (h.dram x), h.log.trans k.log⟩

/-- An update of anything but the one-time bits, the memories, the log's entries and the queue. -/
theorem Keeps.same {r t : State} {pins aon gbl prot adm pwr doms pcie log queues parts stage streams energy sys media hmap cal micro mover
    cas free} (h : Keeps r t) (ho : aon.otp = t.aon.otp) (he : log.entries = t.log.entries) (hs : log.nextSeq = t.log.nextSeq) :
    Keeps r (State.mk pins aon gbl prot adm pwr doms pcie log queues t.host t.dram parts stage streams energy sys media hmap cal micro
      mover cas free t.pending) := by
  refine h.trans ⟨rfl, fun i => ?_, id, id, fun b => ?_, Nat.le_of_eq hs.symm⟩
  · rw [ho]
    exact BitVec.and_self
  · rw [he]
    exact b

/-- Every next state of an outcome has kept what every command keeps. -/
def NextKeeps (r : State) (o : Host.Outcome State Fault Refusal) : Prop := ∀ t, o = .next t → Keeps r t

theorem NextKeeps.next {r t : State} (h : Keeps r t) : NextKeeps r (.next t) := by
  intro u e
  cases e
  exact h

theorem NextStays.keeps {r : State} {o : Host.Outcome State Fault Refusal} (h : NextStays r o) : NextKeeps r o :=
  fun t e => (h t e).keeps

theorem coreReset_keeps {r s : State} (h : Keeps r s) : Keeps r (coreReset s) := by
  unfold coreReset
  exact Keeps.same h rfl rfl rfl

theorem latchStraps_keeps {r s : State} (h : Keeps r s) (straps : BitVec 8) (rails : RailLevels) (testEn : Bool) :
    Keeps r (latchStraps s straps rails testEn) := by
  unfold latchStraps
  extract_lets slot rec_ c _ _ _ _ s1
  have k : Keeps r s1 := Keeps.same h rfl rfl rfl
  clear_value s1
  split
  · exact k.trans (enterFailed_stays (Stays.refl s1) _ _ _).keeps
  · exact k.trans (setCap_stays (Stays.refl s1)).keeps

theorem execPowerOn_keeps (s : State) : NextKeeps s (execPowerOn s) := by
  unfold execPowerOn
  split
  · exact .next (Keeps.refl s)
  · exact .next (Keeps.same (coreReset_keeps (Keeps.same (Keeps.refl s) rfl rfl rfl)) rfl rfl rfl)

theorem execVaonLoss_keeps (s : State) : NextKeeps s (execVaonLoss s) := by
  unfold execVaonLoss
  split
  · exact .next (Keeps.refl s)
  · extract_lets s0 s1 s2
    have k : Keeps s s0 := by
      show Keeps s (match s.aon.frame with
        | some ⟨some (w, v), _, _⟩ => endBurn s w v 1 0
        | _ => s)
      split
      · exact (endBurn_stays (Stays.refl s) _ _ _ _).keeps
      · exact Keeps.refl s
    clear_value s0
    have k1 : Keeps s s1 := Keeps.same k rfl rfl rfl
    exact .next (Keeps.same (coreReset_keeps (Keeps.same k1 rfl rfl rfl)) rfl rfl rfl)

theorem execResetAssert_keeps (s : State) : NextKeeps s (execResetAssert s) := by
  unfold execResetAssert
  split
  · exact .next (Keeps.refl s)
  · extract_lets s1
    have k : Keeps s s1 := coreReset_keeps (Keeps.same (Keeps.refl s) rfl rfl rfl)
    clear_value s1
    refine .next (Keeps.trans ?_ (syncDisagree_stays (Stays.refl _)).keeps)
    exact Keeps.same k rfl rfl rfl

theorem execResetRelease_keeps (straps : BitVec 8) (rails : RailLevels) (testEn : Bool) (s : State) :
    NextKeeps s (execResetRelease straps rails testEn s) := by
  unfold execResetRelease
  split
  · exact .next (Keeps.refl s)
  · split
    · exact .next (Keeps.same (Keeps.refl s) rfl rfl rfl)
    · exact .next (latchStraps_keeps (Keeps.refl s) _ _ _)

theorem execBoundaryScanInstruction_keeps (code : Option (BitVec 4)) (cells : BitVec 1545) (levels : BitVec 515) (straps : BitVec 8)
    (rails : RailLevels) (testEn : Bool) (s : State) :
    NextKeeps s (execBoundaryScanInstruction code cells levels straps rails testEn s) := by
  unfold execBoundaryScanInstruction
  extract_lets j p s1
  have k : Keeps s s1 := Keeps.same (Keeps.refl s) rfl rfl rfl
  clear_value s1
  split
  · exact .next (latchStraps_keeps k _ _ _)
  · exact .next k

end Sys2Proof.Machine
end

