-- ==== Sys2Proof/Laws/Quiet.lean ====
section
/-! SUPPORT. What the commands of consumed entries and the media work behind them leave alone: `Quiet r s` says that the always-on
logic, the protection registers, the admin-queue registers, PWR_CTRL and the Block Mover are as in `r`, and the power domains too but
for those that an access woke. -/

namespace Sys2Proof.Machine

/-- What no command of a consumed entry changes. -/
structure Quiet (s t : State) : Prop where
  aon : t.aon = s.aon
  prot : t.prot = s.prot
  adm : t.adm = s.adm
  pwr : t.pwr = s.pwr
  doms : DomsWoken s.pwr s.doms t.doms
  mover : t.mover = s.mover

theorem DomsWoken.refl (p : PwrCtrl) (a : Vector Domain 22) : DomsWoken p a a := fun _ => .inl rfl

theorem Domain.woken_woken (x : Domain) (p : PwrCtrl) (d : Nat) : (x.woken p d).woken p d = x.woken p d := by
  simp [Domain.woken, Domain.touch]

theorem Domain.woken_mode (x : Domain) (p : PwrCtrl) (d : Nat) : (x.woken p d).mode = .on := rfl

theorem DomsWoken.trans {p : PwrCtrl} {a b c : Vector Domain 22} (h : DomsWoken p a b) (k : DomsWoken p b c) : DomsWoken p a c := by
  intro d
  rcases h d with h | ⟨ha, h⟩ <;> rcases k d with k | ⟨kb, k⟩
  · exact .inl (k.trans h)
  · exact .inr ⟨h ▸ kb, by rw [k, h]⟩
  · exact .inr ⟨ha, k.trans h⟩
  · exact .inr ⟨ha, by rw [k, h, Domain.woken_woken]⟩

theorem Quiet.refl (s : State) : Quiet s s := ⟨rfl, rfl, rfl, rfl, .refl _ _, rfl⟩

/-- What an access to a domain does to the domains. -/
theorem wakeDomain_doms (s : State) (n : Nat) : DomsWoken s.pwr s.doms (wakeDomain s n).doms := by
  unfold wakeDomain
  split
  · exact .refl _ _
  · rename_i x hx
    split
    · exact .refl _ _
    · rename_i hm
      intro d
      by_cases e : n = d.val
      · subst e
        have hx' : s.doms[d] = x := by simpa using hx
        refine .inr ⟨fun h => hm (by rw [hx'] at h; simp [h]), ?_⟩
        simp [hx']
      · exact .inl (by simp [e])

theorem wakeDomain_quiet {r s : State} (h : Quiet r s) (n : Nat) : Quiet r (wakeDomain s n) := by
  have k := wakeDomain_doms s n
  rw [h.pwr] at k
  refine ⟨?_, ?_, ?_, ?_, h.doms.trans k, ?_⟩ <;> unfold wakeDomain <;> split <;> try split
  all_goals first | exact h.aon | exact h.prot | exact h.adm | exact h.pwr | exact h.mover

theorem Quiet.upd {r t : State} {pins gbl pcie log queues host dram parts stage streams energy sys media hmap cal micro cas free pending}
    (h : Quiet r t) : Quiet r (State.mk pins t.aon gbl t.prot t.adm t.pwr t.doms pcie log queues host dram parts stage streams energy sys
      media hmap cal micro t.mover cas free pending) := ⟨h.aon, h.prot, h.adm, h.pwr, h.doms, h.mover⟩

theorem Quiet.foldl {α : Type} {r : State} (f : State → α → State) (l : List α) {s : State} (h : Quiet r s)
    (step : ∀ t x, Quiet r t → Quiet r (f t x)) : Quiet r (l.foldl f s) := by
  induction l generalizing s with
  | nil => exact h
  | cons x l ih => exact ih (step s x h)

theorem Quiet.ite {r s t : State} {c : Prop} [Decidable c] (h : Quiet r s) (k : Quiet r t) : Quiet r (if c then s else t) := by
  split
  · exact h
  · exact k

/-- The same of an operation that also answers a value. -/
def PairQuiet {α : Type} (r : State) (p : State × α) : Prop := Quiet r p.1

theorem PairQuiet.mk {α : Type} {r s : State} {a : α} (h : Quiet r s) : PairQuiet r (s, a) := h
theorem PairQuiet.mk_iff {α : Type} {r s : State} {a : α} : PairQuiet r (s, a) ↔ Quiet r s := Iff.rfl
theorem PairQuiet.fst {α : Type} {r : State} {p : State × α} (h : PairQuiet r p) : Quiet r p.1 := h
theorem PairQuiet.eq {α : Type} {r s : State} {a : α} {p : State × α} (e : p = (s, a)) (h : PairQuiet r p) : Quiet r s := by
  rw [e] at h
  exact h

theorem PairQuiet.foldl {α β : Type} {r : State} (f : State × β → α → State × β) (l : List α) {p : State × β} (h : PairQuiet r p)
    (step : ∀ t x, PairQuiet r t → PairQuiet r (f t x)) : PairQuiet r (l.foldl f p) := by
  induction l generalizing p with
  | nil => exact h
  | cons x l ih => exact ih (step p x h)

/-- The same of an operation that may be refused. -/
def OptQuiet (r : State) (o : Option State) : Prop := ∀ t, o = some t → Quiet r t

theorem OptQuiet.none {r : State} : OptQuiet r none := fun _ e => nomatch e
theorem OptQuiet.some {r s : State} (h : Quiet r s) : OptQuiet r (some s) := by
  intro t e
  cases e
  exact h
theorem OptQuiet.eq {r s : State} {o : Option State} (e : o = .some s) (h : OptQuiet r o) : Quiet r s := h s e
theorem OptQuiet.getD {r s : State} {o : Option State} (k : OptQuiet r o) (h : Quiet r s) : Quiet r (o.getD s) := by
  cases o with
  | none => exact h
  | some t => exact k t rfl

theorem OptQuiet.map {r : State} {o : Option State} {f : State → State} (h : OptQuiet r o) (k : ∀ t, Quiet r t → Quiet r (f t)) :
    OptQuiet r (o.map f) := by
  cases o with
  | none => exact .none
  | some t => exact .some (k t (h t rfl))

theorem OptQuiet.bind {r : State} {o : Option State} {f : State → Option State} (h : OptQuiet r o)
    (k : ∀ t, Quiet r t → OptQuiet r (f t)) : OptQuiet r (o.bind f) := by
  cases o with
  | none => exact .none
  | some t => exact k t (h t rfl)

theorem OptQuiet.foldl {α : Type} {r : State} (f : Option State → α → Option State) (l : List α) {o : Option State} (h : OptQuiet r o)
    (step : ∀ t x, OptQuiet r t → OptQuiet r (f t x)) : OptQuiet r (l.foldl f o) := by
  induction l generalizing o with
  | nil => exact h
  | cons x l ih => exact ih (step o x h)

/-- The same of an operation that may be refused and also answers a value. -/
def OptPairQuiet {α : Type} (r : State) (o : Option (State × α)) : Prop := ∀ t a, o = some (t, a) → Quiet r t

theorem OptPairQuiet.none {α : Type} {r : State} : OptPairQuiet r (none : Option (State × α)) := fun _ _ e => nomatch e
theorem OptPairQuiet.some {α : Type} {r s : State} {a : α} (h : Quiet r s) : OptPairQuiet r (some (s, a)) := by
  intro t b e
  cases e
  exact h
theorem OptPairQuiet.eq {α : Type} {r s : State} {a : α} {o : Option (State × α)} (e : o = .some (s, a)) (h : OptPairQuiet r o) :
    Quiet r s := h s a e

/-- The same of an operation that goes on, or ends and also answers a value. -/
def SumQuiet {α : Type} (r : State) (x : State ⊕ (State × α)) : Prop := (∀ t, x = .inl t → Quiet r t) ∧ (∀ t a, x = .inr (t, a) → Quiet r t)

theorem SumQuiet.inl {α : Type} {r s : State} (h : Quiet r s) : SumQuiet r (.inl s : State ⊕ (State × α)) := by
  refine ⟨fun t e => ?_, fun t a e => nomatch e⟩
  cases e
  exact h
theorem SumQuiet.inr {α : Type} {r s : State} {a : α} (h : Quiet r s) : SumQuiet r (.inr (s, a)) := by
  refine ⟨fun t e => (nomatch e), fun t b e => ?_⟩
  cases e
  exact h
theorem SumQuiet.eqInl {α : Type} {r s : State} {x : State ⊕ (State × α)} (e : x = .inl s) (h : SumQuiet r x) : Quiet r s := h.1 s e
theorem SumQuiet.eqInr {α : Type} {r s : State} {a : α} {x : State ⊕ (State × α)} (e : x = .inr (s, a)) (h : SumQuiet r x) : Quiet r s := h.2 s a e

/-- Every next state of an outcome has kept what counts since `r`. -/
def NextQuiet (r : State) (o : Host.Outcome State Fault Refusal) : Prop := ∀ t, o = .next t → Quiet r t

theorem NextQuiet.next {r t : State} (h : Quiet r t) : NextQuiet r (.next t) := by
  intro u e
  cases e
  exact h

end Sys2Proof.Machine
end

