-- ==== Sys2Proof/Laws/QuietOps.lean ====
section
/-! SUPPORT. `Quiet` for the operations behind the commands of consumed entries, one lemma an operation. -/

namespace Sys2Proof.Machine













theorem absorbBus_quiet {ρ s0 : State} (hρ : Quiet ρ s0) (b : Bus) : Quiet ρ (absorbBus s0 b) := by
  unfold absorbBus
  repeat' first
    | with_reducible assumption | extract_lets | with_reducible apply wakeDomain_quiet | with_reducible apply Quiet.foldl | split
    | (intro _; intros; beta_reduce) | with_reducible refine Quiet.upd ?_

theorem countBus_quiet {ρ s : State} (hρ : Quiet ρ s) : Quiet ρ (countBus s) := by
  unfold countBus
  repeat' first
    | with_reducible assumption | extract_lets | split | with_reducible refine Quiet.upd ?_

theorem shWrite_quiet {ρ s : State} (hρ : Quiet ρ s) (a : Nat) (bs : List Byte) : Quiet ρ (shWrite s a bs) := by
  unfold shWrite
  repeat' first
    | with_reducible assumption | extract_lets | with_reducible apply wakeDomain_quiet | with_reducible apply countBus_quiet | split
    | with_reducible refine Quiet.upd ?_

theorem dramWriteL_quiet {ρ s : State} (hρ : Quiet ρ s) (a : Nat) (bs : List Byte) : PairQuiet ρ (dramWriteL s a bs) := by
  unfold dramWriteL
  repeat' first
    | with_reducible assumption | extract_lets | with_reducible apply wakeDomain_quiet | simp only [PairQuiet.mk_iff]
    | with_reducible apply PairQuiet.fst | with_reducible refine PairQuiet.eq (by assumption) ?_ | split
    | with_reducible refine Quiet.upd ?_

theorem scatter_quiet {ρ s : State} (hρ : Quiet ρ s) (a0 : List Seg) (a1 : List Byte) : PairQuiet ρ (scatter s a0 a1) := by
  induction a0 generalizing s a1 with
  | nil =>
    rw [scatter]
    exact .mk hρ
  | cons g gs ih =>
    rw [scatter]
    extract_lets r
    have hr : PairQuiet ρ r := dramWriteL_quiet hρ _ _
    clear_value r
    split
    · exact .mk hρ
    · split
      · exact ih hρ _
      · split
        · split
          · exact ih hr.fst _
          · exact .mk hr.fst
        · split
          · exact .mk hρ
          · exact ih (shWrite_quiet hρ _ _) _

theorem spoilSeg_quiet {ρ s : State} (hρ : Quiet ρ s) (g : Seg) : Quiet ρ (spoilSeg s g) := by
  unfold spoilSeg
  repeat' first
    | with_reducible assumption | extract_lets | with_reducible apply dramWriteL_quiet | with_reducible apply shWrite_quiet
    | simp only [PairQuiet.mk_iff] | with_reducible apply PairQuiet.fst | with_reducible refine PairQuiet.eq (by assumption) ?_ | split
    | with_reducible apply Quiet.ite | with_reducible refine Quiet.upd ?_

theorem spoil_quiet {ρ s : State} (hρ : Quiet ρ s) (segs : List Seg) : Quiet ρ (spoil s segs) := by
  unfold spoil
  repeat' first
    | with_reducible assumption | extract_lets | with_reducible apply spoilSeg_quiet | with_reducible apply Quiet.foldl | split
    | (intro _; intros; beta_reduce)

theorem sendVector_quiet {ρ s : State} (hρ : Quiet ρ s) (v : Nat) : Quiet ρ (sendVector s v) := by
  unfold sendVector
  repeat' first
    | with_reducible assumption | extract_lets | split | with_reducible refine Quiet.upd ?_

theorem setIrq_quiet {ρ s : State} (hρ : Quiet ρ s) (bits : BitVec 13) : Quiet ρ (setIrq s bits) := by
  unfold setIrq
  repeat' first
    | with_reducible assumption | extract_lets | with_reducible apply sendVector_quiet | split | with_reducible refine Quiet.upd ?_

theorem noteGen_quiet {ρ s : State} (hρ : Quiet ρ s) (page : Nat) : Quiet ρ (noteGen s page) := by
  unfold noteGen
  repeat' first
    | with_reducible assumption | extract_lets | split | with_reducible refine Quiet.upd ?_

theorem logEvent_quiet {ρ s : State} (hρ : Quiet ρ s) (type : Nat) (fs : List (Nat × Nat × Nat)) : Quiet ρ (logEvent s type fs) := by
  unfold logEvent
  repeat' first
    | with_reducible assumption | extract_lets | with_reducible apply setIrq_quiet | split | with_reducible refine Quiet.upd ?_

theorem refresh_quiet {ρ s : State} (hρ : Quiet ρ s) : Quiet ρ (refresh s) := by
  unfold refresh
  repeat' first
    | with_reducible assumption | extract_lets | with_reducible apply setIrq_quiet | with_reducible apply noteGen_quiet | split
    | with_reducible refine Quiet.upd ?_

theorem sendPort_quiet {ρ s : State} (hρ : Quiet ρ s) (n : Nat) (p : Packet) : Quiet ρ (sendPort s n p) := by
  unfold sendPort
  repeat' first
    | with_reducible assumption | extract_lets | split | with_reducible refine Quiet.upd ?_

theorem sendPkt_quiet {ρ s : State} (hρ : Quiet ρ s) (p : Packet) : Quiet ρ (sendPkt s p) := by
  unfold sendPkt
  repeat' first
    | with_reducible assumption | extract_lets | with_reducible apply sendPort_quiet | split | with_reducible refine Quiet.upd ?_

theorem setJob_quiet {ρ s : State} (hρ : Quiet ρ s) (j : Job) : Quiet ρ (setJob s j) := by
  unfold setJob
  repeat' first
    | with_reducible assumption | extract_lets | split | (intro _; intros; beta_reduce) | with_reducible refine Quiet.upd ?_

theorem modQueue_quiet {ρ s : State} (hρ : Quiet ρ s) (q : Nat) (f : Queue → Queue) : Quiet ρ (modQueue s q f) := by
  unfold modQueue
  repeat' first
    | with_reducible assumption | extract_lets | split | with_reducible refine Quiet.upd ?_

theorem writeShadow_quiet {ρ s : State} (hρ : Quiet ρ s) (q : Nat) : Quiet ρ (writeShadow s q) := by
  unfold writeShadow
  repeat' first
    | with_reducible assumption | extract_lets | with_reducible apply shWrite_quiet | with_reducible apply modQueue_quiet | split
    | (intro _; intros; beta_reduce) | with_reducible refine Quiet.upd ?_

theorem signalQueue_quiet {ρ s : State} (hρ : Quiet ρ s) (q : Nat) : Quiet ρ (signalQueue s q) := by
  unfold signalQueue
  repeat' first
    | with_reducible assumption | extract_lets | with_reducible apply writeShadow_quiet | with_reducible apply modQueue_quiet
    | with_reducible apply sendVector_quiet | split | (intro _; intros; beta_reduce) | with_reducible refine Quiet.upd ?_

theorem markDone_quiet {ρ s : State} (hρ : Quiet ρ s) (q : Nat) (c : Word) (status : Nat) : Quiet ρ (markDone s q c status) := by
  unfold markDone
  repeat' first
    | with_reducible assumption | extract_lets | with_reducible apply modQueue_quiet | with_reducible apply setIrq_quiet
    | with_reducible apply writeShadow_quiet | with_reducible apply signalQueue_quiet | split | (intro _; intros; beta_reduce)
    | with_reducible refine Quiet.upd ?_

theorem ringQueue_quiet {ρ s : State} (hρ : Quiet ρ s) (q : Nat) : Quiet ρ (ringQueue s q) := by
  unfold ringQueue
  repeat' first
    | with_reducible assumption | extract_lets | with_reducible apply modQueue_quiet | split | (intro _; intros; beta_reduce)
    | with_reducible refine Quiet.upd ?_

theorem logCmd_quiet {ρ s : State} (hρ : Quiet ρ s) (j : Job) (c : Compl) (detail : Nat) : Quiet ρ (logCmd s j c detail) := by
  unfold logCmd
  repeat' first
    | with_reducible assumption | extract_lets | with_reducible apply logEvent_quiet | split

theorem postRecord_quiet {ρ s : State} (hρ : Quiet ρ s) (j : Job) (c : Compl) (logged : Bool) : Quiet ρ (postRecord s j c logged) := by
  unfold postRecord
  repeat' first
    | with_reducible assumption | extract_lets | with_reducible apply sendPkt_quiet | with_reducible apply shWrite_quiet
    | with_reducible apply markDone_quiet | split | (intro _; intros; beta_reduce) | with_reducible refine Quiet.upd ?_

theorem complete_quiet {ρ s : State} (hρ : Quiet ρ s) (j : Job) (c : Compl) (detail : Nat) : Quiet ρ (complete s j c detail) := by
  unfold complete
  repeat' first
    | with_reducible assumption | extract_lets | with_reducible apply postRecord_quiet | with_reducible apply logCmd_quiet | split

theorem setStream_quiet {ρ s : State} (hρ : Quiet ρ s) (key : Nat) (t : Strm) : Quiet ρ (setStream s key t) := by
  unfold setStream
  repeat' first
    | with_reducible assumption | extract_lets | split | with_reducible refine Quiet.upd ?_

theorem addDue_quiet {ρ s : State} (hρ : Quiet ρ s) (key : Nat) (t : Strm) (ds : List DueRec) : Quiet ρ (addDue s key t ds) := by
  unfold addDue
  repeat' first
    | with_reducible assumption | extract_lets | with_reducible apply wakeDomain_quiet | with_reducible apply setStream_quiet | split
    | (intro _; intros; beta_reduce) | with_reducible refine Quiet.upd ?_

theorem closeWith_quiet {ρ s : State} (hρ : Quiet ρ s) (key : Nat) (t : Strm) (a : DueRec) (cap host : Nat) :
    Quiet ρ (closeWith s key t a cap host) := by
  unfold closeWith
  repeat' first
    | with_reducible assumption | extract_lets | with_reducible apply addDue_quiet | split | with_reducible refine Quiet.upd ?_

theorem endRunning_quiet {ρ s : State} (hρ : Quiet ρ s) (key : Nat) (t : Strm) (r : Running) (flags mark cap host : Nat) (useHost :
    Bool) : Quiet ρ (endRunning s key t r flags mark cap host useHost) := by
  unfold endRunning
  repeat' first
    | with_reducible assumption | extract_lets | with_reducible apply closeWith_quiet | split

theorem endOrEmpty_quiet {ρ s : State} (hρ : Quiet ρ s) (key : Nat) (t : Strm) (flags mark cap host : Nat) :
    Quiet ρ (endOrEmpty s key t flags mark cap host) := by
  unfold endOrEmpty
  repeat' first
    | with_reducible assumption | extract_lets | with_reducible apply endRunning_quiet | with_reducible apply closeWith_quiet | split
    | with_reducible refine Quiet.upd ?_

theorem sealOpen_quiet {ρ s : State} (hρ : Quiet ρ s) (aflag cflag : Nat) : Quiet ρ (sealOpen s aflag cflag) := by
  unfold sealOpen
  repeat' first
    | with_reducible assumption | extract_lets | with_reducible apply endRunning_quiet | with_reducible apply addDue_quiet
    | with_reducible apply Quiet.foldl | split | (intro _; intros; beta_reduce) | with_reducible refine Quiet.upd ?_

theorem appendSpans_quiet {ρ s : State} (hρ : Quiet ρ s) (key host : Nat) (foot : Bool) (a0 a1 : Nat) :
    Quiet ρ (appendSpans s key host foot a0 a1) := by
  induction a0 generalizing s a1 with
  | zero =>
    rw [appendSpans]
    exact hρ
  | succ fuel ih =>
    rw [appendSpans]
    repeat' first
      | with_reducible assumption | with_reducible apply ih | extract_lets | with_reducible apply endRunning_quiet
      | with_reducible apply setStream_quiet | split

theorem appendData_quiet {ρ s : State} (hρ : Quiet ρ s) (key host : Nat) (foot : Bool) (bytes : List Byte) :
    Quiet ρ (appendData s key host foot bytes) := by
  unfold appendData
  repeat' first
    | with_reducible assumption | extract_lets | with_reducible apply appendSpans_quiet | with_reducible apply setStream_quiet | split
    | with_reducible refine Quiet.upd ?_

theorem setSafe_quiet {ρ s : State} (hρ : Quiet ρ s) : Quiet ρ (setSafe s) := by
  unfold setSafe
  repeat' first
    | with_reducible assumption | extract_lets | split | with_reducible refine Quiet.upd ?_

theorem setOnMedia_quiet {ρ s : State} (hρ : Quiet ρ s) : Quiet ρ (setOnMedia s) := by
  unfold setOnMedia
  repeat' first
    | with_reducible assumption | extract_lets | with_reducible apply setIrq_quiet | split | with_reducible refine Quiet.upd ?_

theorem setMason_quiet {ρ s : State} (hρ : Quiet ρ s) (c : Fin 16) (m : Mason) : Quiet ρ (setMason s c m) := by
  unfold setMason
  repeat' first
    | with_reducible assumption | extract_lets | split | with_reducible refine Quiet.upd ?_

theorem modMedia_quiet {ρ s : State} (hρ : Quiet ρ s) (f : Media → Media) : Quiet ρ (modMedia s f) := by
  unfold modMedia
  repeat' first
    | with_reducible assumption | extract_lets | split | with_reducible refine Quiet.upd ?_

theorem modLun_quiet {ρ s : State} (hρ : Quiet ρ s) (k : Nat) (f : Lun → Lun) : Quiet ρ (modLun s k f) := by
  unfold modLun
  repeat' first
    | with_reducible assumption | extract_lets | with_reducible apply modMedia_quiet | split | (intro _; intros; beta_reduce)
    | with_reducible refine Quiet.upd ?_

theorem modHealth_quiet {ρ s : State} (hρ : Quiet ρ s) (f : Health → Health) : Quiet ρ (modHealth s f) := by
  unfold modHealth
  repeat' first
    | with_reducible assumption | extract_lets | split | with_reducible refine Quiet.upd ?_

theorem setBlk_quiet {ρ s : State} (hρ : Quiet ρ s) (k : Nat) (u : BlkUse) : Quiet ρ (setBlk s k u) := by
  unfold setBlk
  repeat' first
    | with_reducible assumption | extract_lets | with_reducible apply modMedia_quiet | with_reducible apply noteGen_quiet | split
    | (intro _; intros; beta_reduce) | with_reducible refine Quiet.upd ?_

theorem formCourse_quiet {ρ s : State} (hρ : Quiet ρ s) (role : Role) (blocks : List Nat) (mortar : Nat) (slc : Bool) :
    Quiet ρ (formCourse s role blocks mortar slc) := by
  unfold formCourse
  repeat' first
    | with_reducible assumption | extract_lets | with_reducible apply setBlk_quiet | with_reducible apply modMedia_quiet
    | with_reducible apply Quiet.foldl | split | (intro _; intros; beta_reduce) | with_reducible refine Quiet.upd ?_

theorem closeFull_quiet {ρ s : State} (hρ : Quiet ρ s) (id : Nat) : Quiet ρ (closeFull s id) := by
  unfold closeFull
  repeat' first
    | with_reducible assumption | extract_lets | with_reducible apply modMedia_quiet | split | (intro _; intros; beta_reduce)
    | with_reducible refine Quiet.upd ?_

theorem storeCws_quiet {ρ s : State} (hρ : Quiet ρ s) (block page : Nat) (d : Nat → List Byte) : Quiet ρ (storeCws s block page d) := by
  unfold storeCws
  repeat' first
    | with_reducible assumption | extract_lets | with_reducible apply Quiet.foldl | split | (intro _; intros; beta_reduce)
    | with_reducible refine Quiet.upd ?_

theorem storePage_quiet {ρ s : State} (hρ : Quiet ρ s) (c : Course) (m row : Nat) (refs : List Ref) :
    Quiet ρ (storePage s c m row refs) := by
  unfold storePage
  repeat' first
    | with_reducible assumption | extract_lets | with_reducible apply storeCws_quiet | with_reducible apply Quiet.foldl | split
    | (intro _; intros; beta_reduce) | with_reducible refine Quiet.upd ?_

theorem erased_quiet {ρ s : State} (hρ : Quiet ρ s) (k : Nat) : Quiet ρ (erased s k) := by
  unfold erased
  repeat' first
    | with_reducible assumption | extract_lets | with_reducible apply modMedia_quiet | with_reducible apply noteGen_quiet | split
    | (intro _; intros; beta_reduce) | with_reducible refine Quiet.upd ?_

theorem relocCourse_quiet {ρ s : State} (hρ : Quiet ρ s) (cold : Bool) : OptPairQuiet ρ (relocCourse s cold) := by
  unfold relocCourse
  repeat' first
    | with_reducible assumption | extract_lets | with_reducible apply formCourse_quiet | with_reducible exact OptPairQuiet.none
    | with_reducible apply OptPairQuiet.some | with_reducible refine OptPairQuiet.eq (by assumption) ?_ | split
    | (intro _; intros; beta_reduce) | with_reducible refine Quiet.upd ?_

theorem placeAt_quiet {ρ s : State} (hρ : Quiet ρ s) (id : Nat) (c : Course) (m : Nat) (page : List Ref) :
    Quiet ρ (placeAt s id c m page) := by
  unfold placeAt
  repeat' first
    | with_reducible assumption | extract_lets | with_reducible apply storePage_quiet | with_reducible apply modMedia_quiet
    | with_reducible apply modHealth_quiet | split | (intro _; intros; beta_reduce) | with_reducible refine Quiet.upd ?_

theorem placePage_quiet {ρ s : State} (hρ : Quiet ρ s) (cold : Bool) (page : List Ref) : OptQuiet ρ (placePage s cold page) := by
  unfold placePage
  repeat' first
    | with_reducible assumption | extract_lets | with_reducible apply relocCourse_quiet | with_reducible apply placeAt_quiet
    | with_reducible apply closeFull_quiet | with_reducible exact OptQuiet.none | with_reducible apply OptQuiet.some
    | with_reducible apply OptQuiet.map | with_reducible apply OptQuiet.bind | with_reducible apply OptQuiet.foldl
    | with_reducible apply OptQuiet.getD | with_reducible refine OptQuiet.eq (by assumption) ?_ | with_reducible exact OptPairQuiet.none
    | with_reducible apply OptPairQuiet.some | with_reducible refine OptPairQuiet.eq (by assumption) ?_ | split
    | (intro _; intros; beta_reduce) | with_reducible refine Quiet.upd ?_

theorem placePages_quiet {ρ s : State} (hρ : Quiet ρ s) (cold : Bool) (pages : List (List Ref)) :
    OptQuiet ρ (placePages s cold pages) := by
  unfold placePages
  repeat' first
    | with_reducible assumption | extract_lets | with_reducible apply placePage_quiet | with_reducible exact OptQuiet.none
    | with_reducible apply OptQuiet.some | with_reducible apply OptQuiet.map | with_reducible apply OptQuiet.bind
    | with_reducible apply OptQuiet.foldl | with_reducible apply OptQuiet.getD | with_reducible refine OptQuiet.eq (by assumption) ?_
    | with_reducible apply Quiet.foldl | split | (intro _; intros; beta_reduce)

theorem placeClass_quiet {ρ s : State} (hρ : Quiet ρ s) (cold : Bool) (pages : List (List Ref)) :
    OptQuiet ρ (placeClass s cold pages) := by
  unfold placeClass
  repeat' first
    | with_reducible assumption | extract_lets | with_reducible apply placePages_quiet | with_reducible exact OptQuiet.none
    | with_reducible apply OptQuiet.some | with_reducible apply OptQuiet.map | with_reducible apply OptQuiet.bind
    | with_reducible apply OptQuiet.foldl | with_reducible apply OptQuiet.getD | with_reducible refine OptQuiet.eq (by assumption) ?_
    | split | (intro _; intros; beta_reduce)

theorem placeMoved_quiet {ρ s : State} (hρ : Quiet ρ s) (refs : List Ref) : OptQuiet ρ (placeMoved s refs) := by
  unfold placeMoved
  repeat' first
    | with_reducible assumption | extract_lets | with_reducible apply placeClass_quiet | with_reducible exact OptQuiet.none
    | with_reducible apply OptQuiet.some | with_reducible apply OptQuiet.map | with_reducible apply OptQuiet.bind
    | with_reducible apply OptQuiet.foldl | with_reducible apply OptQuiet.getD | with_reducible refine OptQuiet.eq (by assumption) ?_
    | split | (intro _; intros; beta_reduce)

theorem dropCourse_quiet {ρ s : State} (hρ : Quiet ρ s) (id : Nat) : Quiet ρ (dropCourse s id) := by
  unfold dropCourse
  repeat' first
    | with_reducible assumption | extract_lets | with_reducible apply setBlk_quiet | with_reducible apply modMedia_quiet
    | with_reducible apply Quiet.foldl | split | (intro _; intros; beta_reduce) | with_reducible refine Quiet.upd ?_

theorem emptyCourse_quiet {ρ s : State} (hρ : Quiet ρ s) (id : Nat) : OptQuiet ρ (emptyCourse s id) := by
  unfold emptyCourse
  repeat' first
    | with_reducible assumption | extract_lets | with_reducible apply placeMoved_quiet | with_reducible apply dropCourse_quiet
    | with_reducible exact OptQuiet.none | with_reducible apply OptQuiet.some | with_reducible apply OptQuiet.map
    | with_reducible apply OptQuiet.bind | with_reducible apply OptQuiet.foldl | with_reducible apply OptQuiet.getD
    | with_reducible refine OptQuiet.eq (by assumption) ?_ | split | (intro _; intros; beta_reduce) | with_reducible refine Quiet.upd ?_

theorem freeEmpty_quiet {ρ s : State} (hρ : Quiet ρ s) : Quiet ρ (freeEmpty s) := by
  unfold freeEmpty
  repeat' first
    | with_reducible assumption | extract_lets | with_reducible apply dropCourse_quiet | with_reducible apply Quiet.foldl | split
    | (intro _; intros; beta_reduce)

theorem retireBlock_quiet {ρ s : State} (hρ : Quiet ρ s) (id member : Nat) (retire : Bool) :
    Quiet ρ (retireBlock s id member retire) := by
  unfold retireBlock
  repeat' first
    | with_reducible assumption | extract_lets | with_reducible apply modMedia_quiet | with_reducible apply setBlk_quiet
    | with_reducible apply placeMoved_quiet | with_reducible exact OptQuiet.none | with_reducible apply OptQuiet.some
    | with_reducible apply OptQuiet.map | with_reducible apply OptQuiet.bind | with_reducible apply OptQuiet.foldl
    | with_reducible apply OptQuiet.getD | with_reducible refine OptQuiet.eq (by assumption) ?_ | split | (intro _; intros; beta_reduce)
    | with_reducible refine Quiet.upd ?_

theorem dropDie_quiet {ρ s0 : State} (hρ : Quiet ρ s0) (l : Nat) : Quiet ρ (dropDie s0 l) := by
  unfold dropDie
  repeat' first
    | with_reducible assumption | extract_lets | with_reducible apply modMedia_quiet | with_reducible apply modLun_quiet | split
    | (intro _; intros; beta_reduce) | with_reducible refine Quiet.upd ?_

theorem dieFailed_quiet {ρ s : State} (hρ : Quiet ρ s) (l why : Nat) : Quiet ρ (dieFailed s l why) := by
  unfold dieFailed
  repeat' first
    | with_reducible assumption | extract_lets | with_reducible apply logEvent_quiet | with_reducible apply dropDie_quiet
    | with_reducible apply refresh_quiet | split | (intro _; intros; beta_reduce) | with_reducible refine Quiet.upd ?_

theorem hmapEvent_quiet {ρ s : State} (hρ : Quiet ρ s) (kind region slot leaf : Nat) : Quiet ρ (hmapEvent s kind region slot leaf) := by
  unfold hmapEvent
  repeat' first
    | with_reducible assumption | extract_lets | split | with_reducible refine Quiet.upd ?_

theorem modRegion_quiet {ρ s : State} (hρ : Quiet ρ s) (r : Nat) (f : HmRegion → HmRegion) : Quiet ρ (modRegion s r f) := by
  unfold modRegion
  repeat' first
    | with_reducible assumption | extract_lets | split | (intro _; intros; beta_reduce) | with_reducible refine Quiet.upd ?_

theorem retireRegion_quiet {ρ s : State} (hρ : Quiet ρ s) (r slot leaf : Nat) : Quiet ρ (retireRegion s r slot leaf) := by
  unfold retireRegion
  repeat' first
    | with_reducible assumption | extract_lets | with_reducible apply modRegion_quiet | with_reducible apply hmapEvent_quiet | split
    | (intro _; intros; beta_reduce) | with_reducible refine Quiet.upd ?_

theorem hmapFail_quiet {ρ s : State} (hρ : Quiet ρ s) (r slot leaf : Nat) (busError : Bool) :
    Quiet ρ (hmapFail s r slot leaf busError) := by
  unfold hmapFail
  repeat' first
    | with_reducible assumption | extract_lets | with_reducible apply modRegion_quiet | with_reducible apply countBus_quiet
    | with_reducible apply setIrq_quiet | with_reducible apply hmapEvent_quiet | with_reducible apply refresh_quiet
    | with_reducible apply retireRegion_quiet | split | (intro _; intros; beta_reduce) | with_reducible refine Quiet.upd ?_

theorem readSlot_quiet {ρ s : State} (hρ : Quiet ρ s) (b : Bus) (k l : Nat) : Quiet ρ (readSlot s b k l) := by
  unfold readSlot
  repeat' first
    | with_reducible assumption | extract_lets | with_reducible apply hmapFail_quiet | split | with_reducible refine Quiet.upd ?_

theorem fillSlot_quiet {ρ s : State} (hρ : Quiet ρ s) (k l : Nat) : Quiet ρ (fillSlot s k l) := by
  unfold fillSlot
  repeat' first
    | with_reducible assumption | extract_lets | with_reducible apply shWrite_quiet | split | with_reducible refine Quiet.upd ?_

theorem placeLeaf_quiet {ρ s : State} (hρ : Quiet ρ s) (l : Nat) : Quiet ρ (placeLeaf s l) := by
  unfold placeLeaf
  repeat' first
    | with_reducible assumption | extract_lets | with_reducible apply fillSlot_quiet | split | (intro _; intros; beta_reduce)
    | with_reducible refine Quiet.upd ?_

theorem writeLeaf_quiet {ρ s : State} (hρ : Quiet ρ s) (l : Nat) : Quiet ρ (writeLeaf s l) := by
  unfold writeLeaf
  repeat' first
    | with_reducible assumption | extract_lets | split | (intro _; intros; beta_reduce) | with_reducible refine Quiet.upd ?_

theorem spillLeaf_quiet {ρ s : State} (hρ : Quiet ρ s) (host : Bool) (x : Nat × Bool) : Quiet ρ (spillLeaf host s x) := by
  unfold spillLeaf
  repeat' first
    | with_reducible assumption | extract_lets | with_reducible apply writeLeaf_quiet | with_reducible apply placeLeaf_quiet | split
    | with_reducible apply Quiet.ite

theorem balance_quiet {ρ s : State} (hρ : Quiet ρ s) (host : Bool) : Quiet ρ (balance s host) := by
  unfold balance
  repeat' first
    | with_reducible assumption | extract_lets | with_reducible apply spillLeaf_quiet | with_reducible apply Quiet.foldl | split
    | (intro _; intros; beta_reduce) | with_reducible refine Quiet.upd ?_

theorem holdLeaf_quiet {ρ s : State} (hρ : Quiet ρ s) (l : Nat) (dirty : Bool) : Quiet ρ (holdLeaf s l dirty) := by
  unfold holdLeaf
  repeat' first
    | with_reducible assumption | extract_lets | split | (intro _; intros; beta_reduce) | with_reducible refine Quiet.upd ?_

theorem takeLeaf_quiet {ρ s : State} (hρ : Quiet ρ s) (b : Bus) (l : Nat) : Quiet ρ (takeLeaf b s l) := by
  unfold takeLeaf
  repeat' first
    | with_reducible assumption | extract_lets | with_reducible apply readSlot_quiet | with_reducible apply balance_quiet
    | with_reducible apply holdLeaf_quiet | split | with_reducible refine Quiet.upd ?_

theorem takeLeaves_quiet {ρ s : State} (hρ : Quiet ρ s) (b : Bus) (p first len : Nat) : Quiet ρ (takeLeaves s b p first len) := by
  unfold takeLeaves
  repeat' first
    | with_reducible assumption | extract_lets | with_reducible apply takeLeaf_quiet | with_reducible apply Quiet.foldl | split
    | (intro _; intros; beta_reduce)

theorem dirtyLeaf_quiet {ρ s : State} (hρ : Quiet ρ s) (l : Nat) : Quiet ρ (dirtyLeaf s l) := by
  unfold dirtyLeaf
  repeat' first
    | with_reducible assumption | extract_lets | with_reducible apply balance_quiet | with_reducible apply holdLeaf_quiet | split

theorem flushLeaves_quiet {ρ s : State} (hρ : Quiet ρ s) : Quiet ρ (flushLeaves s) := by
  unfold flushLeaves
  repeat' first
    | with_reducible assumption | extract_lets | with_reducible apply writeLeaf_quiet | with_reducible apply Quiet.foldl | split
    | (intro _; intros; beta_reduce) | with_reducible refine Quiet.upd ?_

theorem dropLeaves_quiet {ρ s : State} (hρ : Quiet ρ s) (p : Nat) : Quiet ρ (dropLeaves s p) := by
  unfold dropLeaves
  repeat' first
    | with_reducible assumption | extract_lets | split | (intro _; intros; beta_reduce) | with_reducible refine Quiet.upd ?_

theorem scrubSlot_quiet {ρ s : State} (hρ : Quiet ρ s) (b : Bus) (x : Nat × Nat × Nat) : Quiet ρ (scrubSlot b s x) := by
  unfold scrubSlot
  repeat' first
    | with_reducible assumption | extract_lets | with_reducible apply readSlot_quiet | with_reducible apply fillSlot_quiet | split

theorem attachMap_quiet {ρ s : State} (hρ : Quiet ρ s) (rs : List HmRegion) : Quiet ρ (attachMap s rs) := by
  unfold attachMap
  repeat' first
    | with_reducible assumption | extract_lets | split | with_reducible refine Quiet.upd ?_

theorem detachMap_quiet {ρ s : State} (hρ : Quiet ρ s) : Quiet ρ (detachMap s) := by
  unfold detachMap
  repeat' first
    | with_reducible assumption | extract_lets | with_reducible apply refresh_quiet | split | with_reducible refine Quiet.upd ?_

theorem releaseFence_quiet {ρ s : State} (hρ : Quiet ρ s) (q : Nat) : Quiet ρ (releaseFence s q) := by
  unfold releaseFence
  repeat' first
    | with_reducible assumption | extract_lets | with_reducible apply modQueue_quiet | split | (intro _; intros; beta_reduce)
    | with_reducible refine Quiet.upd ?_

theorem forward_quiet {ρ s : State} (hρ : Quiet ρ s) (j : Job) : Quiet ρ (forward s j) := by
  unfold forward
  repeat' first
    | with_reducible assumption | extract_lets | with_reducible apply complete_quiet | with_reducible apply setJob_quiet
    | with_reducible apply sendPort_quiet | split | with_reducible refine Quiet.upd ?_

theorem settleJob_quiet {ρ s : State} (hρ : Quiet ρ s) (j : Job) : Quiet ρ (settleJob s j) := by
  unfold settleJob
  repeat' first
    | with_reducible assumption | extract_lets | with_reducible apply complete_quiet | with_reducible apply releaseFence_quiet
    | with_reducible apply setJob_quiet | with_reducible apply forward_quiet | split | with_reducible refine Quiet.upd ?_

theorem settleJobs_quiet {ρ s : State} (hρ : Quiet ρ s) : Quiet ρ (settleJobs s) := by
  unfold settleJobs
  repeat' first
    | with_reducible assumption | extract_lets | with_reducible apply settleJob_quiet | with_reducible apply Quiet.foldl | split
    | (intro _; intros; beta_reduce)

theorem ackJob_quiet {ρ s : State} (hρ : Quiet ρ s) (w : VWrite) (media : Bool) : Quiet ρ (ackJob s w media) := by
  unfold ackJob
  repeat' first
    | with_reducible assumption | extract_lets | with_reducible apply complete_quiet | split | (intro _; intros; beta_reduce)
    | with_reducible refine Quiet.upd ?_

theorem ackStreams_quiet {ρ s : State} (hρ : Quiet ρ s) (w : VWrite) : Quiet ρ (ackStreams s w) := by
  unfold ackStreams
  repeat' first
    | with_reducible assumption | extract_lets | with_reducible apply Quiet.foldl | split | (intro _; intros; beta_reduce)
    | with_reducible refine Quiet.upd ?_

theorem ackReceipt_quiet {ρ s : State} (hρ : Quiet ρ s) (w : VWrite) : Quiet ρ (ackReceipt s w) := by
  unfold ackReceipt
  repeat' first
    | with_reducible assumption | extract_lets | with_reducible apply ackJob_quiet | with_reducible apply ackStreams_quiet | split
    | (intro _; intros; beta_reduce) | with_reducible refine Quiet.upd ?_

theorem ackLoop_quiet {ρ a1 : State} (hρ : Quiet ρ a1) (a0 : List VWrite) : Quiet ρ (ackLoop a0 a1) := by
  induction a0 generalizing a1 with
  | nil =>
    rw [ackLoop]
    exact hρ
  | cons x xs ih =>
    rw [ackLoop]
    repeat' first
      | with_reducible assumption | with_reducible apply ih | with_reducible apply ackReceipt_quiet | split

theorem ackPass_quiet {ρ s : State} (hρ : Quiet ρ s) : Quiet ρ (ackPass s) := by
  unfold ackPass
  repeat' first
    | with_reducible assumption | extract_lets | with_reducible apply ackLoop_quiet | split

theorem finishWrites_quiet {ρ s : State} (hρ : Quiet ρ s) : Quiet ρ (finishWrites s) := by
  unfold finishWrites
  repeat' first
    | with_reducible assumption | extract_lets | with_reducible apply ackJob_quiet | with_reducible apply ackStreams_quiet
    | with_reducible apply Quiet.foldl | split | (intro _; intros; beta_reduce) | with_reducible refine Quiet.upd ?_

theorem eolCheck_quiet {ρ s : State} (hρ : Quiet ρ s) : Quiet ρ (eolCheck s) := by
  unfold eolCheck
  repeat' first
    | with_reducible assumption | extract_lets | with_reducible apply sealOpen_quiet | with_reducible apply refresh_quiet | split
    | with_reducible refine Quiet.upd ?_

theorem releaseHold_quiet {ρ s : State} (hρ : Quiet ρ s) : Quiet ρ (releaseHold s) := by
  unfold releaseHold
  repeat' first
    | with_reducible assumption | extract_lets | split | (intro _; intros; beta_reduce) | with_reducible refine Quiet.upd ?_

theorem leaveCatch_quiet {ρ s : State} (hρ : Quiet ρ s) : Quiet ρ (leaveCatch s) := by
  unfold leaveCatch
  repeat' first
    | with_reducible assumption | extract_lets | with_reducible apply noteGen_quiet | split | with_reducible refine Quiet.upd ?_

theorem settle_quiet {ρ s : State} (hρ : Quiet ρ s) : Quiet ρ (settle s) := by
  unfold settle
  repeat' first
    | with_reducible assumption | extract_lets | with_reducible apply releaseHold_quiet | with_reducible apply eolCheck_quiet
    | with_reducible apply settleJobs_quiet | with_reducible apply leaveCatch_quiet | with_reducible apply setOnMedia_quiet
    | with_reducible apply setSafe_quiet | with_reducible apply ackPass_quiet | with_reducible apply finishWrites_quiet | split

theorem markPieces_quiet {ρ s : State} (hρ : Quiet ρ s) (f : VWrite → Piece → Bool) : Quiet ρ (markPieces s f) := by
  unfold markPieces
  repeat' first
    | with_reducible assumption | extract_lets | split | (intro _; intros; beta_reduce) | with_reducible refine Quiet.upd ?_

theorem commitUnit_quiet {ρ s : State} (hρ : Quiet ρ s) (p u o : Nat) (b : Mem) : Quiet ρ (commitUnit s p u o b) := by
  unfold commitUnit
  repeat' first
    | with_reducible assumption | extract_lets | with_reducible apply dirtyLeaf_quiet | split | (intro _; intros; beta_reduce)
    | with_reducible refine Quiet.upd ?_

theorem commitRef_quiet {ρ s : State} (hρ : Quiet ρ s) (r : Ref) : Quiet ρ (commitRef s r) := by
  unfold commitRef
  repeat' first
    | with_reducible assumption | extract_lets | with_reducible apply commitUnit_quiet | with_reducible apply markPieces_quiet
    | with_reducible apply setStream_quiet | split | (intro _; intros; beta_reduce) | with_reducible refine Quiet.upd ?_

theorem makeVisible_quiet {ρ s : State} (hρ : Quiet ρ s) (j : Job) (part : Nat) (media : Bool) (first blocks : Nat) (pieces :
    List (Piece × Bool)) : Quiet ρ (makeVisible s j part media first blocks pieces) := by
  unfold makeVisible
  repeat' first
    | with_reducible assumption | extract_lets | with_reducible apply setJob_quiet | split | with_reducible refine Quiet.upd ?_

theorem faultStatus_quiet {ρ s : State} (hρ : Quiet ρ s) (k block : Nat) : Quiet ρ (faultStatus s k block) := by
  unfold faultStatus
  repeat' first
    | with_reducible assumption | extract_lets | with_reducible apply modLun_quiet | with_reducible apply dieFailed_quiet | split
    | with_reducible apply Quiet.ite | (intro _; intros; beta_reduce) | with_reducible refine Quiet.upd ?_

theorem noteUsed_quiet {ρ s : State} (hρ : Quiet ρ s) (p first len : Nat) (trim : Bool) : Quiet ρ (noteUsed s p first len trim) := by
  unfold noteUsed
  repeat' first
    | with_reducible assumption | extract_lets | with_reducible apply Quiet.foldl | split | (intro _; intros; beta_reduce)
    | with_reducible refine Quiet.upd ?_

theorem placeWrite_quiet {ρ s : State} (hρ : Quiet ρ s) (j : Job) : Quiet ρ (placeWrite s j) := by
  unfold placeWrite
  repeat' first
    | with_reducible assumption | extract_lets | with_reducible apply makeVisible_quiet | with_reducible apply noteUsed_quiet | split
    | with_reducible refine Quiet.upd ?_

theorem placeZero_quiet {ρ s : State} (hρ : Quiet ρ s) (j : Job) (trim : Bool) : Quiet ρ (placeZero s j trim) := by
  unfold placeZero
  repeat' first
    | with_reducible assumption | extract_lets | with_reducible apply makeVisible_quiet | with_reducible apply noteUsed_quiet | split
    | with_reducible refine Quiet.upd ?_

theorem placeAppend_quiet {ρ s : State} (hρ : Quiet ρ s) (j : Job) : Quiet ρ (placeAppend s j) := by
  unfold placeAppend
  repeat' first
    | with_reducible assumption | extract_lets | with_reducible apply complete_quiet | with_reducible apply appendData_quiet
    | with_reducible apply makeVisible_quiet | split | with_reducible refine Quiet.upd ?_

theorem placeMark_quiet {ρ s : State} (hρ : Quiet ρ s) (j : Job) : Quiet ρ (placeMark s j) := by
  unfold placeMark
  repeat' first
    | with_reducible assumption | extract_lets | with_reducible apply complete_quiet | with_reducible apply endOrEmpty_quiet
    | with_reducible apply makeVisible_quiet | split | with_reducible refine Quiet.upd ?_

theorem placeFetched_quiet {ρ s : State} (hρ : Quiet ρ s) (j : Job) : Quiet ρ (placeFetched s j) := by
  unfold placeFetched
  repeat' first
    | with_reducible assumption | extract_lets | with_reducible apply placeWrite_quiet | with_reducible apply placeAppend_quiet | split

theorem answerEntry_quiet {ρ s : State} (hρ : Quiet ρ s) (p : Packet) (status : Nat) : Quiet ρ (answerEntry s p status) := by
  unfold answerEntry
  repeat' first
    | with_reducible assumption | extract_lets | with_reducible apply sendPkt_quiet | split

theorem releaseWake_quiet {ρ s : State} (hρ : Quiet ρ s) : Quiet ρ (releaseWake s) := by
  unfold releaseWake
  repeat' first
    | with_reducible assumption | extract_lets | split | with_reducible refine Quiet.upd ?_

theorem newSystemArea_quiet {ρ s : State} (hρ : Quiet ρ s) : Quiet ρ (newSystemArea s) := by
  unfold newSystemArea
  repeat' first
    | with_reducible assumption | extract_lets | split | with_reducible apply Quiet.ite | with_reducible refine Quiet.upd ?_

theorem setScan_quiet {ρ s : State} (hρ : Quiet ρ s) (q : Nat) (x : ScanState) : Quiet ρ (setScan s q x) := by
  unfold setScan
  repeat' first
    | with_reducible assumption | extract_lets | with_reducible apply modQueue_quiet | split | (intro _; intros; beta_reduce)
    | with_reducible refine Quiet.upd ?_

theorem freeRx_quiet {ρ s : State} (hρ : Quiet ρ s) (port : Fin 3) (p : Packet) : Quiet ρ (freeRx s port p) := by
  unfold freeRx
  repeat' first
    | with_reducible assumption | extract_lets | split | with_reducible refine Quiet.upd ?_

theorem finish_quiet {ρ s : State} (hρ : Quiet ρ s) (j : Job) (c : Compl) : Quiet ρ (finish s j c) := by
  unfold finish
  repeat' first
    | with_reducible assumption | extract_lets | with_reducible apply settle_quiet | with_reducible apply complete_quiet | split

theorem finishWith_quiet {ρ s : State} (hρ : Quiet ρ s) (j : Job) (status : Nat) : Quiet ρ (finishWith s j status) := by
  unfold finishWith
  repeat' first
    | with_reducible assumption | extract_lets | with_reducible apply finish_quiet | split

theorem finishBus_quiet {ρ s : State} (hρ : Quiet ρ s) (j : Job) : Quiet ρ (finishBus s j) := by
  unfold finishBus
  repeat' first
    | with_reducible assumption | extract_lets | with_reducible apply finishWith_quiet | with_reducible apply spoil_quiet
    | with_reducible apply countBus_quiet | split

theorem sendSegs_quiet {ρ s : State} (hρ : Quiet ρ s) (type cls dest txn : Nat) (cs : List (List Byte)) :
    Quiet ρ (sendSegs s type cls dest txn cs) := by
  unfold sendSegs
  repeat' first
    | with_reducible assumption | extract_lets | with_reducible apply sendPkt_quiet | with_reducible apply Quiet.foldl | split
    | (intro _; intros; beta_reduce)

theorem deliver_quiet {ρ s : State} (hρ : Quiet ρ s) (j : Job) (data : List Byte) (n : Nat) (c : Compl) :
    Quiet ρ (deliver s j data n c) := by
  unfold deliver
  repeat' first
    | with_reducible assumption | extract_lets | with_reducible apply finish_quiet | with_reducible apply sendSegs_quiet
    | with_reducible apply scatter_quiet | with_reducible apply finishBus_quiet | simp only [PairQuiet.mk_iff]
    | with_reducible apply PairQuiet.fst | with_reducible refine PairQuiet.eq (by assumption) ?_ | split
    | with_reducible refine Quiet.upd ?_

theorem sendPulls_quiet {ρ s : State} (hρ : Quiet ρ s) (j : Job) (n : Nat) : Quiet ρ (sendPulls s j n) := by
  unfold sendPulls
  repeat' first
    | with_reducible assumption | extract_lets | with_reducible apply sendPkt_quiet | with_reducible apply Quiet.foldl | split
    | (intro _; intros; beta_reduce) | with_reducible refine Quiet.upd ?_

theorem fetchData_quiet {ρ s : State} (hρ : Quiet ρ s) (b : Bus) (j : Job) (n : Nat) : Quiet ρ (fetchData s b j n) := by
  unfold fetchData
  repeat' first
    | with_reducible assumption | extract_lets | with_reducible apply sendPulls_quiet | with_reducible apply setJob_quiet
    | with_reducible apply finishBus_quiet | with_reducible apply settle_quiet | split | with_reducible refine Quiet.upd ?_

theorem modSpan_quiet {ρ s : State} (hρ : Quiet ρ s) (p : Nat) (f : Span → Span) : Quiet ρ (modSpan s p f) := by
  unfold modSpan
  repeat' first
    | with_reducible assumption | extract_lets | split | with_reducible refine Quiet.upd ?_

theorem issueSubs_quiet {ρ s : State} (hρ : Quiet ρ s) (q : Nat) (c : Word) (rs : List SubReq) : PairQuiet ρ (issueSubs s q c rs) := by
  unfold issueSubs
  repeat' first
    | with_reducible assumption | extract_lets | with_reducible apply sendPkt_quiet | simp only [PairQuiet.mk_iff]
    | with_reducible apply PairQuiet.fst | with_reducible refine PairQuiet.eq (by assumption) ?_ | with_reducible apply Quiet.foldl
    | with_reducible apply PairQuiet.foldl | split | (intro _; intros; beta_reduce) | with_reducible refine Quiet.upd ?_

theorem setOp_quiet {ρ s : State} (hρ : Quiet ρ s) (o : SpanOp) : Quiet ρ (setOp s o) := by
  unfold setOp
  repeat' first
    | with_reducible assumption | extract_lets | split | (intro _; intros; beta_reduce) | with_reducible refine Quiet.upd ?_

theorem dropOp_quiet {ρ s : State} (hρ : Quiet ρ s) (o : SpanOp) : Quiet ρ (dropOp s o) := by
  unfold dropOp
  repeat' first
    | with_reducible assumption | extract_lets | split | (intro _; intros; beta_reduce) | with_reducible refine Quiet.upd ?_

theorem addOp_quiet {ρ s : State} (hρ : Quiet ρ s) (j : Option Job) (goal p : Nat) (stage : SpanStage) (rows : List Nat) :
    PairQuiet ρ (addOp s j goal p stage rows) := by
  unfold addOp
  repeat' first
    | with_reducible assumption | extract_lets | simp only [PairQuiet.mk_iff] | with_reducible apply PairQuiet.fst
    | with_reducible refine PairQuiet.eq (by assumption) ?_ | split | with_reducible refine Quiet.upd ?_

theorem runSubs_quiet {ρ s : State} (hρ : Quiet ρ s) (o : SpanOp) (stage : SpanStage) (rs : List SubReq) :
    Quiet ρ (runSubs s o stage rs) := by
  unfold runSubs
  extract_lets j
  clear_value j
  repeat' first
    | with_reducible assumption | extract_lets | with_reducible apply issueSubs_quiet | with_reducible apply setOp_quiet
    | with_reducible apply setJob_quiet | with_reducible refine PairQuiet.eq (by assumption) ?_ | split | with_reducible apply PairQuiet.fst

theorem recordRows_quiet {ρ s : State} (hρ : Quiet ρ s) (x : Span) (p : Nat) (rows : List Nat) : Quiet ρ (recordRows s x p rows) := by
  unfold recordRows
  repeat' first
    | with_reducible assumption | extract_lets | with_reducible apply modSpan_quiet | split | (intro _; intros; beta_reduce)
    | with_reducible refine Quiet.upd ?_

theorem spanRead_quiet {ρ s : State} (hρ : Quiet ρ s) (x : Span) (p : Nat) (j : Job) : Quiet ρ (spanRead s x p j) := by
  unfold spanRead
  repeat' first
    | with_reducible assumption | extract_lets | with_reducible apply finishWith_quiet | with_reducible apply finishBus_quiet
    | with_reducible apply addOp_quiet | with_reducible apply runSubs_quiet | simp only [PairQuiet.mk_iff]
    | with_reducible apply PairQuiet.fst | with_reducible refine PairQuiet.eq (by assumption) ?_ | split | (intro _; intros; beta_reduce)

theorem spanEffect_quiet {ρ s : State} (hρ : Quiet ρ s) (x : Span) (o : SpanOp) (j : Job) : Quiet ρ (spanEffect s x o j) := by
  unfold spanEffect
  repeat' first
    | with_reducible assumption | extract_lets | with_reducible apply finishWith_quiet | with_reducible apply dropOp_quiet
    | with_reducible apply runSubs_quiet | with_reducible apply recordRows_quiet | split | (intro _; intros; beta_reduce)

theorem passOn_quiet {ρ s : State} (hρ : Quiet ρ s) (o : SpanOp) (j : Job) (r : Option SubReq) : Quiet ρ (passOn s o j r) := by
  unfold passOn
  repeat' first
    | with_reducible assumption | extract_lets | with_reducible apply runSubs_quiet | with_reducible apply finishWith_quiet
    | with_reducible apply dropOp_quiet | split | with_reducible refine Quiet.upd ?_

theorem spanOpen_quiet {ρ s : State} (hρ : Quiet ρ s) (x : Span) (p : Nat) (j : Job) : Quiet ρ (spanOpen s x p j) := by
  unfold spanOpen
  extract_lets e n h place j1 a
  clear_value place
  repeat' first
    | with_reducible assumption | extract_lets | with_reducible apply finishWith_quiet | with_reducible apply addOp_quiet
    | with_reducible apply setJob_quiet | with_reducible apply passOn_quiet | with_reducible refine PairQuiet.eq (by assumption) ?_ | split
    | with_reducible apply PairQuiet.fst | (intro _; intros; beta_reduce) | with_reducible refine Quiet.upd ?_

theorem spanStreamRead_quiet {ρ s : State} (hρ : Quiet ρ s) (x : Span) (p : Nat) (j : Job) : Quiet ρ (spanStreamRead s x p j) := by
  unfold spanStreamRead
  repeat' first
    | with_reducible assumption | extract_lets | with_reducible apply finishWith_quiet | with_reducible apply finishBus_quiet
    | with_reducible apply addOp_quiet | with_reducible apply passOn_quiet | simp only [PairQuiet.mk_iff]
    | with_reducible apply PairQuiet.fst | with_reducible refine PairQuiet.eq (by assumption) ?_ | split
    | with_reducible refine Quiet.upd ?_

theorem spanByHandle_quiet {ρ s : State} (hρ : Quiet ρ s) (x : Span) (o : SpanOp) (j : Job) : Quiet ρ (spanByHandle s x o j) := by
  unfold spanByHandle
  repeat' first
    | with_reducible assumption | extract_lets | with_reducible apply passOn_quiet | with_reducible apply finishWith_quiet
    | with_reducible apply dropOp_quiet | split | with_reducible refine Quiet.upd ?_

theorem spanGo_quiet {ρ s : State} (hρ : Quiet ρ s) (j : Job) (d : List Byte) : Quiet ρ (spanGo s j d) := by
  unfold spanGo
  repeat' first
    | with_reducible assumption | extract_lets | with_reducible apply finishWith_quiet | with_reducible apply dropOp_quiet
    | with_reducible apply spanByHandle_quiet | with_reducible apply spanEffect_quiet | with_reducible apply runSubs_quiet | split
    | with_reducible apply Quiet.ite | (intro _; intros; beta_reduce) | with_reducible refine Quiet.upd ?_

theorem spanFetch_quiet {ρ s : State} (hρ : Quiet ρ s) (b : Bus) (j : Job) (p : Nat) (rows : List Nat) (n : Nat) :
    Quiet ρ (spanFetch s b j p rows n) := by
  unfold spanFetch
  repeat' first
    | with_reducible assumption | extract_lets | with_reducible apply addOp_quiet | with_reducible apply spanGo_quiet
    | with_reducible apply sendPulls_quiet | with_reducible apply setJob_quiet | with_reducible apply finishBus_quiet
    | with_reducible apply dropOp_quiet | simp only [PairQuiet.mk_iff] | with_reducible apply PairQuiet.fst
    | with_reducible refine PairQuiet.eq (by assumption) ?_ | split | with_reducible refine Quiet.upd ?_

theorem spanWrite_quiet {ρ s : State} (hρ : Quiet ρ s) (b : Bus) (x : Span) (p : Nat) (j : Job) : Quiet ρ (spanWrite s b x p j) := by
  unfold spanWrite
  repeat' first
    | with_reducible assumption | extract_lets | with_reducible apply finishWith_quiet | with_reducible apply spanFetch_quiet
    | with_reducible apply absorbBus_quiet | split

theorem spanFlushOne_quiet {ρ s : State} (hρ : Quiet ρ s) (j : Job) (p : Nat) (x : Span) : Quiet ρ (spanFlushOne s j p x) := by
  unfold spanFlushOne
  repeat' first
    | with_reducible assumption | extract_lets | with_reducible apply finishWith_quiet | with_reducible apply addOp_quiet
    | with_reducible apply runSubs_quiet | simp only [PairQuiet.mk_iff] | with_reducible apply PairQuiet.fst
    | with_reducible refine PairQuiet.eq (by assumption) ?_ | split | (intro _; intros; beta_reduce) | with_reducible refine Quiet.upd ?_

theorem spanFlush_quiet {ρ s : State} (hρ : Quiet ρ s) (j : Job) : Quiet ρ (spanFlush s j) := by
  unfold spanFlush
  repeat' first
    | with_reducible assumption | extract_lets | with_reducible apply settle_quiet | with_reducible apply spanFlushOne_quiet
    | with_reducible apply setJob_quiet | with_reducible apply Quiet.foldl | split | (intro _; intros; beta_reduce)
    | with_reducible refine Quiet.upd ?_

theorem spanStart_quiet {ρ s : State} (hρ : Quiet ρ s) (b : Bus) (j : Job) : Quiet ρ (spanStart s b j) := by
  unfold spanStart
  repeat' first
    | with_reducible assumption | extract_lets | with_reducible apply finishWith_quiet | with_reducible apply spanRead_quiet
    | with_reducible apply spanOpen_quiet | with_reducible apply spanStreamRead_quiet | with_reducible apply spanFetch_quiet
    | with_reducible apply absorbBus_quiet | with_reducible apply spanWrite_quiet | split | with_reducible apply Quiet.ite
    | with_reducible refine Quiet.upd ?_

theorem resyncNext_quiet {ρ s : State} (hρ : Quiet ρ s) (p : Nat) : Quiet ρ (resyncNext s p) := by
  unfold resyncNext
  repeat' first
    | with_reducible assumption | extract_lets | with_reducible apply addOp_quiet | with_reducible apply runSubs_quiet
    | simp only [PairQuiet.mk_iff] | with_reducible apply PairQuiet.fst | with_reducible refine PairQuiet.eq (by assumption) ?_ | split
    | (intro _; intros; beta_reduce) | with_reducible refine Quiet.upd ?_

theorem resyncAll_quiet {ρ s : State} (hρ : Quiet ρ s) : Quiet ρ (resyncAll s) := by
  unfold resyncAll
  repeat' first
    | with_reducible assumption | extract_lets | with_reducible apply resyncNext_quiet | with_reducible apply Quiet.foldl | split
    | (intro _; intros; beta_reduce)

theorem restoreMember_quiet {ρ s : State} (hρ : Quiet ρ s) (p k id : Nat) : Quiet ρ (restoreMember s p k id) := by
  unfold restoreMember
  repeat' first
    | with_reducible assumption | extract_lets | with_reducible apply modSpan_quiet | with_reducible apply logEvent_quiet | split
    | (intro _; intros; beta_reduce) | with_reducible refine Quiet.upd ?_

theorem spanData_quiet {ρ s : State} (hρ : Quiet ρ s) (o : SpanOp) (y : SpanSub) (d : List Byte) : Quiet ρ (spanData s o y d) := by
  unfold spanData
  repeat' first
    | with_reducible assumption | extract_lets | with_reducible apply setOp_quiet | split | with_reducible refine Quiet.upd ?_

theorem setCap_quiet {ρ s : State} (hρ : Quiet ρ s) : Quiet ρ (setCap s) := by
  unfold setCap
  repeat' first
    | with_reducible assumption | extract_lets | split | with_reducible refine Quiet.upd ?_

theorem requestCal_quiet {ρ s0 : State} (hρ : Quiet ρ s0) (kind : Nat) (us : List Nat) : Quiet ρ (requestCal s0 kind us) := by
  unfold requestCal
  repeat' first
    | with_reducible assumption | extract_lets | with_reducible apply noteGen_quiet | split | with_reducible refine Quiet.upd ?_

theorem requestKind_quiet {ρ s : State} (hρ : Quiet ρ s) (kind : Nat) : Quiet ρ (requestKind s kind) := by
  unfold requestKind
  repeat' first
    | with_reducible assumption | extract_lets | with_reducible apply requestCal_quiet | split

theorem tempTrigger_quiet {ρ s : State} (hρ : Quiet ρ s) : Quiet ρ (tempTrigger s) := by
  unfold tempTrigger
  repeat' first
    | with_reducible assumption | extract_lets | with_reducible apply requestCal_quiet | split | with_reducible apply Quiet.ite
    | (intro _; intros; beta_reduce) | with_reducible refine Quiet.upd ?_

theorem countRead_quiet {ρ s : State} (hρ : Quiet ρ s) (fl : FlashRead) : Quiet ρ (countRead s fl) := by
  unfold countRead
  repeat' first
    | with_reducible assumption | extract_lets | with_reducible apply modHealth_quiet | split | (intro _; intros; beta_reduce)
    | with_reducible refine Quiet.upd ?_

theorem noteReads_quiet {ρ s : State} (hρ : Quiet ρ s) (rs : List Ref) : Quiet ρ (noteReads s rs) := by
  unfold noteReads
  repeat' first
    | with_reducible assumption | extract_lets | with_reducible apply modMedia_quiet | with_reducible apply Quiet.foldl | split
    | (intro _; intros; beta_reduce) | with_reducible refine Quiet.upd ?_

theorem recordRetry_quiet {ρ s : State} (hρ : Quiet ρ s) (g n : Nat) : Quiet ρ (recordRetry s g n) := by
  unfold recordRetry
  repeat' first
    | with_reducible assumption | extract_lets | split | with_reducible refine Quiet.upd ?_

theorem noteRetry_quiet {ρ s : State} (hρ : Quiet ρ s) (fl : FlashRead) (rs : List Ref) : Quiet ρ (noteRetry s fl rs) := by
  unfold noteRetry
  repeat' first
    | with_reducible assumption | extract_lets | with_reducible apply recordRetry_quiet | with_reducible apply Quiet.foldl | split
    | (intro _; intros; beta_reduce) | with_reducible refine Quiet.upd ?_

theorem retireRebuilt_quiet {ρ s : State} (hρ : Quiet ρ s) (rs : List Ref) : Quiet ρ (retireRebuilt s rs) := by
  unfold retireRebuilt
  repeat' first
    | with_reducible assumption | extract_lets | with_reducible apply retireBlock_quiet | with_reducible apply Quiet.foldl | split
    | (intro _; intros; beta_reduce) | with_reducible refine Quiet.upd ?_

theorem logLost_quiet {ρ s : State} (hρ : Quiet ρ s) (part kind stream first count : Nat) (r : Ref) :
    Quiet ρ (logLost s part kind stream first count r) := by
  unfold logLost
  repeat' first
    | with_reducible assumption | extract_lets | with_reducible apply modMedia_quiet | with_reducible apply logEvent_quiet | split
    | (intro _; intros; beta_reduce) | with_reducible refine Quiet.upd ?_

theorem waitRetry_quiet {ρ s : State} (hρ : Quiet ρ s) (j : Job) (luns : List Nat) : OptQuiet ρ (waitRetry s j luns) := by
  unfold waitRetry
  repeat' first
    | with_reducible assumption | extract_lets | with_reducible apply modLun_quiet | with_reducible exact OptQuiet.none
    | with_reducible apply OptQuiet.some | with_reducible apply OptQuiet.map | with_reducible apply OptQuiet.bind
    | with_reducible apply OptQuiet.foldl | with_reducible apply OptQuiet.getD | with_reducible refine OptQuiet.eq (by assumption) ?_
    | with_reducible apply Quiet.foldl | split | (intro _; intros; beta_reduce) | with_reducible refine Quiet.upd ?_

theorem retryStep_quiet {ρ s : State} (hρ : Quiet ρ s) (j : Job) (g : FlashPage) : Quiet ρ (retryStep s j g) := by
  unfold retryStep
  repeat' first
    | with_reducible assumption | extract_lets | with_reducible apply modLun_quiet | split | (intro _; intros; beta_reduce)
    | with_reducible refine Quiet.upd ?_

theorem endRetry_quiet {ρ s : State} (hρ : Quiet ρ s) (k : Nat) (r : Retry) (hit : Ref → Bool) (rebuilt : Bool) :
    Quiet ρ (endRetry s k r hit rebuilt) := by
  unfold endRetry
  repeat' first
    | with_reducible assumption | extract_lets | with_reducible apply modLun_quiet | with_reducible apply recordRetry_quiet | split
    | (intro _; intros; beta_reduce) | with_reducible refine Quiet.upd ?_

theorem dropTaken_quiet {ρ s : State} (hρ : Quiet ρ s) (j : Job) : Quiet ρ (dropTaken s j) := by
  unfold dropTaken
  repeat' first
    | with_reducible assumption | extract_lets | with_reducible apply modMedia_quiet | split | (intro _; intros; beta_reduce)
    | with_reducible refine Quiet.upd ?_

theorem wakeChannels_quiet {ρ s : State} (hρ : Quiet ρ s) (luns : List Nat) : Quiet ρ (wakeChannels s luns) := by
  unfold wakeChannels
  repeat' first
    | with_reducible assumption | extract_lets | with_reducible apply wakeDomain_quiet | with_reducible apply Quiet.foldl | split
    | (intro _; intros; beta_reduce)

theorem useThresholds_quiet {ρ s : State} (hρ : Quiet ρ s) (blocks : List Nat) : Quiet ρ (useThresholds s blocks) := by
  unfold useThresholds
  repeat' first
    | with_reducible assumption | extract_lets | with_reducible apply modLun_quiet | with_reducible apply Quiet.foldl | split
    | (intro _; intros; beta_reduce) | with_reducible refine Quiet.upd ?_

theorem reachFlash_quiet {ρ s : State} (hρ : Quiet ρ s) (j : Job) (pages : List (Nat × Nat)) (retry : Option FlashPage) :
    SumQuiet ρ (reachFlash s j pages retry) := by
  unfold reachFlash
  repeat' first
    | with_reducible assumption | extract_lets | with_reducible apply wakeChannels_quiet | with_reducible apply waitRetry_quiet
    | with_reducible apply retryStep_quiet | with_reducible apply useThresholds_quiet | with_reducible apply dropTaken_quiet
    | with_reducible exact OptQuiet.none | with_reducible apply OptQuiet.some | with_reducible apply OptQuiet.map
    | with_reducible apply OptQuiet.bind | with_reducible apply OptQuiet.foldl | with_reducible apply OptQuiet.getD
    | with_reducible refine OptQuiet.eq (by assumption) ?_ | with_reducible apply SumQuiet.inl | with_reducible apply SumQuiet.inr
    | with_reducible refine SumQuiet.eqInl (by assumption) ?_ | with_reducible refine SumQuiet.eqInr (by assumption) ?_ | split
    | (intro _; intros; beta_reduce) | with_reducible refine Quiet.upd ?_

theorem readFlash_quiet {ρ s : State} (hρ : Quiet ρ s) (j : Job) (fl : FlashRead) (hit redo : Ref → Bool) (xs : List (Nat × Ref)) :
    SumQuiet ρ (readFlash s j fl hit redo xs) := by
  unfold readFlash
  repeat' first
    | with_reducible assumption | extract_lets | with_reducible apply reachFlash_quiet | with_reducible apply noteReads_quiet
    | with_reducible apply countRead_quiet | with_reducible apply endRetry_quiet | with_reducible apply noteRetry_quiet
    | with_reducible apply retireRebuilt_quiet | with_reducible apply SumQuiet.inl | with_reducible apply SumQuiet.inr
    | with_reducible refine SumQuiet.eqInl (by assumption) ?_ | with_reducible refine SumQuiet.eqInr (by assumption) ?_
    | with_reducible apply Quiet.foldl | split | with_reducible apply Quiet.ite | (intro _; intros; beta_reduce)
    | with_reducible refine Quiet.upd ?_

theorem logLostUnits_quiet {ρ s : State} (hρ : Quiet ρ s) (p lbs : Nat) (us : List (Nat × Ref)) : Quiet ρ (logLostUnits s p lbs us) := by
  unfold logLostUnits
  repeat' first
    | with_reducible assumption | extract_lets | with_reducible apply logLost_quiet | with_reducible apply Quiet.foldl | split
    | (intro _; intros; beta_reduce)

theorem readBlocks_quiet {ρ s : State} (hρ : Quiet ρ s) (j : Job) (fl : FlashRead) (p lbs first len : Nat) :
    Quiet ρ (readBlocks s j fl p lbs first len) := by
  unfold readBlocks
  repeat' first
    | with_reducible assumption | extract_lets | with_reducible apply readFlash_quiet | with_reducible apply deliver_quiet
    | with_reducible apply logLostUnits_quiet | with_reducible apply finishWith_quiet
    | with_reducible refine SumQuiet.eqInl (by assumption) ?_ | with_reducible refine SumQuiet.eqInr (by assumption) ?_ | split
    | (intro _; intros; beta_reduce) | with_reducible refine Quiet.upd ?_

theorem rangeLeaves_quiet {ρ s : State} (hρ : Quiet ρ s) (bus : Bus) (e : List Byte) : Quiet ρ (rangeLeaves s bus e) := by
  unfold rangeLeaves
  repeat' first
    | with_reducible assumption | extract_lets | with_reducible apply takeLeaves_quiet | split

theorem readRaw_quiet {ρ s : State} (hρ : Quiet ρ s) (j : Job) (cws : List CwResult) (retry : Option FlashPage) :
    Quiet ρ (readRaw s j cws retry) := by
  unfold readRaw
  repeat' first
    | with_reducible assumption | extract_lets | with_reducible apply reachFlash_quiet | with_reducible apply endRetry_quiet
    | with_reducible apply deliver_quiet | with_reducible refine SumQuiet.eqInl (by assumption) ?_
    | with_reducible refine SumQuiet.eqInr (by assumption) ?_ | with_reducible apply Quiet.foldl | split | with_reducible apply Quiet.ite
    | (intro _; intros; beta_reduce) | with_reducible refine Quiet.upd ?_

theorem createStream_quiet {ρ s : State} (hρ : Quiet ρ s) (j : Job) (p h : Nat) : Quiet ρ (createStream s j p h) := by
  unfold createStream
  repeat' first
    | with_reducible assumption | extract_lets | with_reducible apply closeWith_quiet | with_reducible apply settle_quiet
    | with_reducible apply setJob_quiet | split | (intro _; intros; beta_reduce) | with_reducible refine Quiet.upd ?_

theorem readRecords_quiet {ρ s : State} (hρ : Quiet ρ s) (j : Job) (key : Nat) (t : Strm) (fl : FlashRead) :
    Quiet ρ (readRecords s j key t fl) := by
  unfold readRecords
  repeat' first
    | with_reducible assumption | extract_lets | with_reducible apply finishWith_quiet | with_reducible apply readFlash_quiet
    | with_reducible apply deliver_quiet | with_reducible apply logLost_quiet | with_reducible refine SumQuiet.eqInl (by assumption) ?_
    | with_reducible refine SumQuiet.eqInr (by assumption) ?_ | with_reducible apply Quiet.foldl | split | (intro _; intros; beta_reduce)
    | with_reducible refine Quiet.upd ?_

theorem logLostBytes_quiet {ρ s : State} (hρ : Quiet ρ s) (key : Nat) (r : Ref) : Quiet ρ (logLostBytes s key r) := by
  unfold logLostBytes
  repeat' first
    | with_reducible assumption | extract_lets | with_reducible apply logLost_quiet | split | with_reducible refine Quiet.upd ?_

theorem readStream_quiet {ρ s : State} (hρ : Quiet ρ s) (j : Job) (key : Nat) (t : Strm) (fl : FlashRead) :
    Quiet ρ (readStream s j key t fl) := by
  unfold readStream
  repeat' first
    | with_reducible assumption | (extract_lets start stop gap dataEnd top d xs; clear_value gap dataEnd) | extract_lets
    | with_reducible apply finishWith_quiet | with_reducible apply readFlash_quiet | with_reducible apply logLostBytes_quiet
    | with_reducible apply deliver_quiet | with_reducible refine SumQuiet.eqInl (by assumption) ?_
    | with_reducible refine SumQuiet.eqInr (by assumption) ?_ | with_reducible apply Quiet.foldl | split | (intro _; intros; beta_reduce)
    | with_reducible refine Quiet.upd ?_

theorem releaseExpired_quiet {ρ s : State} (hρ : Quiet ρ s) : Quiet ρ (releaseExpired s) := by
  unfold releaseExpired
  repeat' first
    | with_reducible assumption | extract_lets | with_reducible apply freeEmpty_quiet | split | (intro _; intros; beta_reduce)
    | with_reducible refine Quiet.upd ?_

theorem endRun_quiet {ρ s : State} (hρ : Quiet ρ s) (kind : Nat) (agreed : Bool) : Quiet ρ (endRun s kind agreed) := by
  unfold endRun
  repeat' first
    | with_reducible assumption | extract_lets | with_reducible apply settle_quiet | with_reducible apply refresh_quiet
    | with_reducible apply setIrq_quiet | split | with_reducible refine Quiet.upd ?_

theorem degrade_quiet {ρ s : State} (hρ : Quiet ρ s) (kind unit consec : Nat) : Quiet ρ (degrade s kind unit consec) := by
  unfold degrade
  repeat' first
    | with_reducible assumption | extract_lets | with_reducible apply refresh_quiet | with_reducible apply logEvent_quiet | split
    | with_reducible refine Quiet.upd ?_

theorem modRec_quiet {ρ s : State} (hρ : Quiet ρ s) (kind : Nat) (f : CalRec → CalRec) : Quiet ρ (modRec s kind f) := by
  unfold modRec
  repeat' first
    | with_reducible assumption | extract_lets | split | with_reducible refine Quiet.upd ?_

theorem noteAccept_quiet {ρ s : State} (hρ : Quiet ρ s) (kind value : Nat) : Quiet ρ (noteAccept s kind value) := by
  unfold noteAccept
  repeat' first
    | with_reducible assumption | extract_lets | with_reducible apply modRec_quiet | split | (intro _; intros; beta_reduce)
    | with_reducible refine Quiet.upd ?_

theorem noteReject_quiet {ρ s : State} (hρ : Quiet ρ s) (kind unit a b : Nat) : Quiet ρ (noteReject s kind unit a b) := by
  unfold noteReject
  repeat' first
    | with_reducible assumption | extract_lets | with_reducible apply modRec_quiet | split | (intro _; intros; beta_reduce)
    | with_reducible refine Quiet.upd ?_

theorem closeRun_quiet {ρ s : State} (hρ : Quiet ρ s) (kind accepted : Nat) (rejected : List Nat) (stop : Bool) :
    Quiet ρ (closeRun s kind accepted rejected stop) := by
  unfold closeRun
  repeat' first
    | with_reducible assumption | extract_lets | with_reducible apply noteAccept_quiet | with_reducible apply endRun_quiet | split
    | with_reducible apply Quiet.ite | with_reducible refine Quiet.upd ?_

theorem trimUnit_quiet {ρ s : State} (hρ : Quiet ρ s) (u : Nat) (a b : Sweep) : PairQuiet ρ (trimUnit s u a b) := by
  unfold trimUnit
  repeat' first
    | with_reducible assumption | extract_lets | with_reducible apply noteReject_quiet | with_reducible apply degrade_quiet
    | simp only [PairQuiet.mk_iff] | with_reducible apply PairQuiet.fst | with_reducible refine PairQuiet.eq (by assumption) ?_ | split
    | with_reducible refine Quiet.upd ?_

theorem trimAll_quiet {ρ a1 : State} (hρ : Quiet ρ a1) (rs : List (Nat × Sweep × Sweep)) (a0 : List Nat) :
    PairQuiet ρ (trimAll rs a0 a1) := by
  induction a0 generalizing a1 with
  | nil =>
    rw [trimAll]
    exact .mk hρ
  | cons x xs ih =>
    rw [trimAll]
    repeat' first
      | with_reducible assumption | with_reducible apply ih | extract_lets | with_reducible apply trimUnit_quiet
      | with_reducible refine PairQuiet.eq (by assumption) ?_ | split | simp only [PairQuiet.mk_iff] | with_reducible apply PairQuiet.fst

theorem trackUnit_quiet {ρ s : State} (hρ : Quiet ρ s) (g : Nat) (a b : Search) : PairQuiet ρ (trackUnit s g a b) := by
  unfold trackUnit
  repeat' first
    | with_reducible assumption | extract_lets | with_reducible apply noteReject_quiet | with_reducible apply degrade_quiet
    | simp only [PairQuiet.mk_iff] | with_reducible apply PairQuiet.fst | with_reducible refine PairQuiet.eq (by assumption) ?_ | split
    | (intro _; intros; beta_reduce) | with_reducible refine Quiet.upd ?_

theorem trackAll_quiet {ρ a1 : State} (hρ : Quiet ρ a1) (rs : List (Nat × Search × Search)) (a0 : List Nat) :
    PairQuiet ρ (trackAll rs a0 a1) := by
  induction a0 generalizing a1 with
  | nil =>
    rw [trackAll]
    exact .mk hρ
  | cons x xs ih =>
    rw [trackAll]
    repeat' first
      | with_reducible assumption | with_reducible apply ih | extract_lets | with_reducible apply trackUnit_quiet
      | with_reducible refine PairQuiet.eq (by assumption) ?_ | split | simp only [PairQuiet.mk_iff] | with_reducible apply PairQuiet.fst

theorem setCalPin_quiet {ρ s : State} (hρ : Quiet ρ s) (v : Bool) : Quiet ρ (setCalPin s v) := by
  unfold setCalPin
  repeat' first
    | with_reducible assumption | extract_lets | split | with_reducible refine Quiet.upd ?_

theorem startDischarge_quiet {ρ s : State} (hρ : Quiet ρ s) (second : Bool) (v0 : Nat) (first : Option Nat) :
    Quiet ρ (startDischarge s second v0 first) := by
  unfold startDischarge
  repeat' first
    | with_reducible assumption | extract_lets | with_reducible apply setCalPin_quiet | split | with_reducible refine Quiet.upd ?_

theorem concludeHold_quiet {ρ s0 : State} (hρ : Quiet ρ s0) (a b : Option Nat) : Quiet ρ (concludeHold s0 a b) := by
  unfold concludeHold
  repeat' first
    | with_reducible assumption | extract_lets | with_reducible apply setCalPin_quiet | with_reducible apply noteReject_quiet
    | with_reducible apply endRun_quiet | with_reducible apply degrade_quiet | with_reducible apply setCap_quiet
    | with_reducible apply noteAccept_quiet | split | (intro _; intros; beta_reduce) | with_reducible refine Quiet.upd ?_

theorem endDischarge_quiet {ρ s0 : State} (hρ : Quiet ρ s0) (second : Bool) (v0 : Nat) (first c : Option Nat) :
    Quiet ρ (endDischarge s0 second v0 first c) := by
  unfold endDischarge
  repeat' first
    | with_reducible assumption | extract_lets | with_reducible apply setCalPin_quiet | with_reducible apply concludeHold_quiet | split
    | with_reducible refine Quiet.upd ?_

theorem calCtrlWrite_quiet {ρ s : State} (hρ : Quiet ρ s) (v : Word) : Quiet ρ (calCtrlWrite s v) := by
  unfold calCtrlWrite
  repeat' first
    | with_reducible assumption | extract_lets | with_reducible apply noteGen_quiet | with_reducible apply requestKind_quiet
    | with_reducible apply Quiet.foldl | split | (intro _; intros; beta_reduce) | with_reducible refine Quiet.upd ?_

theorem calReq_quiet {ρ s : State} (hρ : Quiet ρ s) (v : Word) : Quiet ρ (calReq s v) := by
  unfold calReq
  repeat' first
    | with_reducible assumption | extract_lets | with_reducible apply calCtrlWrite_quiet | split

theorem notePage_quiet {ρ s : State} (hρ : Quiet ρ s) (page part : Nat) : Quiet ρ (notePage s page part) := by
  unfold notePage
  repeat' first
    | with_reducible assumption | extract_lets | split | with_reducible refine Quiet.upd ?_

theorem finishSaved_quiet {ρ s : State} (hρ : Quiet ρ s) (j : Job) (result : Nat) : Quiet ρ (finishSaved s j result) := by
  unfold finishSaved
  repeat' first
    | with_reducible assumption | extract_lets | with_reducible apply finish_quiet | split

theorem finishOk_quiet {ρ s : State} (hρ : Quiet ρ s) (j : Job) (result : Nat) : Quiet ρ (finishOk s j result) := by
  unfold finishOk
  repeat' first
    | with_reducible assumption | extract_lets | with_reducible apply finish_quiet | split

theorem putFeature_quiet {ρ s : State} (hρ : Quiet ρ s) (id p v : Nat) : Quiet ρ (putFeature s id p v) := by
  unfold putFeature
  repeat' first
    | with_reducible assumption | extract_lets | with_reducible apply noteGen_quiet | split | (intro _; intros; beta_reduce)
    | with_reducible refine Quiet.upd ?_

theorem eraseBlocks_quiet {ρ s : State} (hρ : Quiet ρ s) (ks : List Nat) : Quiet ρ (eraseBlocks s ks) := by
  unfold eraseBlocks
  repeat' first
    | with_reducible assumption | extract_lets | with_reducible apply erased_quiet | with_reducible apply Quiet.foldl | split
    | (intro _; intros; beta_reduce)

theorem wornCourse_quiet {ρ s : State} (hρ : Quiet ρ s) (cold : Bool) : Quiet ρ (wornCourse s cold) := by
  unfold wornCourse
  repeat' first
    | with_reducible assumption | extract_lets | with_reducible apply formCourse_quiet | split | (intro _; intros; beta_reduce)

theorem commitHealth_quiet {ρ s : State} (hρ : Quiet ρ s) : Quiet ρ (commitHealth s) := by
  unfold commitHealth
  repeat' first
    | with_reducible assumption | extract_lets | split | with_reducible refine Quiet.upd ?_

theorem commitUnmapped_quiet {ρ s : State} (hρ : Quiet ρ s) : Quiet ρ (commitUnmapped s) := by
  unfold commitUnmapped
  repeat' first
    | with_reducible assumption | extract_lets | with_reducible apply commitRef_quiet | with_reducible apply Quiet.foldl | split
    | (intro _; intros; beta_reduce) | with_reducible refine Quiet.upd ?_

theorem writePlinth_quiet {ρ s : State} (hρ : Quiet ρ s) : Quiet ρ (writePlinth s) := by
  unfold writePlinth
  repeat' first
    | with_reducible assumption | extract_lets | with_reducible apply flushLeaves_quiet | with_reducible apply commitUnmapped_quiet
    | with_reducible apply commitHealth_quiet | split | (intro _; intros; beta_reduce) | with_reducible refine Quiet.upd ?_

theorem logFractureRec_quiet {ρ s : State} (hρ : Quiet ρ s) (key : Nat) (b : List Byte) : Quiet ρ (logFractureRec s key b) := by
  unfold logFractureRec
  repeat' first
    | with_reducible assumption | extract_lets | with_reducible apply logEvent_quiet | split

theorem replayAll_quiet {ρ s0 : State} (hρ : Quiet ρ s0) (ad log : Bool) : Quiet ρ (replayAll s0 ad log) := by
  unfold replayAll
  repeat' first
    | with_reducible assumption | extract_lets | with_reducible apply setStream_quiet | with_reducible apply logFractureRec_quiet
    | with_reducible apply Quiet.foldl | split | with_reducible apply Quiet.ite | (intro _; intros; beta_reduce)
    | with_reducible refine Quiet.upd ?_

theorem logLostAckEntry_quiet {ρ s : State} (hρ : Quiet ρ s) (part flags first count boot : Nat) :
    Quiet ρ (logLostAckEntry s part flags first count boot) := by
  unfold logLostAckEntry
  repeat' first
    | with_reducible assumption | extract_lets | with_reducible apply logEvent_quiet | with_reducible apply modHealth_quiet | split
    | (intro _; intros; beta_reduce) | with_reducible refine Quiet.upd ?_

theorem logRangeUnknown_quiet {ρ s : State} (hρ : Quiet ρ s) (blind : Bool) : Quiet ρ (logRangeUnknown blind s) := by
  unfold logRangeUnknown
  repeat' first
    | with_reducible assumption | extract_lets | with_reducible apply logLostAckEntry_quiet | with_reducible apply Quiet.foldl | split
    | (intro _; intros; beta_reduce)

theorem reportLostAck_quiet {ρ s : State} (hρ : Quiet ρ s) : Quiet ρ (reportLostAck s) := by
  unfold reportLostAck
  repeat' first
    | with_reducible assumption | extract_lets | with_reducible apply logLostAckEntry_quiet | with_reducible apply logRangeUnknown_quiet
    | with_reducible apply Quiet.foldl | split | (intro _; intros; beta_reduce) | with_reducible refine Quiet.upd ?_

theorem reportPowerFail_quiet {ρ s : State} (hρ : Quiet ρ s) : Quiet ρ (reportPowerFail s) := by
  unfold reportPowerFail
  repeat' first
    | with_reducible assumption | extract_lets | with_reducible apply modHealth_quiet | with_reducible apply logEvent_quiet | split
    | (intro _; intros; beta_reduce) | with_reducible refine Quiet.upd ?_

theorem reportWithdrawn_quiet {ρ s : State} (hρ : Quiet ρ s) : Quiet ρ (reportWithdrawn s) := by
  unfold reportWithdrawn
  repeat' first
    | with_reducible assumption | extract_lets | with_reducible apply logEvent_quiet | with_reducible apply Quiet.foldl | split
    | (intro _; intros; beta_reduce) | with_reducible refine Quiet.upd ?_

theorem noteReplay_quiet {ρ s : State} (hρ : Quiet ρ s) : Quiet ρ (noteReplay s) := by
  unfold noteReplay
  repeat' first
    | with_reducible assumption | extract_lets | with_reducible apply noteGen_quiet | with_reducible apply Quiet.foldl | split
    | (intro _; intros; beta_reduce)

theorem clearLoss_quiet {ρ s0 : State} (hρ : Quiet ρ s0) : Quiet ρ (clearLoss s0) := by
  unfold clearLoss
  repeat' first
    | with_reducible assumption | extract_lets | with_reducible apply noteReplay_quiet | split | with_reducible refine Quiet.upd ?_

theorem adopt_quiet {ρ s : State} (hρ : Quiet ρ s) (keys : List (Nat × List Byte)) : Quiet ρ (adopt s keys) := by
  unfold adopt
  repeat' first
    | with_reducible assumption | extract_lets | with_reducible apply replayAll_quiet | with_reducible apply logFractureRec_quiet
    | with_reducible apply writePlinth_quiet | with_reducible apply clearLoss_quiet | with_reducible apply reportWithdrawn_quiet
    | with_reducible apply reportPowerFail_quiet | with_reducible apply reportLostAck_quiet | with_reducible apply Quiet.foldl | split
    | (intro _; intros; beta_reduce) | with_reducible refine Quiet.upd ?_

theorem clearPart_quiet {ρ s : State} (hρ : Quiet ρ s) (p : Nat) : Quiet ρ (clearPart s p) := by
  unfold clearPart
  repeat' first
    | with_reducible assumption | extract_lets | with_reducible apply dropLeaves_quiet | split | (intro _; intros; beta_reduce)
    | with_reducible refine Quiet.upd ?_

theorem closeCourses_quiet {ρ s : State} (hρ : Quiet ρ s) (ids : List Nat) : Quiet ρ (closeCourses s ids) := modMedia_quiet hρ _

theorem eraseCourses_quiet {ρ s : State} (hρ : Quiet ρ s) (ids : List Nat) : OptQuiet ρ (eraseCourses s ids) := by
  unfold eraseCourses
  repeat' first
    | with_reducible assumption | with_reducible apply closeCourses_quiet | extract_lets | with_reducible apply emptyCourse_quiet | with_reducible apply eraseBlocks_quiet
    | with_reducible exact OptQuiet.none | with_reducible apply OptQuiet.some | with_reducible apply OptQuiet.map
    | with_reducible apply OptQuiet.bind | with_reducible apply OptQuiet.foldl | with_reducible apply OptQuiet.getD
    | with_reducible refine OptQuiet.eq (by assumption) ?_ | with_reducible apply Quiet.foldl | split | (intro _; intros; beta_reduce)

theorem cryptoErase_quiet {ρ s : State} (hρ : Quiet ρ s) (p : Nat) : Quiet ρ (cryptoErase s p) := by
  unfold cryptoErase
  repeat' first
    | with_reducible assumption | extract_lets | with_reducible apply clearPart_quiet | split | (intro _; intros; beta_reduce)
    | with_reducible refine Quiet.upd ?_

theorem sanitizeParts_quiet {ρ s : State} (hρ : Quiet ρ s) (ks es : List Nat) : OptQuiet ρ (sanitizeParts s ks es) := by
  unfold sanitizeParts
  repeat' first
    | with_reducible assumption | extract_lets | with_reducible apply clearPart_quiet | with_reducible apply cryptoErase_quiet
    | with_reducible apply eraseCourses_quiet | with_reducible exact OptQuiet.none | with_reducible apply OptQuiet.some
    | with_reducible apply OptQuiet.map | with_reducible apply OptQuiet.bind | with_reducible apply OptQuiet.foldl
    | with_reducible apply OptQuiet.getD | with_reducible refine OptQuiet.eq (by assumption) ?_ | with_reducible apply Quiet.foldl
    | split | (intro _; intros; beta_reduce)

theorem modPort_quiet {ρ s : State} (hρ : Quiet ρ s) (n : Fin 3) (f : Port → Port) : Quiet ρ (modPort s n f) := by
  unfold modPort
  repeat' first
    | with_reducible assumption | extract_lets | split | with_reducible refine Quiet.upd ?_

theorem casEvent_quiet {ρ s : State} (hρ : Quiet ρ s) (bits : BitVec 8) (member : Option Nat) : Quiet ρ (casEvent s bits member) := by
  unfold casEvent
  repeat' first
    | with_reducible assumption | extract_lets | with_reducible apply setIrq_quiet | split | with_reducible refine Quiet.upd ?_

theorem takeTxn_quiet {ρ s : State} (hρ : Quiet ρ s) : Quiet ρ (takeTxn s) := by
  unfold takeTxn
  repeat' first
    | with_reducible assumption | extract_lets | split | with_reducible refine Quiet.upd ?_

theorem receive_quiet {ρ s : State} (hρ : Quiet ρ s) (n : Fin 3) (rx : Rx) : PairQuiet ρ (receive s n rx) := by
  unfold receive
  repeat' first
    | with_reducible assumption | extract_lets | with_reducible apply modPort_quiet | simp only [PairQuiet.mk_iff]
    | with_reducible apply PairQuiet.fst | with_reducible refine PairQuiet.eq (by assumption) ?_ | split | (intro _; intros; beta_reduce)
    | with_reducible refine Quiet.upd ?_

theorem refusePull_quiet {ρ s : State} (hρ : Quiet ρ s) (p : Packet) : Quiet ρ (refusePull s p) := by
  unfold refusePull
  repeat' first
    | with_reducible assumption | extract_lets | with_reducible apply sendPkt_quiet | split

theorem relay_quiet {ρ s : State} (hρ : Quiet ρ s) (n : Fin 3) (p : Packet) : Quiet ρ (relay s n p) := by
  unfold relay
  repeat' first
    | with_reducible assumption | extract_lets | with_reducible apply sendPort_quiet | with_reducible apply sendPkt_quiet
    | with_reducible apply answerEntry_quiet | with_reducible apply refusePull_quiet | split | (intro _; intros; beta_reduce)
    | with_reducible refine Quiet.upd ?_

theorem onPacket_quiet {ρ s : State} (hρ : Quiet ρ s) (n : Fin 3) (rx : Rx) (type : Nat) (act : State → State)
    (h : ∀ t, Quiet ρ t → Quiet ρ (act t)) : Quiet ρ (onPacket s n rx type act) := by
  unfold onPacket
  extract_lets r s1
  have hr : Quiet ρ r.1 := (receive_quiet hρ n rx).fst
  have h1 : Quiet ρ s1 := freeRx_quiet hr _ _
  clear_value s1 r
  split
  · exact hr
  · split
    · exact h1
    · split
      · exact h _ h1
      · exact relay_quiet h1 _ _

theorem endTransfer_quiet {ρ s : State} (hρ : Quiet ρ s) (tr : Transfer) (status : Nat) : Quiet ρ (endTransfer s tr status) := by
  unfold endTransfer
  repeat' first
    | with_reducible assumption | extract_lets | with_reducible apply setStream_quiet | with_reducible apply sendPkt_quiet
    | with_reducible apply settle_quiet | with_reducible apply complete_quiet | split | with_reducible apply Quiet.ite
    | (intro _; intros; beta_reduce) | with_reducible refine Quiet.upd ?_

theorem spanJoin_quiet {ρ s : State} (hρ : Quiet ρ s) (id : Nat) (r : RosterE) : Quiet ρ (spanJoin s id r) := by
  unfold spanJoin
  repeat' first
    | with_reducible assumption | extract_lets | with_reducible apply restoreMember_quiet | with_reducible apply modSpan_quiet
    | with_reducible apply Quiet.foldl | split | (intro _; intros; beta_reduce) | with_reducible refine Quiet.upd ?_

theorem spanAbsences_quiet {ρ s : State} (hρ : Quiet ρ s) : Quiet ρ (spanAbsences s) := by
  unfold spanAbsences
  repeat' first
    | with_reducible assumption | extract_lets | with_reducible apply logEvent_quiet | with_reducible apply modSpan_quiet
    | with_reducible apply Quiet.foldl | split | (intro _; intros; beta_reduce) | with_reducible refine Quiet.upd ?_

theorem sendEnum_quiet {ρ s : State} (hρ : Quiet ρ s) (id depth : Nat) (rs : List (Nat × Nat)) : Quiet ρ (sendEnum s id depth rs) := by
  unfold sendEnum
  repeat' first
    | with_reducible assumption | extract_lets | with_reducible apply sendPkt_quiet | with_reducible apply takeTxn_quiet | split
    | (intro _; intros; beta_reduce)

theorem writeRoutes_quiet {ρ s : State} (hρ : Quiet ρ s) (id d pos : Nat) : Quiet ρ (writeRoutes s id d pos) := by
  unfold writeRoutes
  repeat' first
    | with_reducible assumption | extract_lets | with_reducible apply sendEnum_quiet | with_reducible apply Quiet.foldl | split
    | (intro _; intros; beta_reduce) | with_reducible refine Quiet.upd ?_

theorem beginAttest_quiet {ρ s : State} (hρ : Quiet ρ s) (id d pos : Nat) : Quiet ρ (beginAttest s id d pos) := by
  unfold beginAttest
  repeat' first
    | with_reducible assumption | extract_lets | with_reducible apply writeRoutes_quiet | with_reducible apply takeTxn_quiet
    | with_reducible apply sendPkt_quiet | split | with_reducible refine Quiet.upd ?_

theorem serveJoin_quiet {ρ a1 : State} (hρ : Quiet ρ a1) (a0 : Nat) : Quiet ρ (serveJoin a0 a1) := by
  induction a0 generalizing a1 with
  | zero =>
    rw [serveJoin]
    exact hρ
  | succ fuel ih =>
    rw [serveJoin]
    repeat' first
      | with_reducible assumption | with_reducible apply ih | extract_lets | with_reducible apply beginAttest_quiet | split
      | (intro _; intros; beta_reduce) | with_reducible refine Quiet.upd ?_

theorem joinAt_quiet {ρ s : State} (hρ : Quiet ρ s) (d pos : Nat) : Quiet ρ (joinAt s d pos) := by
  unfold joinAt
  repeat' first
    | with_reducible assumption | extract_lets | with_reducible apply serveJoin_quiet | split | (intro _; intros; beta_reduce)
    | with_reducible refine Quiet.upd ?_

theorem enumNext_quiet {ρ s : State} (hρ : Quiet ρ s) : Quiet ρ (enumNext s) := by
  unfold enumNext
  repeat' first
    | with_reducible assumption | extract_lets | with_reducible apply beginAttest_quiet | split | with_reducible refine Quiet.upd ?_

theorem portUp_quiet {ρ s : State} (hρ : Quiet ρ s) (n : Fin 3) : Quiet ρ (portUp s n) := by
  unfold portUp
  repeat' first
    | with_reducible assumption | extract_lets | with_reducible apply modPort_quiet | with_reducible apply joinAt_quiet
    | with_reducible apply sendPkt_quiet | with_reducible apply takeTxn_quiet | split | (intro _; intros; beta_reduce)
    | with_reducible refine Quiet.upd ?_

theorem sendPullData_quiet {ρ s : State} (hρ : Quiet ρ s) (p : Packet) (d : List Byte) (seg : Nat) :
    Quiet ρ (sendPullData s p d seg) := by
  unfold sendPullData
  repeat' first
    | with_reducible assumption | extract_lets | with_reducible apply sendPkt_quiet | split

theorem answerPull_quiet {ρ s : State} (hρ : Quiet ρ s) (b : Bus) (p : Packet) : Quiet ρ (answerPull s b p) := by
  unfold answerPull
  repeat' first
    | with_reducible assumption | extract_lets | with_reducible apply refusePull_quiet | with_reducible apply sendPullData_quiet
    | with_reducible apply countBus_quiet | split | with_reducible refine Quiet.upd ?_

theorem refuseReleased_quiet {ρ s : State} (hρ : Quiet ρ s) (p : Packet) : Quiet ρ (refuseReleased s p) := by
  unfold refuseReleased
  repeat' first
    | with_reducible assumption | extract_lets | with_reducible apply sendPkt_quiet | split

theorem transferPull_quiet {ρ s : State} (hρ : Quiet ρ s) (p : Packet) : Quiet ρ (transferPull s p) := by
  unfold transferPull
  repeat' first
    | with_reducible assumption | extract_lets | with_reducible apply refuseReleased_quiet | with_reducible apply refusePull_quiet
    | with_reducible apply sendPullData_quiet | split | with_reducible apply Quiet.ite | (intro _; intros; beta_reduce)
    | with_reducible refine Quiet.upd ?_

theorem setTransfer_quiet {ρ s : State} (hρ : Quiet ρ s) (tr : Transfer) : Quiet ρ (setTransfer s tr) := by
  unfold setTransfer
  repeat' first
    | with_reducible assumption | extract_lets | split | (intro _; intros; beta_reduce) | with_reducible refine Quiet.upd ?_

theorem pullNext_quiet {ρ s : State} (hρ : Quiet ρ s) (tr : Transfer) : Quiet ρ (pullNext s tr) := by
  unfold pullNext
  repeat' first
    | with_reducible assumption | extract_lets | with_reducible apply sendPkt_quiet | split | (intro _; intros; beta_reduce)
    | with_reducible refine Quiet.upd ?_

theorem transferCert_quiet {ρ s : State} (hρ : Quiet ρ s) (tr : Transfer) (cert : List Byte) : Quiet ρ (transferCert s tr cert) := by
  unfold transferCert
  repeat' first
    | with_reducible assumption | extract_lets | with_reducible apply endTransfer_quiet | with_reducible apply pullNext_quiet
    | with_reducible apply setTransfer_quiet | split | with_reducible refine Quiet.upd ?_

theorem transferRecord_quiet {ρ s : State} (hρ : Quiet ρ s) (tr : Transfer) (r data : List Byte) :
    Quiet ρ (transferRecord s tr r data) := by
  unfold transferRecord
  repeat' first
    | with_reducible assumption | extract_lets | with_reducible apply endTransfer_quiet | with_reducible apply setStream_quiet
    | with_reducible apply pullNext_quiet | with_reducible apply setTransfer_quiet | split | with_reducible apply Quiet.ite
    | (intro _; intros; beta_reduce) | with_reducible refine Quiet.upd ?_

theorem transferData_quiet {ρ s : State} (hρ : Quiet ρ s) (tr : Transfer) (p : Packet) : Quiet ρ (transferData s tr p) := by
  unfold transferData
  repeat' first
    | with_reducible assumption | extract_lets | with_reducible apply endTransfer_quiet | with_reducible apply pullNext_quiet
    | with_reducible apply setTransfer_quiet | with_reducible apply transferRecord_quiet | split | with_reducible refine Quiet.upd ?_

theorem entryData_quiet {ρ s : State} (hρ : Quiet ρ s) (p : Packet) : Quiet ρ (entryData s p) := by
  unfold entryData
  repeat' first
    | with_reducible assumption | extract_lets | with_reducible apply finishWith_quiet | with_reducible apply spanGo_quiet
    | with_reducible apply setJob_quiet | with_reducible apply settle_quiet | split | (intro _; intros; beta_reduce)
    | with_reducible refine Quiet.upd ?_

theorem entryRead_quiet {ρ s : State} (hρ : Quiet ρ s) (p : Packet) : Quiet ρ (entryRead s p) := by
  unfold entryRead
  repeat' first
    | with_reducible assumption | extract_lets | with_reducible apply spanData_quiet | with_reducible apply scatter_quiet
    | with_reducible apply setJob_quiet | with_reducible apply countBus_quiet | simp only [PairQuiet.mk_iff]
    | with_reducible apply PairQuiet.fst | with_reducible refine PairQuiet.eq (by assumption) ?_ | split
    | with_reducible refine Quiet.upd ?_

theorem takeEnum_quiet {ρ s : State} (hρ : Quiet ρ s) (p : Packet) : Quiet ρ (takeEnum s p) := by
  unfold takeEnum
  repeat' first
    | with_reducible assumption | extract_lets | with_reducible apply sendPkt_quiet | with_reducible apply takeTxn_quiet
    | with_reducible apply Quiet.foldl | split | with_reducible apply Quiet.ite | (intro _; intros; beta_reduce)
    | with_reducible refine Quiet.upd ?_

theorem enumStart_quiet {ρ s : State} (hρ : Quiet ρ s) (j : Job) : Quiet ρ (enumStart s j) := by
  unfold enumStart
  repeat' first
    | with_reducible assumption | extract_lets | with_reducible apply sendPkt_quiet | with_reducible apply takeTxn_quiet
    | with_reducible apply enumNext_quiet | with_reducible apply setJob_quiet | with_reducible apply Quiet.foldl | split
    | (intro _; intros; beta_reduce) | with_reducible refine Quiet.upd ?_

theorem formSpan_quiet {ρ s : State} (hρ : Quiet ρ s) (held : List MemberPart) (p : Nat) : Quiet ρ (formSpan held s p) := by
  unfold formSpan
  repeat' first
    | with_reducible assumption | extract_lets | with_reducible apply logEvent_quiet | split | (intro _; intros; beta_reduce)
    | with_reducible refine Quiet.upd ?_

theorem enumEnd_quiet {ρ s : State} (hρ : Quiet ρ s) (j : Job) (e : Enumeration) (held : List MemberPart) :
    Quiet ρ (enumEnd s j e held) := by
  unfold enumEnd
  repeat' first
    | with_reducible assumption | extract_lets | with_reducible apply formSpan_quiet | with_reducible apply serveJoin_quiet
    | with_reducible apply resyncAll_quiet | with_reducible apply spanAbsences_quiet | with_reducible apply finishSaved_quiet
    | with_reducible apply Quiet.foldl | split | (intro _; intros; beta_reduce) | with_reducible refine Quiet.upd ?_

theorem acceptHeld_quiet {ρ s : State} (hρ : Quiet ρ s) (id : Nat) (r : RosterE) : Quiet ρ (acceptHeld s id r) := by
  unfold acceptHeld
  repeat' first
    | with_reducible assumption | extract_lets | with_reducible apply spanJoin_quiet | with_reducible apply casEvent_quiet
    | with_reducible apply sendEnum_quiet | with_reducible apply resyncAll_quiet | split | with_reducible refine Quiet.upd ?_

theorem refuseImage_quiet {ρ s : State} (hρ : Quiet ρ s) (j : Job) (kind check status : Nat) :
    Quiet ρ (refuseImage s j kind check status) := by
  unfold refuseImage
  repeat' first
    | with_reducible assumption | extract_lets | with_reducible apply finish_quiet | with_reducible apply logEvent_quiet | split

theorem loadStandby_quiet {ρ s : State} (hρ : Quiet ρ s) (u : Ucode) : Quiet ρ (loadStandby s u) := by
  unfold loadStandby
  repeat' first
    | with_reducible assumption | extract_lets | split | with_reducible refine Quiet.upd ?_

theorem trainPcie_quiet {ρ s : State} (hρ : Quiet ρ s) : Quiet ρ (trainPcie s) := by
  unfold trainPcie
  repeat' first
    | with_reducible assumption | extract_lets | split | with_reducible refine Quiet.upd ?_

theorem writeHeld_quiet {ρ s : State} (hρ : Quiet ρ s) : Quiet ρ (writeHeld s) := by
  unfold writeHeld
  repeat' first
    | with_reducible assumption | extract_lets | with_reducible apply setIrq_quiet | with_reducible apply Quiet.foldl | split
    | (intro _; intros; beta_reduce) | with_reducible refine Quiet.upd ?_

theorem takeFooting_quiet {ρ s : State} (hρ : Quiet ρ s) (want n : Nat) : Quiet ρ (takeFooting want n s) := by
  induction n generalizing s with
  | zero =>
    rw [takeFooting]
    exact hρ
  | succ n ih =>
    rw [takeFooting]
    repeat' first
      | with_reducible assumption | with_reducible apply ih | with_reducible apply setBlk_quiet | split

theorem assertWake_quiet {ρ s : State} (hρ : Quiet ρ s) : Quiet ρ (assertWake s) := by
  unfold assertWake
  repeat' first
    | with_reducible assumption | extract_lets | split | with_reducible refine Quiet.upd ?_

theorem scrubOne_quiet {ρ s : State} (hρ : Quiet ρ s) (x : Fin 5 × Bool × BitVec 12) : Quiet ρ (scrubOne s x) := by
  unfold scrubOne
  repeat' first
    | with_reducible assumption | extract_lets | with_reducible apply logEvent_quiet | split | with_reducible refine Quiet.upd ?_

end Sys2Proof.Machine
end

