-- ==== Sys2Proof/Laws/QuietCommands.lean ====
section
/-! SUPPORT. `Quiet` for the commands of consumed entries and the media work. -/

namespace Sys2Proof.Machine

theorem execEvtOutEnd_quiet (pin : Fin 4) (s : State) : NextQuiet s (execEvtOutEnd pin s) := by
  have hρ := Quiet.refl s
  unfold execEvtOutEnd
  repeat' first
    | with_reducible assumption | extract_lets | with_reducible apply NextQuiet.next | split | with_reducible refine Quiet.upd ?_

theorem execHmapScrub_quiet (bus : Bus) (s : State) : NextQuiet s (execHmapScrub bus s) := by
  have hρ := Quiet.refl s
  unfold execHmapScrub
  repeat' first
    | with_reducible assumption | extract_lets | with_reducible apply NextQuiet.next | with_reducible apply absorbBus_quiet
    | with_reducible apply scrubSlot_quiet | with_reducible apply refresh_quiet | with_reducible apply Quiet.foldl | split
    | (intro _; intros; beta_reduce) | with_reducible refine Quiet.upd ?_

theorem execScanResume_quiet (q : Fin 4096) (s : State) : NextQuiet s (execScanResume q s) := by
  have hρ := Quiet.refl s
  unfold execScanResume
  repeat' first
    | with_reducible assumption | extract_lets | with_reducible apply NextQuiet.next | with_reducible apply setScan_quiet | split
    | with_reducible refine Quiet.upd ?_

theorem execDoorbell_quiet (n : Fin 4096) (be : BitVec 4) (s : State) : NextQuiet s (execDoorbell n be s) := by
  have hρ := Quiet.refl s
  unfold execDoorbell
  repeat' first
    | with_reducible assumption | extract_lets | with_reducible apply NextQuiet.next | with_reducible apply modQueue_quiet
    | with_reducible apply ringQueue_quiet | split | with_reducible apply Quiet.ite | (intro _; intros; beta_reduce)
    | with_reducible refine Quiet.upd ?_

theorem execWriteVisible_quiet (q : Fin 4097) (count : Word) (s : State) : NextQuiet s (execWriteVisible q count s) := by
  have hρ := Quiet.refl s
  unfold execWriteVisible
  repeat' first
    | with_reducible assumption | extract_lets | with_reducible apply NextQuiet.next | with_reducible apply settle_quiet
    | with_reducible apply placeFetched_quiet | split | with_reducible refine Quiet.upd ?_

theorem execShadowWrite_quiet (q : Fin 4096) (s : State) : NextQuiet s (execShadowWrite q s) := by
  have hρ := Quiet.refl s
  unfold execShadowWrite
  repeat' first
    | with_reducible assumption | extract_lets | with_reducible apply NextQuiet.next | with_reducible apply writeShadow_quiet | split
    | with_reducible refine Quiet.upd ?_

theorem execCoalTimeout_quiet (q : Fin 4096) (s : State) : NextQuiet s (execCoalTimeout q s) := by
  have hρ := Quiet.refl s
  unfold execCoalTimeout
  repeat' first
    | with_reducible assumption | extract_lets | with_reducible apply NextQuiet.next | with_reducible apply signalQueue_quiet | split
    | with_reducible refine Quiet.upd ?_

theorem execRead_quiet (q : Fin 4097) (count : Word) (bus : Bus) (fl : FlashRead) (s : State) :
    NextQuiet s (execRead q count bus fl s) := by
  have hρ := Quiet.refl s
  unfold execRead
  repeat' first
    | with_reducible assumption | extract_lets | with_reducible apply NextQuiet.next | with_reducible apply spanStart_quiet
    | with_reducible apply absorbBus_quiet | with_reducible apply finishWith_quiet | with_reducible apply finishBus_quiet
    | with_reducible apply readBlocks_quiet | with_reducible apply takeLeaves_quiet | split | with_reducible refine Quiet.upd ?_

theorem execWrite_quiet (q : Fin 4097) (count : Word) (bus : Bus) (s : State) : NextQuiet s (execWrite q count bus s) := by
  have hρ := Quiet.refl s
  unfold execWrite
  repeat' first
    | with_reducible assumption | extract_lets | with_reducible apply NextQuiet.next | with_reducible apply spanStart_quiet
    | with_reducible apply finishWith_quiet | with_reducible apply fetchData_quiet | with_reducible apply rangeLeaves_quiet
    | with_reducible apply absorbBus_quiet | split | with_reducible refine Quiet.upd ?_

theorem execWriteZeroes_quiet (q : Fin 4097) (count : Word) (bus : Bus) (s : State) : NextQuiet s (execWriteZeroes q count bus s) := by
  have hρ := Quiet.refl s
  unfold execWriteZeroes
  repeat' first
    | with_reducible assumption | extract_lets | with_reducible apply NextQuiet.next | with_reducible apply spanStart_quiet
    | with_reducible apply absorbBus_quiet | with_reducible apply settle_quiet | with_reducible apply placeZero_quiet
    | with_reducible apply rangeLeaves_quiet | with_reducible apply finishWith_quiet | split | with_reducible refine Quiet.upd ?_

theorem execTrim_quiet (q : Fin 4097) (count : Word) (bus : Bus) (s : State) : NextQuiet s (execTrim q count bus s) := by
  have hρ := Quiet.refl s
  unfold execTrim
  repeat' first
    | with_reducible assumption | extract_lets | with_reducible apply NextQuiet.next | with_reducible apply spanStart_quiet
    | with_reducible apply absorbBus_quiet | with_reducible apply settle_quiet | with_reducible apply placeZero_quiet
    | with_reducible apply rangeLeaves_quiet | with_reducible apply finishWith_quiet | split | with_reducible refine Quiet.upd ?_

theorem execFlush_quiet (q : Fin 4097) (count : Word) (s : State) : NextQuiet s (execFlush q count s) := by
  have hρ := Quiet.refl s
  unfold execFlush
  repeat' first
    | with_reducible assumption | extract_lets | with_reducible apply NextQuiet.next | with_reducible apply spanFlush_quiet
    | with_reducible apply settle_quiet | split | with_reducible refine Quiet.upd ?_

theorem execFence_quiet (q : Fin 4097) (count : Word) (s : State) : NextQuiet s (execFence q count s) := by
  have hρ := Quiet.refl s
  unfold execFence
  repeat' first
    | with_reducible assumption | extract_lets | with_reducible apply NextQuiet.next | with_reducible apply settle_quiet | split
    | with_reducible refine Quiet.upd ?_

theorem execRawRead_quiet (q : Fin 4097) (count : Word) (bus : Bus) (cws : List CwResult) (retry : Option FlashPage) (s : State) :
    NextQuiet s (execRawRead q count bus cws retry s) := by
  have hρ := Quiet.refl s
  unfold execRawRead
  repeat' first
    | with_reducible assumption | extract_lets | with_reducible apply NextQuiet.next | with_reducible apply finishWith_quiet
    | with_reducible apply finishBus_quiet | with_reducible apply absorbBus_quiet | with_reducible apply readRaw_quiet | split
    | with_reducible refine Quiet.upd ?_

theorem execStreamOpen_quiet (q : Fin 4097) (count : Word) (s : State) : NextQuiet s (execStreamOpen q count s) := by
  have hρ := Quiet.refl s
  unfold execStreamOpen
  repeat' first
    | with_reducible assumption | extract_lets | with_reducible apply NextQuiet.next | with_reducible apply spanStart_quiet
    | with_reducible apply finishWith_quiet | with_reducible apply createStream_quiet | with_reducible apply finish_quiet
    | with_reducible apply setStream_quiet | split | with_reducible refine Quiet.upd ?_

theorem execStreamAppend_quiet (q : Fin 4097) (count : Word) (bus : Bus) (s : State) : NextQuiet s (execStreamAppend q count bus s) := by
  have hρ := Quiet.refl s
  unfold execStreamAppend
  repeat' first
    | with_reducible assumption | extract_lets | with_reducible apply NextQuiet.next | with_reducible apply spanStart_quiet
    | with_reducible apply finishWith_quiet | with_reducible apply fetchData_quiet | with_reducible apply absorbBus_quiet | split
    | with_reducible refine Quiet.upd ?_

theorem execStreamMark_quiet (q : Fin 4097) (count : Word) (s : State) : NextQuiet s (execStreamMark q count s) := by
  have hρ := Quiet.refl s
  unfold execStreamMark
  repeat' first
    | with_reducible assumption | extract_lets | with_reducible apply NextQuiet.next | with_reducible apply spanStart_quiet
    | with_reducible apply finishWith_quiet | with_reducible apply settle_quiet | with_reducible apply placeMark_quiet | split
    | with_reducible refine Quiet.upd ?_

theorem execStreamClose_quiet (q : Fin 4097) (count : Word) (s : State) : NextQuiet s (execStreamClose q count s) := by
  have hρ := Quiet.refl s
  unfold execStreamClose
  repeat' first
    | with_reducible assumption | extract_lets | with_reducible apply NextQuiet.next | with_reducible apply spanStart_quiet
    | with_reducible apply finishWith_quiet | with_reducible apply endOrEmpty_quiet | with_reducible apply setStream_quiet
    | with_reducible apply settle_quiet | with_reducible apply setJob_quiet | split | with_reducible refine Quiet.upd ?_

theorem execStreamRead_quiet (q : Fin 4097) (count : Word) (bus : Bus) (fl : FlashRead) (s : State) :
    NextQuiet s (execStreamRead q count bus fl s) := by
  have hρ := Quiet.refl s
  unfold execStreamRead
  repeat' first
    | with_reducible assumption | extract_lets | with_reducible apply NextQuiet.next | with_reducible apply spanStart_quiet
    | with_reducible apply absorbBus_quiet | with_reducible apply finishWith_quiet | with_reducible apply finishBus_quiet
    | with_reducible apply readRecords_quiet | with_reducible apply readStream_quiet | split | with_reducible refine Quiet.upd ?_

theorem execAshlarTimeout_quiet (part : Fin 32) (stream : BitVec 16) (s : State) : NextQuiet s (execAshlarTimeout part stream s) := by
  have hρ := Quiet.refl s
  unfold execAshlarTimeout
  repeat' first
    | with_reducible assumption | extract_lets | with_reducible apply NextQuiet.next | with_reducible apply settle_quiet
    | with_reducible apply endRunning_quiet | split | with_reducible refine Quiet.upd ?_

theorem execCapstoneSigned_quiet (s : State) : NextQuiet s (execCapstoneSigned s) := by
  have hρ := Quiet.refl s
  unfold execCapstoneSigned
  repeat' first
    | with_reducible assumption | extract_lets | with_reducible apply NextQuiet.next | with_reducible apply wakeDomain_quiet
    | with_reducible apply settle_quiet | with_reducible apply setStream_quiet | split | with_reducible refine Quiet.upd ?_

theorem execRetentionCheck_quiet (s : State) : NextQuiet s (execRetentionCheck s) := by
  have hρ := Quiet.refl s
  unfold execRetentionCheck
  repeat' first
    | with_reducible assumption | extract_lets | with_reducible apply NextQuiet.next | with_reducible apply releaseExpired_quiet | split
    | with_reducible refine Quiet.upd ?_

theorem execCalTrimRun_quiet (results : List (Nat × Sweep × Sweep)) (s : State) : NextQuiet s (execCalTrimRun results s) := by
  have hρ := Quiet.refl s
  unfold execCalTrimRun
  repeat' first
    | with_reducible assumption | extract_lets | with_reducible apply NextQuiet.next | with_reducible apply trimAll_quiet
    | with_reducible apply closeRun_quiet | simp only [PairQuiet.mk_iff] | with_reducible apply PairQuiet.fst
    | with_reducible refine PairQuiet.eq (by assumption) ?_ | split | (intro _; intros; beta_reduce) | with_reducible refine Quiet.upd ?_

theorem execCalTrackRun_quiet (results : List (Nat × Search × Search)) (s : State) : NextQuiet s (execCalTrackRun results s) := by
  have hρ := Quiet.refl s
  unfold execCalTrackRun
  repeat' first
    | with_reducible assumption | extract_lets | with_reducible apply NextQuiet.next | with_reducible apply trackAll_quiet
    | with_reducible apply closeRun_quiet | simp only [PairQuiet.mk_iff] | with_reducible apply PairQuiet.fst
    | with_reducible refine PairQuiet.eq (by assumption) ?_ | split | (intro _; intros; beta_reduce) | with_reducible refine Quiet.upd ?_

theorem execCalHoldupRun_quiet (s : State) : NextQuiet s (execCalHoldupRun s) := by
  have hρ := Quiet.refl s
  unfold execCalHoldupRun
  repeat' first
    | with_reducible assumption | extract_lets | with_reducible apply NextQuiet.next | with_reducible apply startDischarge_quiet | split
    | with_reducible refine Quiet.upd ?_

theorem execHoldupDischargeTimeout_quiet (s : State) : NextQuiet s (execHoldupDischargeTimeout s) := by
  have hρ := Quiet.refl s
  unfold execHoldupDischargeTimeout
  repeat' first
    | with_reducible assumption | extract_lets | with_reducible apply NextQuiet.next | with_reducible apply endDischarge_quiet | split
    | with_reducible refine Quiet.upd ?_

theorem execHoldupRechargeTimeout_quiet (s : State) : NextQuiet s (execHoldupRechargeTimeout s) := by
  have hρ := Quiet.refl s
  unfold execHoldupRechargeTimeout
  repeat' first
    | with_reducible assumption | extract_lets | with_reducible apply NextQuiet.next | with_reducible apply concludeHold_quiet | split
    | with_reducible refine Quiet.upd ?_

theorem execHoldupConditionTimeout_quiet (s : State) : NextQuiet s (execHoldupConditionTimeout s) := by
  have hρ := Quiet.refl s
  unfold execHoldupConditionTimeout
  repeat' first
    | with_reducible assumption | extract_lets | with_reducible apply NextQuiet.next | with_reducible apply concludeHold_quiet | split
    | with_reducible refine Quiet.upd ?_

theorem execCalRepeat_quiet (kind : Fin 3) (s : State) : NextQuiet s (execCalRepeat kind s) := by
  have hρ := Quiet.refl s
  unfold execCalRepeat
  repeat' first
    | with_reducible assumption | extract_lets | with_reducible apply NextQuiet.next | with_reducible apply requestCal_quiet | split
    | with_reducible refine Quiet.upd ?_

theorem execCalReqTrim_quiet (value : Word) (s : State) : NextQuiet s (execCalReqTrim value s) := by
  have hρ := Quiet.refl s
  unfold execCalReqTrim
  repeat' first
    | with_reducible assumption | extract_lets | with_reducible apply NextQuiet.next | with_reducible apply calReq_quiet | split

theorem execCalReqTrack_quiet (value : Word) (s : State) : NextQuiet s (execCalReqTrack value s) := by
  have hρ := Quiet.refl s
  unfold execCalReqTrack
  repeat' first
    | with_reducible assumption | extract_lets | with_reducible apply NextQuiet.next | with_reducible apply calReq_quiet | split

theorem execCalReqHoldup_quiet (value : Word) (s : State) : NextQuiet s (execCalReqHoldup value s) := by
  have hρ := Quiet.refl s
  unfold execCalReqHoldup
  repeat' first
    | with_reducible assumption | extract_lets | with_reducible apply NextQuiet.next | with_reducible apply calReq_quiet | split

theorem execIdentify_quiet (count : Word) (bus : Bus) (s : State) : NextQuiet s (execIdentify count bus s) := by
  have hρ := Quiet.refl s
  unfold execIdentify
  repeat' first
    | with_reducible assumption | (extract_lets e len cns body; clear_value body) | (extract_lets e len cns s0 body; clear_value body)
    | (extract_lets s0 e len cns body; clear_value body) | extract_lets | with_reducible apply NextQuiet.next
    | with_reducible apply finishWith_quiet | with_reducible apply absorbBus_quiet | with_reducible apply finishBus_quiet
    | with_reducible apply deliver_quiet | split | with_reducible refine Quiet.upd ?_

theorem execAttest_quiet (count : Word) (bus : Bus) (s : State) : NextQuiet s (execAttest count bus s) := by
  have hρ := Quiet.refl s
  unfold execAttest
  repeat' first
    | with_reducible assumption | with_reducible apply wakeDomain_quiet | extract_lets | with_reducible apply NextQuiet.next | with_reducible apply absorbBus_quiet
    | with_reducible apply finishBus_quiet | with_reducible apply deliver_quiet | split | with_reducible refine Quiet.upd ?_

theorem execCreateQueue_quiet (count : Word) (s : State) : NextQuiet s (execCreateQueue count s) := by
  have hρ := Quiet.refl s
  unfold execCreateQueue
  repeat' first
    | with_reducible assumption | extract_lets | with_reducible apply NextQuiet.next | with_reducible apply finishWith_quiet
    | with_reducible apply writeShadow_quiet | with_reducible apply finishOk_quiet | split | with_reducible refine Quiet.upd ?_

theorem execDestroyQueue_quiet (count : Word) (s : State) : NextQuiet s (execDestroyQueue count s) := by
  have hρ := Quiet.refl s
  unfold execDestroyQueue
  repeat' first
    | with_reducible assumption | extract_lets | with_reducible apply NextQuiet.next | with_reducible apply finishWith_quiet
    | with_reducible apply finishOk_quiet | split | with_reducible refine Quiet.upd ?_

theorem execQueryQueue_quiet (count : Word) (s : State) : NextQuiet s (execQueryQueue count s) := by
  have hρ := Quiet.refl s
  unfold execQueryQueue
  repeat' first
    | with_reducible assumption | extract_lets | with_reducible apply NextQuiet.next | with_reducible apply finishWith_quiet
    | with_reducible apply finish_quiet | split | with_reducible refine Quiet.upd ?_

theorem execSetTime_quiet (count : Word) (s : State) : NextQuiet s (execSetTime count s) := by
  have hρ := Quiet.refl s
  unfold execSetTime
  repeat' first
    | with_reducible assumption | extract_lets | with_reducible apply NextQuiet.next | with_reducible apply finishOk_quiet
    | with_reducible apply releaseExpired_quiet | split | with_reducible refine Quiet.upd ?_

theorem execGetLog_quiet (count : Word) (bus : Bus) (s : State) : NextQuiet s (execGetLog count bus s) := by
  have hρ := Quiet.refl s
  unfold execGetLog
  repeat' first
    | with_reducible assumption | extract_lets | with_reducible apply NextQuiet.next | with_reducible apply finishWith_quiet
    | with_reducible apply notePage_quiet | with_reducible apply absorbBus_quiet | with_reducible apply finishBus_quiet
    | with_reducible apply deliver_quiet | split | with_reducible refine Quiet.upd ?_

theorem execSetFeature_quiet (count : Word) (s : State) : NextQuiet s (execSetFeature count s) := by
  have hρ := Quiet.refl s
  unfold execSetFeature
  repeat' first
    | with_reducible assumption | extract_lets | with_reducible apply NextQuiet.next | with_reducible apply finishWith_quiet
    | with_reducible apply finishSaved_quiet | with_reducible apply putFeature_quiet | split | with_reducible refine Quiet.upd ?_

theorem execGetFeature_quiet (count : Word) (s : State) : NextQuiet s (execGetFeature count s) := by
  have hρ := Quiet.refl s
  unfold execGetFeature
  repeat' first
    | with_reducible assumption | extract_lets | with_reducible apply NextQuiet.next | with_reducible apply finishWith_quiet
    | with_reducible apply finishOk_quiet | split | with_reducible refine Quiet.upd ?_

theorem execFlashResume_quiet (lun : LunId) (fail : Bool) (s : State) : NextQuiet s (execFlashResume lun fail s) := by
  have hρ := Quiet.refl s
  unfold execFlashResume
  repeat' first
    | with_reducible assumption | extract_lets | with_reducible apply NextQuiet.next | with_reducible apply modLun_quiet
    | with_reducible apply settle_quiet | with_reducible apply faultStatus_quiet | split | (intro _; intros; beta_reduce)
    | with_reducible refine Quiet.upd ?_

theorem noteVictim_quiet {ρ s : State} (hρ : Quiet ρ s) (v : Nat) : Quiet ρ (noteVictim s v) := modMedia_quiet hρ _

theorem execGcReclaim_quiet (s : State) : NextQuiet s (execGcReclaim s) := by
  have hρ := Quiet.refl s
  unfold execGcReclaim
  repeat' first
    | with_reducible assumption | extract_lets | with_reducible apply NextQuiet.next | with_reducible apply emptyCourse_quiet
    | with_reducible apply noteVictim_quiet | with_reducible apply eraseBlocks_quiet | with_reducible exact OptQuiet.none
    | with_reducible apply OptQuiet.some | with_reducible apply OptQuiet.map | with_reducible apply OptQuiet.bind
    | with_reducible apply OptQuiet.foldl | with_reducible apply OptQuiet.getD | with_reducible refine OptQuiet.eq (by assumption) ?_
    | split | with_reducible refine Quiet.upd ?_

theorem openWorn_quiet {ρ s : State} (hρ : Quiet ρ s) (id : Nat) : Quiet ρ (openWorn s id) := by
  unfold openWorn
  extract_lets valid s1
  have h1 : Quiet ρ s1 := by
    unfold s1
    split
    · exact wornCourse_quiet hρ true
    · exact hρ
  split
  · exact wornCourse_quiet h1 false
  · exact h1

theorem execWearLevel_quiet (s : State) : NextQuiet s (execWearLevel s) := by
  have hρ := Quiet.refl s
  unfold execWearLevel
  repeat' first
    | with_reducible assumption | extract_lets | with_reducible apply NextQuiet.next | with_reducible apply emptyCourse_quiet
    | with_reducible apply openWorn_quiet | with_reducible exact OptQuiet.none | with_reducible apply OptQuiet.some
    | with_reducible apply OptQuiet.map | with_reducible apply OptQuiet.bind | with_reducible apply OptQuiet.foldl
    | with_reducible apply OptQuiet.getD | with_reducible refine OptQuiet.eq (by assumption) ?_ | split
    | with_reducible refine Quiet.upd ?_

theorem execRefresh_quiet (lun : LunId) (block : BitVec 20) (_soft3 : Bool) (s : State) :
    NextQuiet s (execRefresh lun block _soft3 s) := by
  have hρ := Quiet.refl s
  unfold execRefresh
  repeat' first
    | with_reducible assumption | extract_lets | with_reducible apply NextQuiet.next | with_reducible apply settle_quiet
    | with_reducible apply freeEmpty_quiet | with_reducible apply retireBlock_quiet | split | with_reducible refine Quiet.upd ?_

theorem execFootingFold_quiet (s : State) : NextQuiet s (execFootingFold s) := by
  have hρ := Quiet.refl s
  unfold execFootingFold
  repeat' first
    | with_reducible assumption | extract_lets | with_reducible apply NextQuiet.next | with_reducible apply emptyCourse_quiet
    | with_reducible exact OptQuiet.none | with_reducible apply OptQuiet.some | with_reducible apply OptQuiet.map
    | with_reducible apply OptQuiet.bind | with_reducible apply OptQuiet.foldl | with_reducible apply OptQuiet.getD
    | with_reducible refine OptQuiet.eq (by assumption) ?_ | split | (intro _; intros; beta_reduce) | with_reducible refine Quiet.upd ?_

theorem execDieRelocate_quiet (s : State) : NextQuiet s (execDieRelocate s) := by
  have hρ := Quiet.refl s
  unfold execDieRelocate
  repeat' first
    | with_reducible assumption | extract_lets | with_reducible apply NextQuiet.next | with_reducible apply placeMoved_quiet
    | with_reducible apply refresh_quiet | with_reducible apply freeEmpty_quiet | with_reducible apply modMedia_quiet
    | with_reducible exact OptQuiet.none | with_reducible apply OptQuiet.some | with_reducible apply OptQuiet.map
    | with_reducible apply OptQuiet.bind | with_reducible apply OptQuiet.foldl | with_reducible apply OptQuiet.getD
    | with_reducible refine OptQuiet.eq (by assumption) ?_ | split | (intro _; intros; beta_reduce) | with_reducible refine Quiet.upd ?_

theorem execBlockErase_quiet (s : State) : NextQuiet s (execBlockErase s) := by
  have hρ := Quiet.refl s
  unfold execBlockErase
  repeat' first
    | with_reducible assumption | extract_lets | with_reducible apply NextQuiet.next | with_reducible apply eraseBlocks_quiet
    | with_reducible apply freeEmpty_quiet | split

theorem execPlinthWrite_quiet (s : State) : NextQuiet s (execPlinthWrite s) := by
  have hρ := Quiet.refl s
  unfold execPlinthWrite
  repeat' first
    | with_reducible assumption | extract_lets | with_reducible apply NextQuiet.next | with_reducible apply settle_quiet
    | with_reducible apply writePlinth_quiet | split

theorem execHealthCommit_quiet (s : State) : NextQuiet s (execHealthCommit s) := by
  have hρ := Quiet.refl s
  unfold execHealthCommit
  repeat' first
    | with_reducible assumption | extract_lets | with_reducible apply NextQuiet.next | with_reducible apply commitHealth_quiet | split

theorem execOverdrivePeriod_quiet (waited : Bool) (bgBytes gcShare : Nat) (s : State) :
    NextQuiet s (execOverdrivePeriod waited bgBytes gcShare s) := by
  have hρ := Quiet.refl s
  unfold execOverdrivePeriod
  repeat' first
    | with_reducible assumption | extract_lets | with_reducible apply NextQuiet.next | with_reducible apply setIrq_quiet | split
    | with_reducible apply Quiet.ite | with_reducible refine Quiet.upd ?_

theorem execRecovered_quiet (plinthOk : Bool) (scanned : Nat) (s : State) : NextQuiet s (execRecovered plinthOk scanned s) := by
  have hρ := Quiet.refl s
  unfold execRecovered
  repeat' first
    | with_reducible assumption | extract_lets | with_reducible apply NextQuiet.next | with_reducible apply logEvent_quiet
    | with_reducible apply reportWithdrawn_quiet | with_reducible apply reportPowerFail_quiet | with_reducible apply reportLostAck_quiet
    | with_reducible apply replayAll_quiet | with_reducible apply writePlinth_quiet | with_reducible apply clearLoss_quiet
    | with_reducible apply refresh_quiet | with_reducible apply settle_quiet | with_reducible apply sealOpen_quiet | split
    | with_reducible apply Quiet.ite | with_reducible refine Quiet.upd ?_

theorem execCreatePartition_quiet (count : Word) (bus : Bus) (s : State) : NextQuiet s (execCreatePartition count bus s) := by
  have hρ := Quiet.refl s
  unfold execCreatePartition
  repeat' first
    | with_reducible assumption | extract_lets | with_reducible apply NextQuiet.next | with_reducible apply finishWith_quiet
    | with_reducible apply finishSaved_quiet | with_reducible apply absorbBus_quiet | with_reducible apply finishBus_quiet
    | with_reducible apply deliver_quiet | split | with_reducible refine Quiet.upd ?_

theorem execDeletePartition_quiet (count : Word) (s : State) : NextQuiet s (execDeletePartition count s) := by
  have hρ := Quiet.refl s
  unfold execDeletePartition
  repeat' first
    | with_reducible assumption | extract_lets | with_reducible apply NextQuiet.next | with_reducible apply finishWith_quiet
    | with_reducible apply finishSaved_quiet | with_reducible apply clearPart_quiet | with_reducible apply freeEmpty_quiet | split
    | (intro _; intros; beta_reduce) | with_reducible refine Quiet.upd ?_

theorem execSetHold_quiet (count : Word) (s : State) : NextQuiet s (execSetHold count s) := by
  have hρ := Quiet.refl s
  unfold execSetHold
  repeat' first
    | with_reducible assumption | extract_lets | with_reducible apply NextQuiet.next | with_reducible apply finishWith_quiet
    | with_reducible apply finishSaved_quiet | with_reducible apply setStream_quiet | split | with_reducible refine Quiet.upd ?_

theorem execAdoptMedia_quiet (count : Word) (bus : Bus) (s : State) : NextQuiet s (execAdoptMedia count bus s) := by
  have hρ := Quiet.refl s
  unfold execAdoptMedia
  repeat' first
    | with_reducible assumption | extract_lets | with_reducible apply NextQuiet.next | with_reducible apply finishWith_quiet
    | with_reducible apply absorbBus_quiet | with_reducible apply finishBus_quiet | with_reducible apply finish_quiet
    | with_reducible apply logEvent_quiet | with_reducible apply adopt_quiet | with_reducible apply refresh_quiet
    | with_reducible apply finishSaved_quiet | split | (intro _; intros; beta_reduce) | with_reducible refine Quiet.upd ?_

theorem execSanitize_quiet (count : Word) (residue : Nat) (s : State) : NextQuiet s (execSanitize count residue s) := by
  have hρ := Quiet.refl s
  unfold execSanitize
  repeat' first
    | with_reducible assumption | extract_lets | with_reducible apply NextQuiet.next | with_reducible apply finishWith_quiet
    | with_reducible apply sanitizeParts_quiet | with_reducible apply logEvent_quiet | with_reducible apply finish_quiet
    | with_reducible apply freeEmpty_quiet | with_reducible exact OptQuiet.none | with_reducible apply OptQuiet.some
    | with_reducible apply OptQuiet.map | with_reducible apply OptQuiet.bind | with_reducible apply OptQuiet.foldl
    | with_reducible apply OptQuiet.getD | with_reducible refine OptQuiet.eq (by assumption) ?_ | split | with_reducible apply Quiet.ite
    | (intro _; intros; beta_reduce) | with_reducible refine Quiet.upd ?_

theorem execTrain_quiet (port : Fin 3) (role version : Byte) (keystone : Bool) (s : State) :
    NextQuiet s (execTrain port role version keystone s) := by
  have hρ := Quiet.refl s
  unfold execTrain
  repeat' first
    | with_reducible assumption | extract_lets | with_reducible apply NextQuiet.next | with_reducible apply modPort_quiet
    | with_reducible apply logEvent_quiet | with_reducible apply portUp_quiet | split | with_reducible apply Quiet.ite
    | (intro _; intros; beta_reduce) | with_reducible refine Quiet.upd ?_

theorem execBlockLockAcquired_quiet (port : Fin 3) (s : State) : NextQuiet s (execBlockLockAcquired port s) := by
  have hρ := Quiet.refl s
  unfold execBlockLockAcquired
  repeat' first
    | with_reducible assumption | extract_lets | with_reducible apply NextQuiet.next | with_reducible apply modPort_quiet | split
    | (intro _; intros; beta_reduce) | with_reducible refine Quiet.upd ?_

theorem execBlockLockLost_quiet (port : Fin 3) (s : State) : NextQuiet s (execBlockLockLost port s) := by
  have hρ := Quiet.refl s
  unfold execBlockLockLost
  repeat' first
    | with_reducible assumption | extract_lets | with_reducible apply NextQuiet.next | with_reducible apply modPort_quiet | split
    | (intro _; intros; beta_reduce) | with_reducible refine Quiet.upd ?_

theorem execAck_quiet (port : Fin 3) (seq : BitVec 12) (s : State) : NextQuiet s (execAck port seq s) := by
  have hρ := Quiet.refl s
  unfold execAck
  repeat' first
    | with_reducible assumption | extract_lets | with_reducible apply NextQuiet.next | with_reducible apply modPort_quiet | split
    | (intro _; intros; beta_reduce) | with_reducible refine Quiet.upd ?_

theorem execCredit_quiet (port : Fin 3) (ent req rsp : BitVec 16) (s : State) : NextQuiet s (execCredit port ent req rsp s) := by
  have hρ := Quiet.refl s
  unfold execCredit
  repeat' first
    | with_reducible assumption | extract_lets | with_reducible apply NextQuiet.next | with_reducible apply modPort_quiet | split
    | (intro _; intros; beta_reduce) | with_reducible refine Quiet.upd ?_

theorem execCreditTimer_quiet (port : Fin 3) (s : State) : NextQuiet s (execCreditTimer port s) := by
  have hρ := Quiet.refl s
  unfold execCreditTimer
  repeat' first
    | with_reducible assumption | extract_lets | with_reducible apply NextQuiet.next | with_reducible apply modPort_quiet | split
    | (intro _; intros; beta_reduce) | with_reducible refine Quiet.upd ?_

theorem execEntry_quiet (port : Fin 3) (rx : Rx) (s : State) : NextQuiet s (execEntry port rx s) := by
  have hρ := Quiet.refl s
  unfold execEntry
  repeat' first
    | with_reducible assumption | extract_lets | with_reducible apply NextQuiet.next | with_reducible apply receive_quiet
    | with_reducible apply freeRx_quiet | with_reducible apply answerEntry_quiet | with_reducible apply relay_quiet
    | simp only [PairQuiet.mk_iff] | with_reducible apply PairQuiet.fst | with_reducible refine PairQuiet.eq (by assumption) ?_ | split
    | with_reducible refine Quiet.upd ?_

theorem execPull_quiet (port : Fin 3) (rx : Rx) (bus : Bus) (s : State) : NextQuiet s (execPull port rx bus s) := by
  have hρ := Quiet.refl s
  unfold execPull
  repeat' first
    | with_reducible assumption | extract_lets | with_reducible apply NextQuiet.next | with_reducible apply onPacket_quiet
    | with_reducible apply absorbBus_quiet | with_reducible apply transferPull_quiet | with_reducible apply answerPull_quiet | split
    | (intro _; intros; beta_reduce)

theorem execStreamTransfer_quiet (q : Fin 4097) (count : Word) (s : State) : NextQuiet s (execStreamTransfer q count s) := by
  have hρ := Quiet.refl s
  unfold execStreamTransfer
  repeat' first
    | with_reducible assumption | extract_lets | with_reducible apply NextQuiet.next | with_reducible apply finishWith_quiet
    | with_reducible apply setJob_quiet | with_reducible apply takeTxn_quiet | with_reducible apply transferCert_quiet
    | with_reducible apply sendPkt_quiet | split | with_reducible refine Quiet.upd ?_

theorem execKeyq_quiet (port : Fin 3) (rx : Rx) (s : State) : NextQuiet s (execKeyq port rx s) := by
  have hρ := Quiet.refl s
  unfold execKeyq
  repeat' first
    | with_reducible assumption | extract_lets | with_reducible apply NextQuiet.next | with_reducible apply onPacket_quiet
    | with_reducible apply sendPkt_quiet | split | (intro _; intros; beta_reduce)

theorem execKeyrsp_quiet (port : Fin 3) (rx : Rx) (s : State) : NextQuiet s (execKeyrsp port rx s) := by
  have hρ := Quiet.refl s
  unfold execKeyrsp
  repeat' first
    | with_reducible assumption | extract_lets | with_reducible apply NextQuiet.next | with_reducible apply onPacket_quiet
    | with_reducible apply transferCert_quiet | split | (intro _; intros; beta_reduce) | with_reducible refine Quiet.upd ?_

theorem execPulldata_quiet (port : Fin 3) (rx : Rx) (s : State) : NextQuiet s (execPulldata port rx s) := by
  have hρ := Quiet.refl s
  unfold execPulldata
  repeat' first
    | with_reducible assumption | extract_lets | with_reducible apply NextQuiet.next | with_reducible apply onPacket_quiet
    | with_reducible apply transferData_quiet | with_reducible apply entryData_quiet | split | (intro _; intros; beta_reduce)
    | with_reducible refine Quiet.upd ?_

theorem execRdata_quiet (port : Fin 3) (rx : Rx) (bus : Bus) (s : State) : NextQuiet s (execRdata port rx bus s) := by
  have hρ := Quiet.refl s
  unfold execRdata
  repeat' first
    | with_reducible assumption | extract_lets | with_reducible apply NextQuiet.next | with_reducible apply onPacket_quiet
    | with_reducible apply absorbBus_quiet | with_reducible apply entryRead_quiet | split | (intro _; intros; beta_reduce)

theorem execEnum_quiet (port : Fin 3) (rx : Rx) (s : State) : NextQuiet s (execEnum port rx s) := by
  have hρ := Quiet.refl s
  unfold execEnum
  repeat' first
    | with_reducible assumption | extract_lets | with_reducible apply NextQuiet.next | with_reducible apply onPacket_quiet
    | with_reducible apply takeEnum_quiet | split | (intro _; intros; beta_reduce)

theorem execEnumAck_quiet (port : Fin 3) (rx : Rx) (s : State) : NextQuiet s (execEnumAck port rx s) :=
  .next (onPacket_quiet (Quiet.refl s) _ _ _ _ fun _ h => h)

theorem execAttestReq_quiet (port : Fin 3) (rx : Rx) (s : State) : NextQuiet s (execAttestReq port rx s) := by
  have hρ := Quiet.refl s
  unfold execAttestReq
  repeat' first
    | with_reducible assumption | with_reducible apply wakeDomain_quiet | extract_lets | with_reducible apply NextQuiet.next | with_reducible apply onPacket_quiet
    | with_reducible apply sendPort_quiet | split | (intro _; intros; beta_reduce)

theorem execJoin_quiet (port : Fin 3) (rx : Rx) (s : State) : NextQuiet s (execJoin port rx s) := by
  have hρ := Quiet.refl s
  unfold execJoin
  repeat' first
    | with_reducible assumption | extract_lets | with_reducible apply NextQuiet.next | with_reducible apply onPacket_quiet
    | with_reducible apply joinAt_quiet | split | (intro _; intros; beta_reduce) | with_reducible refine Quiet.upd ?_

theorem execCascadeEnumerate_quiet (count : Word) (held : List MemberPart) (s : State) :
    NextQuiet s (execCascadeEnumerate count held s) := by
  have hρ := Quiet.refl s
  unfold execCascadeEnumerate
  repeat' first
    | with_reducible assumption | extract_lets | with_reducible apply NextQuiet.next | with_reducible apply enumEnd_quiet
    | with_reducible apply finishWith_quiet | with_reducible apply enumStart_quiet | split | with_reducible refine Quiet.upd ?_

theorem execCascadeRoster_quiet (count : Word) (bus : Bus) (s : State) : NextQuiet s (execCascadeRoster count bus s) := by
  have hρ := Quiet.refl s
  unfold execCascadeRoster
  repeat' first
    | with_reducible assumption | extract_lets | with_reducible apply NextQuiet.next | with_reducible apply finishWith_quiet
    | with_reducible apply absorbBus_quiet | with_reducible apply finishBus_quiet | with_reducible apply deliver_quiet
    | with_reducible apply finishSaved_quiet | with_reducible apply acceptHeld_quiet | split | (intro _; intros; beta_reduce)
    | with_reducible refine Quiet.upd ?_

theorem execLoadProfile_quiet (count : Word) (bus : Bus) (s : State) : NextQuiet s (execLoadProfile count bus s) := by
  have hρ := Quiet.refl s
  unfold execLoadProfile
  repeat' first
    | with_reducible assumption | extract_lets | with_reducible apply NextQuiet.next | with_reducible apply refuseImage_quiet
    | with_reducible apply absorbBus_quiet | with_reducible apply finishBus_quiet | with_reducible apply finishOk_quiet
    | with_reducible apply finishSaved_quiet | split | (intro _; intros; beta_reduce) | with_reducible refine Quiet.upd ?_

theorem execLoadMicrocode_quiet (count : Word) (bus : Bus) (s : State) : NextQuiet s (execLoadMicrocode count bus s) := by
  have hρ := Quiet.refl s
  unfold execLoadMicrocode
  repeat' first
    | with_reducible assumption | extract_lets | with_reducible apply NextQuiet.next | with_reducible apply refuseImage_quiet
    | with_reducible apply finishWith_quiet | with_reducible apply absorbBus_quiet | with_reducible apply finishBus_quiet
    | with_reducible apply finishSaved_quiet | with_reducible apply loadStandby_quiet | split | with_reducible refine Quiet.upd ?_

theorem execCommitFirmware_quiet (count : Word) (bus : Bus) (s : State) : NextQuiet s (execCommitFirmware count bus s) := by
  have hρ := Quiet.refl s
  unfold execCommitFirmware
  repeat' first
    | with_reducible assumption | extract_lets | with_reducible apply NextQuiet.next | with_reducible apply refuseImage_quiet
    | with_reducible apply finishWith_quiet | with_reducible apply absorbBus_quiet | with_reducible apply finishBus_quiet
    | with_reducible apply finishSaved_quiet | split | with_reducible apply Quiet.ite | with_reducible refine Quiet.upd ?_

theorem execStartCalibration_quiet (count : Word) (s : State) : NextQuiet s (execStartCalibration count s) := by
  have hρ := Quiet.refl s
  unfold execStartCalibration
  repeat' first
    | with_reducible assumption | extract_lets | with_reducible apply NextQuiet.next | with_reducible apply requestKind_quiet
    | with_reducible apply settle_quiet | with_reducible apply setJob_quiet | with_reducible apply Quiet.foldl | split
    | (intro _; intros; beta_reduce) | with_reducible refine Quiet.upd ?_

theorem execAttachMapStore_quiet (count : Word) (bus : Bus) (s : State) : NextQuiet s (execAttachMapStore count bus s) := by
  have hρ := Quiet.refl s
  unfold execAttachMapStore
  repeat' first
    | with_reducible assumption | extract_lets | with_reducible apply NextQuiet.next | with_reducible apply finishWith_quiet
    | with_reducible apply absorbBus_quiet | with_reducible apply finishBus_quiet | with_reducible apply countBus_quiet
    | with_reducible apply finishOk_quiet | with_reducible apply attachMap_quiet | with_reducible apply Quiet.foldl | split
    | (intro _; intros; beta_reduce) | with_reducible refine Quiet.upd ?_

theorem execDetachMapStore_quiet (count : Word) (s : State) : NextQuiet s (execDetachMapStore count s) := by
  have hρ := Quiet.refl s
  unfold execDetachMapStore
  repeat' first
    | with_reducible assumption | extract_lets | with_reducible apply NextQuiet.next | with_reducible apply finishWith_quiet
    | with_reducible apply finishOk_quiet | with_reducible apply detachMap_quiet | split | with_reducible refine Quiet.upd ?_

theorem execRecoveryStart_quiet (s : State) : NextQuiet s (execRecoveryStart s) := by
  have hρ := Quiet.refl s
  unfold execRecoveryStart
  repeat' first
    | with_reducible assumption | extract_lets | with_reducible apply NextQuiet.next | with_reducible apply newSystemArea_quiet
    | with_reducible apply setSafe_quiet | with_reducible apply refresh_quiet | with_reducible apply writeHeld_quiet
    | with_reducible apply requestKind_quiet | split | with_reducible refine Quiet.upd ?_

theorem execFootingCheck_quiet (descOk : Bool) (written : List (LunId × Nat)) (s : State) :
    NextQuiet s (execFootingCheck descOk written s) := by
  have hρ := Quiet.refl s
  unfold execFootingCheck
  repeat' first
    | with_reducible assumption | extract_lets | with_reducible apply NextQuiet.next | split | (intro _; intros; beta_reduce)
    | with_reducible refine Quiet.upd ?_

theorem execFootingRebuild_quiet (s : State) : NextQuiet s (execFootingRebuild s) := by
  have hρ := Quiet.refl s
  unfold execFootingRebuild
  repeat' first
    | with_reducible assumption | extract_lets | with_reducible apply NextQuiet.next | with_reducible apply takeFooting_quiet | split
    | (intro _; intros; beta_reduce) | with_reducible refine Quiet.upd ?_

theorem execAutoLock_quiet (s : State) : NextQuiet s (execAutoLock s) := by
  have hρ := Quiet.refl s
  unfold execAutoLock
  repeat' first
    | with_reducible assumption | extract_lets | with_reducible apply NextQuiet.next | with_reducible apply refresh_quiet
    | with_reducible apply logEvent_quiet | split | with_reducible refine Quiet.upd ?_

theorem execPfailDeassert_quiet (s : State) : NextQuiet s (execPfailDeassert s) := by
  have hρ := Quiet.refl s
  unfold execPfailDeassert
  repeat' first
    | with_reducible assumption | extract_lets | with_reducible apply NextQuiet.next | split | with_reducible refine Quiet.upd ?_

theorem execPerstRelease_quiet (s : State) : NextQuiet s (execPerstRelease s) := by
  have hρ := Quiet.refl s
  unfold execPerstRelease
  repeat' first
    | with_reducible assumption | extract_lets | with_reducible apply NextQuiet.next | with_reducible apply trainPcie_quiet
    | with_reducible apply releaseWake_quiet | split | with_reducible refine Quiet.upd ?_

theorem execMsixTableWrite_quiet (offset : BitVec 15) (value : DWord) (wide : Bool) (s : State) :
    NextQuiet s (execMsixTableWrite offset value wide s) := by
  have hρ := Quiet.refl s
  unfold execMsixTableWrite
  repeat' first
    | with_reducible assumption | extract_lets | with_reducible apply NextQuiet.next | split | with_reducible apply Quiet.ite
    | with_reducible refine Quiet.upd ?_

theorem execMcSwitchTimeout_quiet (ch : Fin 16) (s : State) : NextQuiet s (execMcSwitchTimeout ch s) := by
  have hρ := Quiet.refl s
  unfold execMcSwitchTimeout
  repeat' first
    | with_reducible assumption | extract_lets | with_reducible apply NextQuiet.next | with_reducible apply logEvent_quiet
    | with_reducible apply setMason_quiet | split | with_reducible refine Quiet.upd ?_

theorem execMcScrub_quiet (bad : List (Fin 5 × Bool × BitVec 12)) (s : State) : NextQuiet s (execMcScrub bad s) := by
  have hρ := Quiet.refl s
  unfold execMcScrub
  repeat' first
    | with_reducible assumption | extract_lets | with_reducible apply NextQuiet.next | with_reducible apply scrubOne_quiet
    | with_reducible apply Quiet.foldl | split | (intro _; intros; beta_reduce) | with_reducible refine Quiet.upd ?_

theorem execAckRelease_quiet (s : State) : NextQuiet s (execAckRelease s) := by
  have hρ := Quiet.refl s
  unfold execAckRelease
  repeat' first
    | with_reducible assumption | extract_lets | with_reducible apply NextQuiet.next | with_reducible apply settle_quiet | split

theorem execThermalSample_quiet (s0 s1 s2 s3 : Int) (s : State) : NextQuiet s (execThermalSample s0 s1 s2 s3 s) := by
  have hρ := Quiet.refl s
  unfold execThermalSample
  repeat' first
    | with_reducible assumption | extract_lets | with_reducible apply NextQuiet.next | with_reducible apply setIrq_quiet
    | with_reducible apply assertWake_quiet | with_reducible apply tempTrigger_quiet | split | with_reducible apply Quiet.ite
    | with_reducible refine Quiet.upd ?_

theorem execTickCapture_quiet (s : State) : NextQuiet s (execTickCapture s) := by
  have hρ := Quiet.refl s
  unfold execTickCapture
  repeat' first
    | with_reducible assumption | extract_lets | with_reducible apply NextQuiet.next | split | with_reducible refine Quiet.upd ?_

end Sys2Proof.Machine
end

