-- ==== Sys2Proof/Laws/Silent.lean ====
section
/-! SUPPORT. The commands that store nothing: `Silent r s` says that shared memory and attached DRAM are as in `r`. -/

namespace Sys2Proof.Machine

/-- Shared memory and attached DRAM are as they were. -/
structure Silent (s t : State) : Prop where
  host : t.host = s.host
  dram : t.dram = s.dram

theorem Silent.refl (s : State) : Silent s s := ⟨rfl, rfl⟩

theorem Silent.upd {r t : State} {pins aon gbl prot adm pwr doms pcie log queues parts stage streams energy sys media hmap cal micro mover
    cas free pending} (h : Silent r t) : Silent r (State.mk pins aon gbl prot adm pwr doms pcie log queues t.host t.dram parts stage
      streams energy sys media hmap cal micro mover cas free pending) := ⟨h.host, h.dram⟩

theorem Silent.foldl {α : Type} {r : State} (f : State → α → State) (l : List α) {s : State} (h : Silent r s)
    (step : ∀ t x, Silent r t → Silent r (f t x)) : Silent r (l.foldl f s) := by
  induction l generalizing s with
  | nil => exact h
  | cons x l ih => exact ih (step s x h)

theorem Silent.ite {r s t : State} {c : Prop} [Decidable c] (h : Silent r s) (k : Silent r t) : Silent r (if c then s else t) := by
  split
  · exact h
  · exact k

/-- The same of an operation that also answers a value. -/
def PairSilent {α : Type} (r : State) (p : State × α) : Prop := Silent r p.1

theorem PairSilent.mk {α : Type} {r s : State} {a : α} (h : Silent r s) : PairSilent r (s, a) := h
theorem PairSilent.mk_iff {α : Type} {r s : State} {a : α} : PairSilent r (s, a) ↔ Silent r s := Iff.rfl
theorem PairSilent.fst {α : Type} {r : State} {p : State × α} (h : PairSilent r p) : Silent r p.1 := h
theorem PairSilent.eq {α : Type} {r s : State} {a : α} {p : State × α} (e : p = (s, a)) (h : PairSilent r p) : Silent r s := by
  rw [e] at h
  exact h

theorem PairSilent.foldl {α β : Type} {r : State} (f : State × β → α → State × β) (l : List α) {p : State × β} (h : PairSilent r p)
    (step : ∀ t x, PairSilent r t → PairSilent r (f t x)) : PairSilent r (l.foldl f p) := by
  induction l generalizing p with
  | nil => exact h
  | cons x l ih => exact ih (step p x h)

/-- The same of an operation that may be refused. -/
def OptSilent (r : State) (o : Option State) : Prop := ∀ t, o = some t → Silent r t

theorem OptSilent.none {r : State} : OptSilent r none := fun _ e => nomatch e
theorem OptSilent.some {r s : State} (h : Silent r s) : OptSilent r (some s) := by
  intro t e
  cases e
  exact h
theorem OptSilent.eq {r s : State} {o : Option State} (e : o = .some s) (h : OptSilent r o) : Silent r s := h s e
theorem OptSilent.getD {r s : State} {o : Option State} (k : OptSilent r o) (h : Silent r s) : Silent r (o.getD s) := by
  cases o with
  | none => exact h
  | some t => exact k t rfl

theorem OptSilent.map {r : State} {o : Option State} {f : State → State} (h : OptSilent r o) (k : ∀ t, Silent r t → Silent r (f t)) :
    OptSilent r (o.map f) := by
  cases o with
  | none => exact .none
  | some t => exact .some (k t (h t rfl))

theorem OptSilent.bind {r : State} {o : Option State} {f : State → Option State} (h : OptSilent r o)
    (k : ∀ t, Silent r t → OptSilent r (f t)) : OptSilent r (o.bind f) := by
  cases o with
  | none => exact .none
  | some t => exact k t (h t rfl)

theorem OptSilent.foldl {α : Type} {r : State} (f : Option State → α → Option State) (l : List α) {o : Option State} (h : OptSilent r o)
    (step : ∀ t x, OptSilent r t → OptSilent r (f t x)) : OptSilent r (l.foldl f o) := by
  induction l generalizing o with
  | nil => exact h
  | cons x l ih => exact ih (step o x h)

/-- The same of an operation that may be refused and also answers a value. -/
def OptPairSilent {α : Type} (r : State) (o : Option (State × α)) : Prop := ∀ t a, o = some (t, a) → Silent r t

theorem OptPairSilent.none {α : Type} {r : State} : OptPairSilent r (none : Option (State × α)) := fun _ _ e => nomatch e
theorem OptPairSilent.some {α : Type} {r s : State} {a : α} (h : Silent r s) : OptPairSilent r (some (s, a)) := by
  intro t b e
  cases e
  exact h
theorem OptPairSilent.eq {α : Type} {r s : State} {a : α} {o : Option (State × α)} (e : o = .some (s, a)) (h : OptPairSilent r o) :
    Silent r s := h s a e

/-- The same of an operation that goes on, or ends and also answers a value. -/
def SumSilent {α : Type} (r : State) (x : State ⊕ (State × α)) : Prop := (∀ t, x = .inl t → Silent r t) ∧ (∀ t a, x = .inr (t, a) → Silent r t)

theorem SumSilent.inl {α : Type} {r s : State} (h : Silent r s) : SumSilent r (.inl s : State ⊕ (State × α)) := by
  refine ⟨fun t e => ?_, fun t a e => nomatch e⟩
  cases e
  exact h
theorem SumSilent.inr {α : Type} {r s : State} {a : α} (h : Silent r s) : SumSilent r (.inr (s, a)) := by
  refine ⟨fun t e => (nomatch e), fun t b e => ?_⟩
  cases e
  exact h
theorem SumSilent.eqInl {α : Type} {r s : State} {x : State ⊕ (State × α)} (e : x = .inl s) (h : SumSilent r x) : Silent r s := h.1 s e
theorem SumSilent.eqInr {α : Type} {r s : State} {a : α} {x : State ⊕ (State × α)} (e : x = .inr (s, a)) (h : SumSilent r x) : Silent r s := h.2 s a e

/-- Every next state of an outcome has kept what counts since `r`. -/
def NextSilent (r : State) (o : Host.Outcome State Fault Refusal) : Prop := ∀ t, o = .next t → Silent r t

theorem NextSilent.next {r t : State} (h : Silent r t) : NextSilent r (.next t) := by
  intro u e
  cases e
  exact h

theorem wakeDomain_silent {ρ s : State} (hρ : Silent ρ s) (d : Nat) : Silent ρ (wakeDomain s d) := by
  unfold wakeDomain
  repeat' first
    | with_reducible assumption | extract_lets | split | with_reducible refine Silent.upd ?_

theorem sendVector_silent {ρ s : State} (hρ : Silent ρ s) (v : Nat) : Silent ρ (sendVector s v) := by
  unfold sendVector
  repeat' first
    | with_reducible assumption | extract_lets | split | with_reducible refine Silent.upd ?_

theorem setIrq_silent {ρ s : State} (hρ : Silent ρ s) (bits : BitVec 13) : Silent ρ (setIrq s bits) := by
  unfold setIrq
  repeat' first
    | with_reducible assumption | extract_lets | with_reducible apply sendVector_silent | split | with_reducible refine Silent.upd ?_

theorem noteGen_silent {ρ s : State} (hρ : Silent ρ s) (page : Nat) : Silent ρ (noteGen s page) := by
  unfold noteGen
  repeat' first
    | with_reducible assumption | extract_lets | split | with_reducible refine Silent.upd ?_

theorem logEvent_silent {ρ s : State} (hρ : Silent ρ s) (type : Nat) (fs : List (Nat × Nat × Nat)) : Silent ρ (logEvent s type fs) := by
  unfold logEvent
  repeat' first
    | with_reducible assumption | extract_lets | with_reducible apply setIrq_silent | split | with_reducible refine Silent.upd ?_

theorem refresh_silent {ρ s : State} (hρ : Silent ρ s) : Silent ρ (refresh s) := by
  unfold refresh
  repeat' first
    | with_reducible assumption | extract_lets | with_reducible apply setIrq_silent | with_reducible apply noteGen_silent | split
    | with_reducible refine Silent.upd ?_

theorem sendPort_silent {ρ s : State} (hρ : Silent ρ s) (n : Nat) (p : Packet) : Silent ρ (sendPort s n p) := by
  unfold sendPort
  repeat' first
    | with_reducible assumption | extract_lets | split | with_reducible refine Silent.upd ?_

theorem sendPkt_silent {ρ s : State} (hρ : Silent ρ s) (p : Packet) : Silent ρ (sendPkt s p) := by
  unfold sendPkt
  repeat' first
    | with_reducible assumption | extract_lets | with_reducible apply sendPort_silent | split | with_reducible refine Silent.upd ?_

theorem setJob_silent {ρ s : State} (hρ : Silent ρ s) (j : Job) : Silent ρ (setJob s j) := by
  unfold setJob
  repeat' first
    | with_reducible assumption | extract_lets | split | (intro _; intros; beta_reduce) | with_reducible refine Silent.upd ?_

theorem modQueue_silent {ρ s : State} (hρ : Silent ρ s) (q : Nat) (f : Queue → Queue) : Silent ρ (modQueue s q f) := by
  unfold modQueue
  repeat' first
    | with_reducible assumption | extract_lets | split | with_reducible refine Silent.upd ?_

theorem ringQueue_silent {ρ s : State} (hρ : Silent ρ s) (q : Nat) : Silent ρ (ringQueue s q) := by
  unfold ringQueue
  repeat' first
    | with_reducible assumption | extract_lets | with_reducible apply modQueue_silent | split | (intro _; intros; beta_reduce)
    | with_reducible refine Silent.upd ?_

theorem setSafe_silent {ρ s : State} (hρ : Silent ρ s) : Silent ρ (setSafe s) := by
  unfold setSafe
  repeat' first
    | with_reducible assumption | extract_lets | split | with_reducible refine Silent.upd ?_

theorem setMason_silent {ρ s : State} (hρ : Silent ρ s) (c : Fin 16) (m : Mason) : Silent ρ (setMason s c m) := by
  unfold setMason
  repeat' first
    | with_reducible assumption | extract_lets | split | with_reducible refine Silent.upd ?_

theorem commitCandidate_silent {ρ s : State} (hρ : Silent ρ s) : Silent ρ (commitCandidate s) := by
  unfold commitCandidate
  repeat' first
    | with_reducible assumption | extract_lets | split | (intro _; intros; beta_reduce) | with_reducible refine Silent.upd ?_

theorem setMov_silent {ρ s : State} (hρ : Silent ρ s) (c : Fin 32) (m : MovCh) : Silent ρ (setMov s c m) := by
  unfold setMov
  repeat' first
    | with_reducible assumption | extract_lets | split | with_reducible refine Silent.upd ?_

theorem pulsePin_silent {ρ s : State} (hρ : Silent ρ s) (pin : Nat) : Silent ρ (pulsePin s pin) := by
  unfold pulsePin
  repeat' first
    | with_reducible assumption | extract_lets | split | with_reducible refine Silent.upd ?_

theorem startCh_silent {ρ a1 : State} (hρ : Silent ρ a1) (a0 : Nat) (a2 : Fin 32) : Silent ρ (startCh a0 a1 a2) := by
  induction a0 generalizing a1 a2 with
  | zero =>
    rw [startCh]
    exact hρ
  | succ fuel ih =>
    rw [startCh]
    repeat' first
      | with_reducible assumption | with_reducible apply ih | extract_lets | with_reducible apply setMov_silent
      | with_reducible apply ringQueue_silent | with_reducible apply pulsePin_silent | split

theorem eachMov_silent {ρ s : State} (hρ : Silent ρ s) (f : State → Fin 32 → State)
    (h : ∀ t c, Silent ρ t → Silent ρ (f t c)) : Silent ρ (eachMov f s) := Silent.foldl _ _ hρ h

theorem execEvtInEdge_silent (pin : Fin 4) (s : State) : NextSilent s (execEvtInEdge pin s) := by
  have hρ := Silent.refl s
  unfold execEvtInEdge
  repeat' first
    | with_reducible assumption | extract_lets | with_reducible apply NextSilent.next | with_reducible apply eachMov_silent
    | with_reducible apply startCh_silent | split | (intro _; intros; beta_reduce)

theorem execMoverBurstStart_silent (ch : Fin 32) (s : State) : NextSilent s (execMoverBurstStart ch s) := by
  have hρ := Silent.refl s
  unfold execMoverBurstStart
  repeat' first
    | with_reducible assumption | extract_lets | with_reducible apply NextSilent.next | with_reducible apply setMov_silent | split
    | with_reducible refine Silent.upd ?_

theorem execEvtOutEnd_silent (pin : Fin 4) (s : State) : NextSilent s (execEvtOutEnd pin s) := by
  have hρ := Silent.refl s
  unfold execEvtOutEnd
  repeat' first
    | with_reducible assumption | extract_lets | with_reducible apply NextSilent.next | split | with_reducible refine Silent.upd ?_

theorem modMedia_silent {ρ s : State} (hρ : Silent ρ s) (f : Media → Media) : Silent ρ (modMedia s f) := by
  unfold modMedia
  repeat' first
    | with_reducible assumption | extract_lets | split | with_reducible refine Silent.upd ?_

theorem modLun_silent {ρ s : State} (hρ : Silent ρ s) (k : Nat) (f : Lun → Lun) : Silent ρ (modLun s k f) := by
  unfold modLun
  repeat' first
    | with_reducible assumption | extract_lets | with_reducible apply modMedia_silent | split | (intro _; intros; beta_reduce)
    | with_reducible refine Silent.upd ?_

theorem modHealth_silent {ρ s : State} (hρ : Silent ρ s) (f : Health → Health) : Silent ρ (modHealth s f) := by
  unfold modHealth
  repeat' first
    | with_reducible assumption | extract_lets | split | with_reducible refine Silent.upd ?_

theorem setBlk_silent {ρ s : State} (hρ : Silent ρ s) (k : Nat) (u : BlkUse) : Silent ρ (setBlk s k u) := by
  unfold setBlk
  repeat' first
    | with_reducible assumption | extract_lets | with_reducible apply modMedia_silent | with_reducible apply noteGen_silent | split
    | (intro _; intros; beta_reduce) | with_reducible refine Silent.upd ?_

theorem formCourse_silent {ρ s : State} (hρ : Silent ρ s) (role : Role) (blocks : List Nat) (mortar : Nat) (slc : Bool) :
    Silent ρ (formCourse s role blocks mortar slc) := by
  unfold formCourse
  repeat' first
    | with_reducible assumption | extract_lets | with_reducible apply setBlk_silent | with_reducible apply modMedia_silent
    | with_reducible apply Silent.foldl | split | (intro _; intros; beta_reduce) | with_reducible refine Silent.upd ?_

theorem closeFull_silent {ρ s : State} (hρ : Silent ρ s) (id : Nat) : Silent ρ (closeFull s id) := by
  unfold closeFull
  repeat' first
    | with_reducible assumption | extract_lets | with_reducible apply modMedia_silent | split | (intro _; intros; beta_reduce)
    | with_reducible refine Silent.upd ?_

theorem storeCws_silent {ρ s : State} (hρ : Silent ρ s) (block page : Nat) (d : Nat → List Byte) :
    Silent ρ (storeCws s block page d) := by
  unfold storeCws
  repeat' first
    | with_reducible assumption | extract_lets | with_reducible apply Silent.foldl | split | (intro _; intros; beta_reduce)
    | with_reducible refine Silent.upd ?_

theorem storePage_silent {ρ s : State} (hρ : Silent ρ s) (c : Course) (m row : Nat) (refs : List Ref) :
    Silent ρ (storePage s c m row refs) := by
  unfold storePage
  repeat' first
    | with_reducible assumption | extract_lets | with_reducible apply storeCws_silent | with_reducible apply Silent.foldl | split
    | (intro _; intros; beta_reduce) | with_reducible refine Silent.upd ?_

theorem erased_silent {ρ s : State} (hρ : Silent ρ s) (k : Nat) : Silent ρ (erased s k) := by
  unfold erased
  repeat' first
    | with_reducible assumption | extract_lets | with_reducible apply modMedia_silent | with_reducible apply noteGen_silent | split
    | (intro _; intros; beta_reduce) | with_reducible refine Silent.upd ?_

theorem relocCourse_silent {ρ s : State} (hρ : Silent ρ s) (cold : Bool) : OptPairSilent ρ (relocCourse s cold) := by
  unfold relocCourse
  repeat' first
    | with_reducible assumption | extract_lets | with_reducible apply formCourse_silent | with_reducible exact OptPairSilent.none
    | with_reducible apply OptPairSilent.some | with_reducible refine OptPairSilent.eq (by assumption) ?_ | split
    | (intro _; intros; beta_reduce) | with_reducible refine Silent.upd ?_

theorem placeAt_silent {ρ s : State} (hρ : Silent ρ s) (id : Nat) (c : Course) (m : Nat) (page : List Ref) :
    Silent ρ (placeAt s id c m page) := by
  unfold placeAt
  repeat' first
    | with_reducible assumption | extract_lets | with_reducible apply storePage_silent | with_reducible apply modMedia_silent
    | with_reducible apply modHealth_silent | split | (intro _; intros; beta_reduce) | with_reducible refine Silent.upd ?_

theorem placePage_silent {ρ s : State} (hρ : Silent ρ s) (cold : Bool) (page : List Ref) : OptSilent ρ (placePage s cold page) := by
  unfold placePage
  repeat' first
    | with_reducible assumption | extract_lets | with_reducible apply relocCourse_silent | with_reducible apply placeAt_silent
    | with_reducible apply closeFull_silent | with_reducible exact OptSilent.none | with_reducible apply OptSilent.some
    | with_reducible apply OptSilent.map | with_reducible apply OptSilent.bind | with_reducible apply OptSilent.foldl
    | with_reducible apply OptSilent.getD | with_reducible refine OptSilent.eq (by assumption) ?_
    | with_reducible exact OptPairSilent.none | with_reducible apply OptPairSilent.some
    | with_reducible refine OptPairSilent.eq (by assumption) ?_ | split | (intro _; intros; beta_reduce)
    | with_reducible refine Silent.upd ?_

theorem placePages_silent {ρ s : State} (hρ : Silent ρ s) (cold : Bool) (pages : List (List Ref)) :
    OptSilent ρ (placePages s cold pages) := by
  unfold placePages
  repeat' first
    | with_reducible assumption | extract_lets | with_reducible apply placePage_silent | with_reducible exact OptSilent.none
    | with_reducible apply OptSilent.some | with_reducible apply OptSilent.map | with_reducible apply OptSilent.bind
    | with_reducible apply OptSilent.foldl | with_reducible apply OptSilent.getD | with_reducible refine OptSilent.eq (by assumption) ?_
    | with_reducible apply Silent.foldl | split | (intro _; intros; beta_reduce)

theorem placeClass_silent {ρ s : State} (hρ : Silent ρ s) (cold : Bool) (pages : List (List Ref)) :
    OptSilent ρ (placeClass s cold pages) := by
  unfold placeClass
  repeat' first
    | with_reducible assumption | extract_lets | with_reducible apply placePages_silent | with_reducible exact OptSilent.none
    | with_reducible apply OptSilent.some | with_reducible apply OptSilent.map | with_reducible apply OptSilent.bind
    | with_reducible apply OptSilent.foldl | with_reducible apply OptSilent.getD | with_reducible refine OptSilent.eq (by assumption) ?_
    | split | (intro _; intros; beta_reduce)

theorem placeMoved_silent {ρ s : State} (hρ : Silent ρ s) (refs : List Ref) : OptSilent ρ (placeMoved s refs) := by
  unfold placeMoved
  repeat' first
    | with_reducible assumption | extract_lets | with_reducible apply placeClass_silent | with_reducible exact OptSilent.none
    | with_reducible apply OptSilent.some | with_reducible apply OptSilent.map | with_reducible apply OptSilent.bind
    | with_reducible apply OptSilent.foldl | with_reducible apply OptSilent.getD | with_reducible refine OptSilent.eq (by assumption) ?_
    | split | (intro _; intros; beta_reduce)

theorem dropCourse_silent {ρ s : State} (hρ : Silent ρ s) (id : Nat) : Silent ρ (dropCourse s id) := by
  unfold dropCourse
  repeat' first
    | with_reducible assumption | extract_lets | with_reducible apply setBlk_silent | with_reducible apply modMedia_silent
    | with_reducible apply Silent.foldl | split | (intro _; intros; beta_reduce) | with_reducible refine Silent.upd ?_

theorem emptyCourse_silent {ρ s : State} (hρ : Silent ρ s) (id : Nat) : OptSilent ρ (emptyCourse s id) := by
  unfold emptyCourse
  repeat' first
    | with_reducible assumption | extract_lets | with_reducible apply placeMoved_silent | with_reducible apply dropCourse_silent
    | with_reducible exact OptSilent.none | with_reducible apply OptSilent.some | with_reducible apply OptSilent.map
    | with_reducible apply OptSilent.bind | with_reducible apply OptSilent.foldl | with_reducible apply OptSilent.getD
    | with_reducible refine OptSilent.eq (by assumption) ?_ | split | (intro _; intros; beta_reduce)
    | with_reducible refine Silent.upd ?_

theorem freeEmpty_silent {ρ s : State} (hρ : Silent ρ s) : Silent ρ (freeEmpty s) := by
  unfold freeEmpty
  repeat' first
    | with_reducible assumption | extract_lets | with_reducible apply dropCourse_silent | with_reducible apply Silent.foldl | split
    | (intro _; intros; beta_reduce)

theorem dropDie_silent {ρ s0 : State} (hρ : Silent ρ s0) (l : Nat) : Silent ρ (dropDie s0 l) := by
  unfold dropDie
  repeat' first
    | with_reducible assumption | extract_lets | with_reducible apply modMedia_silent | with_reducible apply modLun_silent | split
    | (intro _; intros; beta_reduce) | with_reducible refine Silent.upd ?_

theorem withdrawSwitch_silent {ρ s : State} (hρ : Silent ρ s) (c : Fin 16) (reason : Nat) : Silent ρ (withdrawSwitch s c reason) := by
  unfold withdrawSwitch
  repeat' first
    | with_reducible assumption | extract_lets | with_reducible apply setMason_silent | with_reducible apply logEvent_silent | split
    | with_reducible refine Silent.upd ?_

theorem takeOffline_silent {ρ s : State} (hρ : Silent ρ s) (ch why : Nat) : Silent ρ (takeOffline s ch why) := by
  unfold takeOffline
  repeat' first
    | with_reducible assumption | extract_lets | with_reducible apply dropDie_silent | with_reducible apply modMedia_silent
    | with_reducible apply withdrawSwitch_silent | with_reducible apply refresh_silent | with_reducible apply commitCandidate_silent
    | with_reducible apply logEvent_silent | with_reducible apply Silent.foldl | split | (intro _; intros; beta_reduce)
    | with_reducible refine Silent.upd ?_

theorem beginProgram_silent {ρ s0 : State} (hρ : Silent ρ s0) (k course member row : Nat) (slc : Bool) (refs : List Ref) :
    Silent ρ (beginProgram s0 k course member row slc refs) := by
  unfold beginProgram
  repeat' first
    | with_reducible assumption | extract_lets | with_reducible apply storePage_silent | with_reducible apply modLun_silent | split
    | (intro _; intros; beta_reduce) | with_reducible refine Silent.upd ?_

theorem programPage_silent {ρ s : State} (hρ : Silent ρ s) (k course member row : Nat) (slc : Bool) (refs : List Ref) :
    OptSilent ρ (programPage s k course member row slc refs) := by
  unfold programPage
  repeat' first
    | with_reducible assumption | extract_lets | with_reducible apply beginProgram_silent | with_reducible exact OptSilent.none
    | with_reducible apply OptSilent.some | with_reducible apply OptSilent.map | with_reducible apply OptSilent.bind
    | with_reducible apply OptSilent.foldl | with_reducible apply OptSilent.getD | with_reducible refine OptSilent.eq (by assumption) ?_
    | split | (intro _; intros; beta_reduce) | with_reducible refine Silent.upd ?_

theorem suspendLun_silent {ρ s : State} (hρ : Silent ρ s) (k : Nat) : Silent ρ (suspendLun s k) := by
  unfold suspendLun
  repeat' first
    | with_reducible assumption | extract_lets | with_reducible apply modLun_silent | split | (intro _; intros; beta_reduce)
    | with_reducible refine Silent.upd ?_

theorem startWork_silent {ρ s : State} (hρ : Silent ρ s) (ch : Fin 16) (w : FlashWork) : OptSilent ρ (startWork s ch w) := by
  unfold startWork
  repeat' first
    | with_reducible assumption | extract_lets | with_reducible apply suspendLun_silent | with_reducible apply modLun_silent
    | with_reducible apply wakeDomain_silent | with_reducible apply beginProgram_silent | with_reducible apply programPage_silent
    | with_reducible apply formCourse_silent | with_reducible exact OptSilent.none | with_reducible apply OptSilent.some
    | with_reducible apply OptSilent.map | with_reducible apply OptSilent.bind | with_reducible apply OptSilent.foldl
    | with_reducible apply OptSilent.getD | with_reducible refine OptSilent.eq (by assumption) ?_ | split
    | (intro _; intros; beta_reduce) | with_reducible refine Silent.upd ?_

theorem answerEntry_silent {ρ s : State} (hρ : Silent ρ s) (p : Packet) (status : Nat) : Silent ρ (answerEntry s p status) := by
  unfold answerEntry
  repeat' first
    | with_reducible assumption | extract_lets | with_reducible apply sendPkt_silent | split

theorem releaseWake_silent {ρ s : State} (hρ : Silent ρ s) : Silent ρ (releaseWake s) := by
  unfold releaseWake
  repeat' first
    | with_reducible assumption | extract_lets | split | with_reducible refine Silent.upd ?_

theorem emptyFooting_silent {ρ s : State} (hρ : Silent ρ s) (id : Nat) : Silent ρ (emptyFooting s id) := by
  unfold emptyFooting
  repeat' first
    | with_reducible assumption | extract_lets | with_reducible apply setBlk_silent | with_reducible apply modMedia_silent
    | with_reducible apply Silent.foldl | split | (intro _; intros; beta_reduce) | with_reducible refine Silent.upd ?_

theorem absorbFooting_silent {ρ s : State} (hρ : Silent ρ s) : Silent ρ (absorbFooting s) := by
  unfold absorbFooting
  repeat' first
    | with_reducible assumption | extract_lets | with_reducible apply setBlk_silent | with_reducible apply emptyFooting_silent
    | with_reducible apply modMedia_silent | with_reducible apply Silent.foldl | split | (intro _; intros; beta_reduce)
    | with_reducible refine Silent.upd ?_

theorem newSystemArea_silent {ρ s : State} (hρ : Silent ρ s) : Silent ρ (newSystemArea s) := by
  unfold newSystemArea
  repeat' first
    | with_reducible assumption | extract_lets | split | with_reducible apply Silent.ite | with_reducible refine Silent.upd ?_

theorem setScan_silent {ρ s : State} (hρ : Silent ρ s) (q : Nat) (x : ScanState) : Silent ρ (setScan s q x) := by
  unfold setScan
  repeat' first
    | with_reducible assumption | extract_lets | with_reducible apply modQueue_silent | split | (intro _; intros; beta_reduce)
    | with_reducible refine Silent.upd ?_

theorem freeRx_silent {ρ s : State} (hρ : Silent ρ s) (port : Fin 3) (p : Packet) : Silent ρ (freeRx s port p) := by
  unfold freeRx
  repeat' first
    | with_reducible assumption | extract_lets | split | with_reducible refine Silent.upd ?_

theorem execScanResume_silent (q : Fin 4096) (s : State) : NextSilent s (execScanResume q s) := by
  have hρ := Silent.refl s
  unfold execScanResume
  repeat' first
    | with_reducible assumption | extract_lets | with_reducible apply NextSilent.next | with_reducible apply setScan_silent | split
    | with_reducible refine Silent.upd ?_

theorem execDoorbell_silent (n : Fin 4096) (be : BitVec 4) (s : State) : NextSilent s (execDoorbell n be s) := by
  have hρ := Silent.refl s
  unfold execDoorbell
  repeat' first
    | with_reducible assumption | extract_lets | with_reducible apply NextSilent.next | with_reducible apply modQueue_silent
    | with_reducible apply ringQueue_silent | split | with_reducible apply Silent.ite | (intro _; intros; beta_reduce)
    | with_reducible refine Silent.upd ?_

theorem modSpan_silent {ρ s : State} (hρ : Silent ρ s) (p : Nat) (f : Span → Span) : Silent ρ (modSpan s p f) := by
  unfold modSpan
  repeat' first
    | with_reducible assumption | extract_lets | split | with_reducible refine Silent.upd ?_

theorem issueSubs_silent {ρ s : State} (hρ : Silent ρ s) (q : Nat) (c : Word) (rs : List SubReq) : PairSilent ρ (issueSubs s q c rs) := by
  unfold issueSubs
  repeat' first
    | with_reducible assumption | extract_lets | with_reducible apply sendPkt_silent | simp only [PairSilent.mk_iff]
    | with_reducible apply PairSilent.fst | with_reducible refine PairSilent.eq (by assumption) ?_ | with_reducible apply Silent.foldl
    | with_reducible apply PairSilent.foldl | split | (intro _; intros; beta_reduce) | with_reducible refine Silent.upd ?_

theorem setOp_silent {ρ s : State} (hρ : Silent ρ s) (o : SpanOp) : Silent ρ (setOp s o) := by
  unfold setOp
  repeat' first
    | with_reducible assumption | extract_lets | split | (intro _; intros; beta_reduce) | with_reducible refine Silent.upd ?_

theorem addOp_silent {ρ s : State} (hρ : Silent ρ s) (j : Option Job) (goal p : Nat) (stage : SpanStage) (rows : List Nat) :
    PairSilent ρ (addOp s j goal p stage rows) := by
  unfold addOp
  repeat' first
    | with_reducible assumption | extract_lets | simp only [PairSilent.mk_iff] | with_reducible apply PairSilent.fst
    | with_reducible refine PairSilent.eq (by assumption) ?_ | split | with_reducible refine Silent.upd ?_

theorem runSubs_silent {ρ s : State} (hρ : Silent ρ s) (o : SpanOp) (stage : SpanStage) (rs : List SubReq) :
    Silent ρ (runSubs s o stage rs) := by
  unfold runSubs
  extract_lets j
  clear_value j
  repeat' first
    | with_reducible assumption | extract_lets | with_reducible apply issueSubs_silent | with_reducible apply setOp_silent
    | with_reducible apply setJob_silent | with_reducible refine PairSilent.eq (by assumption) ?_ | split | with_reducible apply PairSilent.fst

theorem resyncNext_silent {ρ s : State} (hρ : Silent ρ s) (p : Nat) : Silent ρ (resyncNext s p) := by
  unfold resyncNext
  repeat' first
    | with_reducible assumption | extract_lets | with_reducible apply addOp_silent | with_reducible apply runSubs_silent
    | simp only [PairSilent.mk_iff] | with_reducible apply PairSilent.fst | with_reducible refine PairSilent.eq (by assumption) ?_
    | split | (intro _; intros; beta_reduce) | with_reducible refine Silent.upd ?_

theorem resyncAll_silent {ρ s : State} (hρ : Silent ρ s) : Silent ρ (resyncAll s) := by
  unfold resyncAll
  repeat' first
    | with_reducible assumption | extract_lets | with_reducible apply resyncNext_silent | with_reducible apply Silent.foldl | split
    | (intro _; intros; beta_reduce)

theorem restoreMember_silent {ρ s : State} (hρ : Silent ρ s) (p k id : Nat) : Silent ρ (restoreMember s p k id) := by
  unfold restoreMember
  repeat' first
    | with_reducible assumption | extract_lets | with_reducible apply modSpan_silent | with_reducible apply logEvent_silent | split
    | (intro _; intros; beta_reduce) | with_reducible refine Silent.upd ?_

theorem requestCal_silent {ρ s0 : State} (hρ : Silent ρ s0) (kind : Nat) (us : List Nat) : Silent ρ (requestCal s0 kind us) := by
  unfold requestCal
  repeat' first
    | with_reducible assumption | extract_lets | with_reducible apply noteGen_silent | split | with_reducible refine Silent.upd ?_

theorem requestKind_silent {ρ s : State} (hρ : Silent ρ s) (kind : Nat) : Silent ρ (requestKind s kind) := by
  unfold requestKind
  repeat' first
    | with_reducible assumption | extract_lets | with_reducible apply requestCal_silent | split

theorem tempTrigger_silent {ρ s : State} (hρ : Silent ρ s) : Silent ρ (tempTrigger s) := by
  unfold tempTrigger
  repeat' first
    | with_reducible assumption | extract_lets | with_reducible apply requestCal_silent | split | with_reducible apply Silent.ite
    | (intro _; intros; beta_reduce) | with_reducible refine Silent.upd ?_

theorem releaseExpired_silent {ρ s : State} (hρ : Silent ρ s) : Silent ρ (releaseExpired s) := by
  unfold releaseExpired
  repeat' first
    | with_reducible assumption | extract_lets | with_reducible apply freeEmpty_silent | split | (intro _; intros; beta_reduce)
    | with_reducible refine Silent.upd ?_

theorem execRetentionCheck_silent (s : State) : NextSilent s (execRetentionCheck s) := by
  have hρ := Silent.refl s
  unfold execRetentionCheck
  repeat' first
    | with_reducible assumption | extract_lets | with_reducible apply NextSilent.next | with_reducible apply releaseExpired_silent
    | split | with_reducible refine Silent.upd ?_

theorem setCalPin_silent {ρ s : State} (hρ : Silent ρ s) (v : Bool) : Silent ρ (setCalPin s v) := by
  unfold setCalPin
  repeat' first
    | with_reducible assumption | extract_lets | split | with_reducible refine Silent.upd ?_

theorem startDischarge_silent {ρ s : State} (hρ : Silent ρ s) (second : Bool) (v0 : Nat) (first : Option Nat) :
    Silent ρ (startDischarge s second v0 first) := by
  unfold startDischarge
  repeat' first
    | with_reducible assumption | extract_lets | with_reducible apply setCalPin_silent | split | with_reducible refine Silent.upd ?_

theorem execCalHoldupRun_silent (s : State) : NextSilent s (execCalHoldupRun s) := by
  have hρ := Silent.refl s
  unfold execCalHoldupRun
  repeat' first
    | with_reducible assumption | extract_lets | with_reducible apply NextSilent.next | with_reducible apply startDischarge_silent
    | split | with_reducible refine Silent.upd ?_

theorem execCalRepeat_silent (kind : Fin 3) (s : State) : NextSilent s (execCalRepeat kind s) := by
  have hρ := Silent.refl s
  unfold execCalRepeat
  repeat' first
    | with_reducible assumption | extract_lets | with_reducible apply NextSilent.next | with_reducible apply requestCal_silent | split
    | with_reducible refine Silent.upd ?_

theorem calCtrlWrite_silent {ρ s : State} (hρ : Silent ρ s) (v : Word) : Silent ρ (calCtrlWrite s v) := by
  unfold calCtrlWrite
  repeat' first
    | with_reducible assumption | extract_lets | with_reducible apply noteGen_silent | with_reducible apply requestKind_silent
    | with_reducible apply Silent.foldl | split | (intro _; intros; beta_reduce) | with_reducible refine Silent.upd ?_

theorem calReq_silent {ρ s : State} (hρ : Silent ρ s) (v : Word) : Silent ρ (calReq s v) := by
  unfold calReq
  repeat' first
    | with_reducible assumption | extract_lets | with_reducible apply calCtrlWrite_silent | split

theorem execCalReqTrim_silent (value : Word) (s : State) : NextSilent s (execCalReqTrim value s) := by
  have hρ := Silent.refl s
  unfold execCalReqTrim
  repeat' first
    | with_reducible assumption | extract_lets | with_reducible apply NextSilent.next | with_reducible apply calReq_silent | split

theorem execCalReqTrack_silent (value : Word) (s : State) : NextSilent s (execCalReqTrack value s) := by
  have hρ := Silent.refl s
  unfold execCalReqTrack
  repeat' first
    | with_reducible assumption | extract_lets | with_reducible apply NextSilent.next | with_reducible apply calReq_silent | split

theorem execCalReqHoldup_silent (value : Word) (s : State) : NextSilent s (execCalReqHoldup value s) := by
  have hρ := Silent.refl s
  unfold execCalReqHoldup
  repeat' first
    | with_reducible assumption | extract_lets | with_reducible apply NextSilent.next | with_reducible apply calReq_silent | split

theorem endBurn_silent {ρ s : State} (hρ : Silent ρ s) (word : Nat) (v : DWord) (clocks : Nat) (failing : DWord) :
    Silent ρ (endBurn s word v clocks failing) := by
  unfold endBurn
  repeat' first
    | with_reducible assumption | extract_lets | split | with_reducible refine Silent.upd ?_

theorem endFrame_silent {ρ s : State} (hρ : Silent ρ s) : Silent ρ (endFrame s) := by
  unfold endFrame
  repeat' first
    | with_reducible assumption | extract_lets | with_reducible apply endBurn_silent | split | with_reducible refine Silent.upd ?_

theorem answer_silent {ρ s : State} (hρ : Silent ρ s) (fstat : Nat) (d : Nat) (data : List Byte) : Silent ρ (answer s fstat d data) := by
  unfold answer
  repeat' first
    | with_reducible assumption | extract_lets | split | with_reducible refine Silent.upd ?_

theorem deny_silent {ρ s : State} (hρ : Silent ρ s) (d : Nat) : Silent ρ (deny s d) := by
  unfold deny
  repeat' first
    | with_reducible assumption | extract_lets | with_reducible apply answer_silent | split | with_reducible refine Silent.upd ?_

theorem execMspReadStatus_silent (arg hcrc : BitVec 16) (s : State) : NextSilent s (execMspReadStatus arg hcrc s) := by
  have hρ := Silent.refl s
  unfold execMspReadStatus
  repeat' first
    | with_reducible assumption | extract_lets | with_reducible apply NextSilent.next | with_reducible apply endFrame_silent
    | with_reducible apply answer_silent | split

theorem execMspReadId_silent (arg hcrc : BitVec 16) (s : State) : NextSilent s (execMspReadId arg hcrc s) := by
  have hρ := Silent.refl s
  unfold execMspReadId
  repeat' first
    | with_reducible assumption | extract_lets | with_reducible apply NextSilent.next | with_reducible apply endFrame_silent
    | with_reducible apply answer_silent | split

theorem execReadOtp_silent (arg hcrc : BitVec 16) (s : State) : NextSilent s (execReadOtp arg hcrc s) := by
  have hρ := Silent.refl s
  unfold execReadOtp
  repeat' first
    | with_reducible assumption | extract_lets | with_reducible apply NextSilent.next | with_reducible apply endFrame_silent
    | with_reducible apply answer_silent | split | (intro _; intros; beta_reduce)

theorem execReadSnapshot_silent (arg hcrc : BitVec 16) (s : State) : NextSilent s (execReadSnapshot arg hcrc s) := by
  have hρ := Silent.refl s
  unfold execReadSnapshot
  repeat' first
    | with_reducible assumption | extract_lets | with_reducible apply NextSilent.next | with_reducible apply endFrame_silent
    | with_reducible apply answer_silent | with_reducible apply deny_silent | split

theorem syncDisagree_silent {ρ s : State} (hρ : Silent ρ s) : Silent ρ (syncDisagree s) := by
  unfold syncDisagree
  repeat' first
    | with_reducible assumption | extract_lets | split | with_reducible refine Silent.upd ?_

theorem setRequested_silent {ρ s : State} (hρ : Silent ρ s) (ch : BitVec 16) (fl : BitVec 8) : Silent ρ (setRequested s ch fl) := by
  unfold setRequested
  repeat' first
    | with_reducible assumption | extract_lets | with_reducible apply syncDisagree_silent | split | with_reducible refine Silent.upd ?_

theorem orderFrame_silent {ρ s0 : State} (hρ : Silent ρ s0) (op : Nat) (setting : Bool) (arg : BitVec 16) (payload : Word) (hcrc :
    BitVec 16) : Silent ρ (orderFrame op setting arg payload hcrc s0) := by
  unfold orderFrame
  repeat' first
    | with_reducible assumption | extract_lets | with_reducible apply endFrame_silent | with_reducible apply answer_silent
    | with_reducible apply deny_silent | with_reducible apply setRequested_silent | split

theorem execOrderSet_silent (arg : BitVec 16) (payload : Word) (hcrc : BitVec 16) (s : State) :
    NextSilent s (execOrderSet arg payload hcrc s) := by
  have hρ := Silent.refl s
  unfold execOrderSet
  repeat' first
    | with_reducible assumption | extract_lets | with_reducible apply NextSilent.next | with_reducible apply orderFrame_silent | split

theorem execOrderClear_silent (arg : BitVec 16) (payload : Word) (hcrc : BitVec 16) (s : State) :
    NextSilent s (execOrderClear arg payload hcrc s) := by
  have hρ := Silent.refl s
  unfold execOrderClear
  repeat' first
    | with_reducible assumption | extract_lets | with_reducible apply NextSilent.next | with_reducible apply orderFrame_silent | split

theorem execDisagreeTimeout_silent (s : State) : NextSilent s (execDisagreeTimeout s) := by
  have hρ := Silent.refl s
  unfold execDisagreeTimeout
  repeat' first
    | with_reducible assumption | extract_lets | with_reducible apply NextSilent.next | split | with_reducible refine Silent.upd ?_

theorem execBurn_silent (arg : BitVec 16) (payload : DWord) (hcrc : BitVec 16) (s : State) :
    NextSilent s (execBurn arg payload hcrc s) := by
  have hρ := Silent.refl s
  unfold execBurn
  repeat' first
    | with_reducible assumption | extract_lets | with_reducible apply NextSilent.next | with_reducible apply endFrame_silent
    | with_reducible apply answer_silent | with_reducible apply deny_silent | split | with_reducible refine Silent.upd ?_

theorem execMspBadOp_silent (op : Byte) (arg hcrc : BitVec 16) (s : State) : NextSilent s (execMspBadOp op arg hcrc s) := by
  have hρ := Silent.refl s
  unfold execMspBadOp
  repeat' first
    | with_reducible assumption | extract_lets | with_reducible apply NextSilent.next | with_reducible apply endFrame_silent
    | with_reducible apply answer_silent | split

theorem execMspCsRise_silent (clocks : Nat) (failing : DWord) (s : State) : NextSilent s (execMspCsRise clocks failing s) := by
  have hρ := Silent.refl s
  unfold execMspCsRise
  repeat' first
    | with_reducible assumption | extract_lets | with_reducible apply NextSilent.next | with_reducible apply endBurn_silent | split
    | with_reducible refine Silent.upd ?_

theorem raiseTherm_silent {ρ s : State} (hρ : Silent ρ s) (firmware : Bool) : Silent ρ (raiseTherm s firmware) := by
  unfold raiseTherm
  repeat' first
    | with_reducible assumption | extract_lets | split | with_reducible apply Silent.ite | with_reducible refine Silent.upd ?_

theorem execThermometerBurn_silent (firmware : Bool) (s : State) : NextSilent s (execThermometerBurn firmware s) := by
  have hρ := Silent.refl s
  unfold execThermometerBurn
  repeat' first
    | with_reducible assumption | extract_lets | with_reducible apply NextSilent.next | with_reducible apply raiseTherm_silent | split
    | with_reducible refine Silent.upd ?_

theorem eraseBlocks_silent {ρ s : State} (hρ : Silent ρ s) (ks : List Nat) : Silent ρ (eraseBlocks s ks) := by
  unfold eraseBlocks
  repeat' first
    | with_reducible assumption | extract_lets | with_reducible apply erased_silent | with_reducible apply Silent.foldl | split
    | (intro _; intros; beta_reduce)

theorem noteVictim_silent {ρ s : State} (hρ : Silent ρ s) (v : Nat) : Silent ρ (noteVictim s v) := modMedia_silent hρ _

theorem execGcReclaim_silent (s : State) : NextSilent s (execGcReclaim s) := by
  have hρ := Silent.refl s
  unfold execGcReclaim
  repeat' first
    | with_reducible assumption | extract_lets | with_reducible apply NextSilent.next | with_reducible apply emptyCourse_silent
    | with_reducible apply noteVictim_silent | with_reducible apply eraseBlocks_silent | with_reducible exact OptSilent.none
    | with_reducible apply OptSilent.some | with_reducible apply OptSilent.map | with_reducible apply OptSilent.bind
    | with_reducible apply OptSilent.foldl | with_reducible apply OptSilent.getD | with_reducible refine OptSilent.eq (by assumption) ?_
    | split | with_reducible refine Silent.upd ?_

theorem wornCourse_silent {ρ s : State} (hρ : Silent ρ s) (cold : Bool) : Silent ρ (wornCourse s cold) := by
  unfold wornCourse
  repeat' first
    | with_reducible assumption | extract_lets | with_reducible apply formCourse_silent | split | (intro _; intros; beta_reduce)

theorem openWorn_silent {ρ s : State} (hρ : Silent ρ s) (id : Nat) : Silent ρ (openWorn s id) := by
  unfold openWorn
  extract_lets valid s1
  have h1 : Silent ρ s1 := by
    unfold s1
    split
    · exact wornCourse_silent hρ true
    · exact hρ
  split
  · exact wornCourse_silent h1 false
  · exact h1

theorem execWearLevel_silent (s : State) : NextSilent s (execWearLevel s) := by
  have hρ := Silent.refl s
  unfold execWearLevel
  repeat' first
    | with_reducible assumption | extract_lets | with_reducible apply NextSilent.next | with_reducible apply emptyCourse_silent
    | with_reducible apply openWorn_silent | with_reducible exact OptSilent.none | with_reducible apply OptSilent.some
    | with_reducible apply OptSilent.map | with_reducible apply OptSilent.bind | with_reducible apply OptSilent.foldl
    | with_reducible apply OptSilent.getD | with_reducible refine OptSilent.eq (by assumption) ?_ | split
    | with_reducible refine Silent.upd ?_

theorem execFootingFold_silent (s : State) : NextSilent s (execFootingFold s) := by
  have hρ := Silent.refl s
  unfold execFootingFold
  repeat' first
    | with_reducible assumption | extract_lets | with_reducible apply NextSilent.next | with_reducible apply emptyCourse_silent
    | with_reducible exact OptSilent.none | with_reducible apply OptSilent.some | with_reducible apply OptSilent.map
    | with_reducible apply OptSilent.bind | with_reducible apply OptSilent.foldl | with_reducible apply OptSilent.getD
    | with_reducible refine OptSilent.eq (by assumption) ?_ | split | (intro _; intros; beta_reduce)
    | with_reducible refine Silent.upd ?_

theorem execDieRelocate_silent (s : State) : NextSilent s (execDieRelocate s) := by
  have hρ := Silent.refl s
  unfold execDieRelocate
  repeat' first
    | with_reducible assumption | extract_lets | with_reducible apply NextSilent.next | with_reducible apply placeMoved_silent
    | with_reducible apply refresh_silent | with_reducible apply freeEmpty_silent | with_reducible apply modMedia_silent
    | with_reducible exact OptSilent.none | with_reducible apply OptSilent.some | with_reducible apply OptSilent.map
    | with_reducible apply OptSilent.bind | with_reducible apply OptSilent.foldl | with_reducible apply OptSilent.getD
    | with_reducible refine OptSilent.eq (by assumption) ?_ | split | (intro _; intros; beta_reduce)
    | with_reducible refine Silent.upd ?_

theorem execBlockErase_silent (s : State) : NextSilent s (execBlockErase s) := by
  have hρ := Silent.refl s
  unfold execBlockErase
  repeat' first
    | with_reducible assumption | extract_lets | with_reducible apply NextSilent.next | with_reducible apply eraseBlocks_silent
    | with_reducible apply freeEmpty_silent | split

theorem commitHealth_silent {ρ s : State} (hρ : Silent ρ s) : Silent ρ (commitHealth s) := by
  unfold commitHealth
  repeat' first
    | with_reducible assumption | extract_lets | split | with_reducible refine Silent.upd ?_

theorem execHealthCommit_silent (s : State) : NextSilent s (execHealthCommit s) := by
  have hρ := Silent.refl s
  unfold execHealthCommit
  repeat' first
    | with_reducible assumption | extract_lets | with_reducible apply NextSilent.next | with_reducible apply commitHealth_silent | split

theorem execOverdrivePeriod_silent (waited : Bool) (bgBytes gcShare : Nat) (s : State) :
    NextSilent s (execOverdrivePeriod waited bgBytes gcShare s) := by
  have hρ := Silent.refl s
  unfold execOverdrivePeriod
  repeat' first
    | with_reducible assumption | extract_lets | with_reducible apply NextSilent.next | with_reducible apply setIrq_silent | split
    | with_reducible apply Silent.ite | with_reducible refine Silent.upd ?_

theorem modPort_silent {ρ s : State} (hρ : Silent ρ s) (n : Fin 3) (f : Port → Port) : Silent ρ (modPort s n f) := by
  unfold modPort
  repeat' first
    | with_reducible assumption | extract_lets | split | with_reducible refine Silent.upd ?_

theorem casEvent_silent {ρ s : State} (hρ : Silent ρ s) (bits : BitVec 8) (member : Option Nat) : Silent ρ (casEvent s bits member) := by
  unfold casEvent
  repeat' first
    | with_reducible assumption | extract_lets | with_reducible apply setIrq_silent | split | with_reducible refine Silent.upd ?_

theorem takeTxn_silent {ρ s : State} (hρ : Silent ρ s) : Silent ρ (takeTxn s) := by
  unfold takeTxn
  repeat' first
    | with_reducible assumption | extract_lets | split | with_reducible refine Silent.upd ?_

theorem receive_silent {ρ s : State} (hρ : Silent ρ s) (n : Fin 3) (rx : Rx) : PairSilent ρ (receive s n rx) := by
  unfold receive
  repeat' first
    | with_reducible assumption | extract_lets | with_reducible apply modPort_silent | simp only [PairSilent.mk_iff]
    | with_reducible apply PairSilent.fst | with_reducible refine PairSilent.eq (by assumption) ?_ | split
    | (intro _; intros; beta_reduce) | with_reducible refine Silent.upd ?_

theorem refusePull_silent {ρ s : State} (hρ : Silent ρ s) (p : Packet) : Silent ρ (refusePull s p) := by
  unfold refusePull
  repeat' first
    | with_reducible assumption | extract_lets | with_reducible apply sendPkt_silent | split

theorem relay_silent {ρ s : State} (hρ : Silent ρ s) (n : Fin 3) (p : Packet) : Silent ρ (relay s n p) := by
  unfold relay
  repeat' first
    | with_reducible assumption | extract_lets | with_reducible apply sendPort_silent | with_reducible apply sendPkt_silent
    | with_reducible apply answerEntry_silent | with_reducible apply refusePull_silent | split | (intro _; intros; beta_reduce)
    | with_reducible refine Silent.upd ?_

theorem onPacket_silent {ρ s : State} (hρ : Silent ρ s) (n : Fin 3) (rx : Rx) (type : Nat) (act : State → State)
    (h : ∀ t, Silent ρ t → Silent ρ (act t)) : Silent ρ (onPacket s n rx type act) := by
  unfold onPacket
  extract_lets r s1
  have hr : Silent ρ r.1 := (receive_silent hρ n rx).fst
  have h1 : Silent ρ s1 := freeRx_silent hr _ _
  clear_value s1 r
  split
  · exact hr
  · split
    · exact h1
    · split
      · exact h _ h1
      · exact relay_silent h1 _ _

theorem spanJoin_silent {ρ s : State} (hρ : Silent ρ s) (id : Nat) (r : RosterE) : Silent ρ (spanJoin s id r) := by
  unfold spanJoin
  repeat' first
    | with_reducible assumption | extract_lets | with_reducible apply restoreMember_silent | with_reducible apply modSpan_silent
    | with_reducible apply Silent.foldl | split | (intro _; intros; beta_reduce) | with_reducible refine Silent.upd ?_

theorem sendEnum_silent {ρ s : State} (hρ : Silent ρ s) (id depth : Nat) (rs : List (Nat × Nat)) : Silent ρ (sendEnum s id depth rs) := by
  unfold sendEnum
  repeat' first
    | with_reducible assumption | extract_lets | with_reducible apply sendPkt_silent | with_reducible apply takeTxn_silent | split
    | (intro _; intros; beta_reduce)

theorem writeRoutes_silent {ρ s : State} (hρ : Silent ρ s) (id d pos : Nat) : Silent ρ (writeRoutes s id d pos) := by
  unfold writeRoutes
  repeat' first
    | with_reducible assumption | extract_lets | with_reducible apply sendEnum_silent | with_reducible apply Silent.foldl | split
    | (intro _; intros; beta_reduce) | with_reducible refine Silent.upd ?_

theorem beginAttest_silent {ρ s : State} (hρ : Silent ρ s) (id d pos : Nat) : Silent ρ (beginAttest s id d pos) := by
  unfold beginAttest
  repeat' first
    | with_reducible assumption | extract_lets | with_reducible apply writeRoutes_silent | with_reducible apply takeTxn_silent
    | with_reducible apply sendPkt_silent | split | with_reducible refine Silent.upd ?_

theorem serveJoin_silent {ρ a1 : State} (hρ : Silent ρ a1) (a0 : Nat) : Silent ρ (serveJoin a0 a1) := by
  induction a0 generalizing a1 with
  | zero =>
    rw [serveJoin]
    exact hρ
  | succ fuel ih =>
    rw [serveJoin]
    repeat' first
      | with_reducible assumption | with_reducible apply ih | extract_lets | with_reducible apply beginAttest_silent | split
      | (intro _; intros; beta_reduce) | with_reducible refine Silent.upd ?_

theorem joinAt_silent {ρ s : State} (hρ : Silent ρ s) (d pos : Nat) : Silent ρ (joinAt s d pos) := by
  unfold joinAt
  repeat' first
    | with_reducible assumption | extract_lets | with_reducible apply serveJoin_silent | split | (intro _; intros; beta_reduce)
    | with_reducible refine Silent.upd ?_

theorem enumNext_silent {ρ s : State} (hρ : Silent ρ s) : Silent ρ (enumNext s) := by
  unfold enumNext
  repeat' first
    | with_reducible assumption | extract_lets | with_reducible apply beginAttest_silent | split | with_reducible refine Silent.upd ?_

theorem settleAttest_silent {ρ s : State} (hρ : Silent ρ s) (a : Attest) (answer : Option (List Byte)) :
    Silent ρ (settleAttest s a answer) := by
  unfold settleAttest
  repeat' first
    | with_reducible assumption | extract_lets | with_reducible apply answer_silent | with_reducible apply sendEnum_silent
    | with_reducible apply casEvent_silent | with_reducible apply spanJoin_silent | with_reducible apply enumNext_silent
    | with_reducible apply serveJoin_silent | with_reducible apply resyncAll_silent | split | with_reducible apply Silent.ite
    | (intro _; intros; beta_reduce) | with_reducible refine Silent.upd ?_

theorem startTraining_silent {ρ s : State} (hρ : Silent ρ s) (n : Fin 3) : Silent ρ (startTraining s n) := by
  unfold startTraining
  repeat' first
    | with_reducible assumption | extract_lets | with_reducible apply modPort_silent | with_reducible apply wakeDomain_silent | split
    | (intro _; intros; beta_reduce) | with_reducible refine Silent.upd ?_

theorem execPortTrain_silent (port : Fin 3) (s : State) : NextSilent s (execPortTrain port s) := by
  have hρ := Silent.refl s
  unfold execPortTrain
  repeat' first
    | with_reducible assumption | extract_lets | with_reducible apply NextSilent.next | with_reducible apply startTraining_silent | split

theorem execTrainRetry_silent (port : Fin 3) (s : State) : NextSilent s (execTrainRetry port s) := by
  have hρ := Silent.refl s
  unfold execTrainRetry
  repeat' first
    | with_reducible assumption | extract_lets | with_reducible apply NextSilent.next | with_reducible apply startTraining_silent | split

theorem portUp_silent {ρ s : State} (hρ : Silent ρ s) (n : Fin 3) : Silent ρ (portUp s n) := by
  unfold portUp
  repeat' first
    | with_reducible assumption | extract_lets | with_reducible apply modPort_silent | with_reducible apply joinAt_silent
    | with_reducible apply sendPkt_silent | with_reducible apply takeTxn_silent | split | (intro _; intros; beta_reduce)
    | with_reducible refine Silent.upd ?_

theorem execTrain_silent (port : Fin 3) (role version : Byte) (keystone : Bool) (s : State) :
    NextSilent s (execTrain port role version keystone s) := by
  have hρ := Silent.refl s
  unfold execTrain
  repeat' first
    | with_reducible assumption | extract_lets | with_reducible apply NextSilent.next | with_reducible apply modPort_silent
    | with_reducible apply logEvent_silent | with_reducible apply portUp_silent | split | with_reducible apply Silent.ite
    | (intro _; intros; beta_reduce) | with_reducible refine Silent.upd ?_

theorem execBlockLockAcquired_silent (port : Fin 3) (s : State) : NextSilent s (execBlockLockAcquired port s) := by
  have hρ := Silent.refl s
  unfold execBlockLockAcquired
  repeat' first
    | with_reducible assumption | extract_lets | with_reducible apply NextSilent.next | with_reducible apply modPort_silent | split
    | (intro _; intros; beta_reduce) | with_reducible refine Silent.upd ?_

theorem execBlockLockLost_silent (port : Fin 3) (s : State) : NextSilent s (execBlockLockLost port s) := by
  have hρ := Silent.refl s
  unfold execBlockLockLost
  repeat' first
    | with_reducible assumption | extract_lets | with_reducible apply NextSilent.next | with_reducible apply modPort_silent | split
    | (intro _; intros; beta_reduce) | with_reducible refine Silent.upd ?_

theorem execAck_silent (port : Fin 3) (seq : BitVec 12) (s : State) : NextSilent s (execAck port seq s) := by
  have hρ := Silent.refl s
  unfold execAck
  repeat' first
    | with_reducible assumption | extract_lets | with_reducible apply NextSilent.next | with_reducible apply modPort_silent | split
    | (intro _; intros; beta_reduce) | with_reducible refine Silent.upd ?_

theorem execCredit_silent (port : Fin 3) (ent req rsp : BitVec 16) (s : State) : NextSilent s (execCredit port ent req rsp s) := by
  have hρ := Silent.refl s
  unfold execCredit
  repeat' first
    | with_reducible assumption | extract_lets | with_reducible apply NextSilent.next | with_reducible apply modPort_silent | split
    | (intro _; intros; beta_reduce) | with_reducible refine Silent.upd ?_

theorem execCreditTimer_silent (port : Fin 3) (s : State) : NextSilent s (execCreditTimer port s) := by
  have hρ := Silent.refl s
  unfold execCreditTimer
  repeat' first
    | with_reducible assumption | extract_lets | with_reducible apply NextSilent.next | with_reducible apply modPort_silent | split
    | (intro _; intros; beta_reduce) | with_reducible refine Silent.upd ?_

theorem execEntry_silent (port : Fin 3) (rx : Rx) (s : State) : NextSilent s (execEntry port rx s) := by
  have hρ := Silent.refl s
  unfold execEntry
  repeat' first
    | with_reducible assumption | extract_lets | with_reducible apply NextSilent.next | with_reducible apply receive_silent
    | with_reducible apply freeRx_silent | with_reducible apply answerEntry_silent | with_reducible apply relay_silent
    | simp only [PairSilent.mk_iff] | with_reducible apply PairSilent.fst | with_reducible refine PairSilent.eq (by assumption) ?_
    | split | with_reducible refine Silent.upd ?_

theorem execKeyq_silent (port : Fin 3) (rx : Rx) (s : State) : NextSilent s (execKeyq port rx s) := by
  have hρ := Silent.refl s
  unfold execKeyq
  repeat' first
    | with_reducible assumption | extract_lets | with_reducible apply NextSilent.next | with_reducible apply onPacket_silent
    | with_reducible apply sendPkt_silent | split | (intro _; intros; beta_reduce)

theorem takeEnum_silent {ρ s : State} (hρ : Silent ρ s) (p : Packet) : Silent ρ (takeEnum s p) := by
  unfold takeEnum
  repeat' first
    | with_reducible assumption | extract_lets | with_reducible apply sendPkt_silent | with_reducible apply takeTxn_silent
    | with_reducible apply Silent.foldl | split | with_reducible apply Silent.ite | (intro _; intros; beta_reduce)
    | with_reducible refine Silent.upd ?_

theorem execEnum_silent (port : Fin 3) (rx : Rx) (s : State) : NextSilent s (execEnum port rx s) := by
  have hρ := Silent.refl s
  unfold execEnum
  repeat' first
    | with_reducible assumption | extract_lets | with_reducible apply NextSilent.next | with_reducible apply onPacket_silent
    | with_reducible apply takeEnum_silent | split | (intro _; intros; beta_reduce)

theorem execEnumAck_silent (port : Fin 3) (rx : Rx) (s : State) : NextSilent s (execEnumAck port rx s) :=
  .next (onPacket_silent (Silent.refl s) _ _ _ _ fun _ h => h)

theorem execAttestReq_silent (port : Fin 3) (rx : Rx) (s : State) : NextSilent s (execAttestReq port rx s) := by
  have hρ := Silent.refl s
  unfold execAttestReq
  repeat' first
    | with_reducible assumption | with_reducible apply wakeDomain_silent | extract_lets | with_reducible apply NextSilent.next | with_reducible apply onPacket_silent
    | with_reducible apply sendPort_silent | split | (intro _; intros; beta_reduce)

theorem execAttestRsp_silent (port : Fin 3) (rx : Rx) (s : State) : NextSilent s (execAttestRsp port rx s) := by
  have hρ := Silent.refl s
  unfold execAttestRsp
  repeat' first
    | with_reducible assumption | extract_lets | with_reducible apply NextSilent.next | with_reducible apply onPacket_silent
    | with_reducible apply settleAttest_silent | split | (intro _; intros; beta_reduce) | with_reducible refine Silent.upd ?_

theorem execAttestTimeout_silent (s : State) : NextSilent s (execAttestTimeout s) := by
  have hρ := Silent.refl s
  unfold execAttestTimeout
  repeat' first
    | with_reducible assumption | extract_lets | with_reducible apply NextSilent.next | with_reducible apply settleAttest_silent | split
    | with_reducible refine Silent.upd ?_

theorem execJoin_silent (port : Fin 3) (rx : Rx) (s : State) : NextSilent s (execJoin port rx s) := by
  have hρ := Silent.refl s
  unfold execJoin
  repeat' first
    | with_reducible assumption | extract_lets | with_reducible apply NextSilent.next | with_reducible apply onPacket_silent
    | with_reducible apply joinAt_silent | split | (intro _; intros; beta_reduce) | with_reducible refine Silent.upd ?_

theorem trainPcie_silent {ρ s : State} (hρ : Silent ρ s) : Silent ρ (trainPcie s) := by
  unfold trainPcie
  repeat' first
    | with_reducible assumption | extract_lets | split | with_reducible refine Silent.upd ?_

theorem writeHeld_silent {ρ s : State} (hρ : Silent ρ s) : Silent ρ (writeHeld s) := by
  unfold writeHeld
  repeat' first
    | with_reducible assumption | extract_lets | with_reducible apply setIrq_silent | with_reducible apply Silent.foldl | split
    | (intro _; intros; beta_reduce) | with_reducible refine Silent.upd ?_

theorem execRecoveryStart_silent (s : State) : NextSilent s (execRecoveryStart s) := by
  have hρ := Silent.refl s
  unfold execRecoveryStart
  repeat' first
    | with_reducible assumption | extract_lets | with_reducible apply NextSilent.next | with_reducible apply newSystemArea_silent
    | with_reducible apply setSafe_silent | with_reducible apply refresh_silent | with_reducible apply writeHeld_silent
    | with_reducible apply requestKind_silent | split | with_reducible refine Silent.upd ?_

theorem execFootingCheck_silent (descOk : Bool) (written : List (LunId × Nat)) (s : State) :
    NextSilent s (execFootingCheck descOk written s) := by
  have hρ := Silent.refl s
  unfold execFootingCheck
  repeat' first
    | with_reducible assumption | extract_lets | with_reducible apply NextSilent.next | split | (intro _; intros; beta_reduce)
    | with_reducible refine Silent.upd ?_

theorem execFullService_silent (s : State) : NextSilent s (execFullService s) := by
  have hρ := Silent.refl s
  unfold execFullService
  repeat' first
    | with_reducible assumption | extract_lets | with_reducible apply NextSilent.next | with_reducible apply absorbFooting_silent
    | with_reducible apply refresh_silent | split | with_reducible apply Silent.ite | with_reducible refine Silent.upd ?_

theorem takeFooting_silent {ρ s : State} (hρ : Silent ρ s) (want n : Nat) : Silent ρ (takeFooting want n s) := by
  induction n generalizing s with
  | zero =>
    rw [takeFooting]
    exact hρ
  | succ n ih =>
    rw [takeFooting]
    repeat' first
      | with_reducible assumption | with_reducible apply ih | with_reducible apply setBlk_silent | split

theorem execFootingRebuild_silent (s : State) : NextSilent s (execFootingRebuild s) := by
  have hρ := Silent.refl s
  unfold execFootingRebuild
  repeat' first
    | with_reducible assumption | extract_lets | with_reducible apply NextSilent.next | with_reducible apply takeFooting_silent | split
    | (intro _; intros; beta_reduce) | with_reducible refine Silent.upd ?_

theorem execAutoLock_silent (s : State) : NextSilent s (execAutoLock s) := by
  have hρ := Silent.refl s
  unfold execAutoLock
  repeat' first
    | with_reducible assumption | extract_lets | with_reducible apply NextSilent.next | with_reducible apply refresh_silent
    | with_reducible apply logEvent_silent | split | with_reducible refine Silent.upd ?_

theorem assertWake_silent {ρ s : State} (hρ : Silent ρ s) : Silent ρ (assertWake s) := by
  unfold assertWake
  repeat' first
    | with_reducible assumption | extract_lets | split | with_reducible refine Silent.upd ?_

theorem execPfailDeassert_silent (s : State) : NextSilent s (execPfailDeassert s) := by
  have hρ := Silent.refl s
  unfold execPfailDeassert
  repeat' first
    | with_reducible assumption | extract_lets | with_reducible apply NextSilent.next | split | with_reducible refine Silent.upd ?_

theorem execRailLoss_silent (bank : Fin 4) (s : State) : NextSilent s (execRailLoss bank s) := by
  have hρ := Silent.refl s
  unfold execRailLoss
  repeat' first
    | with_reducible assumption | extract_lets | with_reducible apply NextSilent.next | with_reducible apply takeOffline_silent
    | with_reducible apply Silent.foldl | split | (intro _; intros; beta_reduce) | with_reducible refine Silent.upd ?_

theorem execPresenceChange_silent (present : BitVec 3) (s : State) : NextSilent s (execPresenceChange present s) := by
  have hρ := Silent.refl s
  unfold execPresenceChange
  repeat' first
    | with_reducible assumption | extract_lets | with_reducible apply NextSilent.next | with_reducible apply setIrq_silent
    | with_reducible apply wakeDomain_silent | with_reducible apply assertWake_silent | split | (intro _; intros; beta_reduce)
    | with_reducible refine Silent.upd ?_

theorem execDomainGate_silent (d : Fin 22) (power : Bool) (packets : List Nat) (s : State) :
    NextSilent s (execDomainGate d power packets s) := by
  have hρ := Silent.refl s
  unfold execDomainGate
  repeat' first
    | with_reducible assumption | extract_lets | with_reducible apply NextSilent.next | with_reducible apply Silent.foldl | split
    | with_reducible apply Silent.ite | (intro _; intros; beta_reduce) | with_reducible refine Silent.upd ?_

theorem execDomainWake_silent (d : Fin 22) (packets : List Nat) (s : State) : NextSilent s (execDomainWake d packets s) := by
  have hρ := Silent.refl s
  unfold execDomainWake
  repeat' first
    | with_reducible assumption | extract_lets | with_reducible apply NextSilent.next | with_reducible apply Silent.foldl | split
    | (intro _; intros; beta_reduce) | with_reducible refine Silent.upd ?_

theorem execPerstRelease_silent (s : State) : NextSilent s (execPerstRelease s) := by
  have hρ := Silent.refl s
  unfold execPerstRelease
  repeat' first
    | with_reducible assumption | extract_lets | with_reducible apply NextSilent.next | with_reducible apply trainPcie_silent
    | with_reducible apply releaseWake_silent | split | with_reducible refine Silent.upd ?_

theorem execConfigWrite_silent (change : ConfigChange) (s : State) : NextSilent s (execConfigWrite change s) := by
  have hρ := Silent.refl s
  unfold execConfigWrite
  repeat' first
    | with_reducible assumption | extract_lets | with_reducible apply NextSilent.next | with_reducible apply sendVector_silent
    | with_reducible apply wakeDomain_silent | split | with_reducible apply Silent.ite | with_reducible refine Silent.upd ?_

theorem execMsixTableWrite_silent (offset : BitVec 15) (value : DWord) (wide : Bool) (s : State) :
    NextSilent s (execMsixTableWrite offset value wide s) := by
  have hρ := Silent.refl s
  unfold execMsixTableWrite
  repeat' first
    | with_reducible assumption | extract_lets | with_reducible apply NextSilent.next | split | with_reducible apply Silent.ite
    | with_reducible refine Silent.upd ?_

theorem gateHost_silent {ρ s : State} (hρ : Silent ρ s) (link : LinkState) (m : DomMode) : Silent ρ (gateHost s link m) := by
  unfold gateHost
  repeat' first
    | with_reducible assumption | extract_lets | split | with_reducible refine Silent.upd ?_

theorem execLinkPowerState_silent (pm : LinkPm) (s : State) : NextSilent s (execLinkPowerState pm s) := by
  have hρ := Silent.refl s
  unfold execLinkPowerState
  repeat' first
    | with_reducible assumption | extract_lets | with_reducible apply NextSilent.next | with_reducible apply wakeDomain_silent
    | with_reducible apply gateHost_silent | with_reducible apply assertWake_silent | split | with_reducible refine Silent.upd ?_

theorem masonWord_silent {ρ s : State} (hρ : Silent ρ s) (c : Fin 16) (i : WordIn) : PairSilent ρ (masonWord s c i) := by
  unfold masonWord
  repeat' first
    | with_reducible assumption | extract_lets | with_reducible apply setMason_silent | with_reducible apply commitCandidate_silent
    | simp only [PairSilent.mk_iff] | with_reducible apply PairSilent.fst | with_reducible refine PairSilent.eq (by assumption) ?_
    | split | with_reducible apply Silent.ite | with_reducible refine Silent.upd ?_

theorem masonRun_silent {ρ a1 : State} (hρ : Silent ρ a1) (c : Fin 16) (stopAtSwitch : Bool) (a0 : List WordIn) :
    Silent ρ (masonRun c stopAtSwitch a0 a1) := by
  induction a0 generalizing a1 with
  | nil =>
    rw [masonRun]
    exact hρ
  | cons x xs ih =>
    rw [masonRun]
    repeat' first
      | with_reducible assumption | with_reducible apply ih | with_reducible apply masonWord_silent
      | with_reducible refine PairSilent.eq (by assumption) ?_ | split

theorem execMasonRoutinePost_silent (ch : Fin 16) (routine : Fin 32) (opnds : Vector Word 8) (work : FlashWork) (s : State) :
    NextSilent s (execMasonRoutinePost ch routine opnds work s) := by
  have hρ := Silent.refl s
  unfold execMasonRoutinePost
  repeat' first
    | with_reducible assumption | extract_lets | with_reducible apply NextSilent.next | with_reducible apply startWork_silent
    | with_reducible apply wakeDomain_silent | with_reducible apply setMason_silent | with_reducible exact OptSilent.none
    | with_reducible apply OptSilent.some | with_reducible apply OptSilent.map | with_reducible apply OptSilent.bind
    | with_reducible apply OptSilent.foldl | with_reducible apply OptSilent.getD | with_reducible refine OptSilent.eq (by assumption) ?_
    | split | with_reducible refine Silent.upd ?_

theorem execMasonEvent_silent (ch : Fin 16) (inputs : List WordIn) (s : State) : NextSilent s (execMasonEvent ch inputs s) := by
  have hρ := Silent.refl s
  unfold execMasonEvent
  repeat' first
    | with_reducible assumption | extract_lets | with_reducible apply NextSilent.next | with_reducible apply masonRun_silent | split

theorem execSwitchTaken_silent (ch : Fin 16) (inputs : List WordIn) (s : State) : NextSilent s (execSwitchTaken ch inputs s) := by
  have hρ := Silent.refl s
  unfold execSwitchTaken
  repeat' first
    | with_reducible assumption | extract_lets | with_reducible apply NextSilent.next | with_reducible apply masonRun_silent | split

theorem execMcSwitchTimeout_silent (ch : Fin 16) (s : State) : NextSilent s (execMcSwitchTimeout ch s) := by
  have hρ := Silent.refl s
  unfold execMcSwitchTimeout
  repeat' first
    | with_reducible assumption | extract_lets | with_reducible apply NextSilent.next | with_reducible apply logEvent_silent
    | with_reducible apply setMason_silent | split | with_reducible refine Silent.upd ?_

theorem scrubOne_silent {ρ s : State} (hρ : Silent ρ s) (x : Fin 5 × Bool × BitVec 12) : Silent ρ (scrubOne s x) := by
  unfold scrubOne
  repeat' first
    | with_reducible assumption | extract_lets | with_reducible apply logEvent_silent | split | with_reducible refine Silent.upd ?_

theorem execMcScrub_silent (bad : List (Fin 5 × Bool × BitVec 12)) (s : State) : NextSilent s (execMcScrub bad s) := by
  have hρ := Silent.refl s
  unfold execMcScrub
  repeat' first
    | with_reducible assumption | extract_lets | with_reducible apply NextSilent.next | with_reducible apply scrubOne_silent
    | with_reducible apply Silent.foldl | split | (intro _; intros; beta_reduce) | with_reducible refine Silent.upd ?_

theorem execPfSafe_silent (s : State) : NextSilent s (execPfSafe s) := by
  have hρ := Silent.refl s
  unfold execPfSafe
  repeat' first
    | with_reducible assumption | extract_lets | with_reducible apply NextSilent.next | split | with_reducible refine Silent.upd ?_

theorem execThermalSample_silent (s0 s1 s2 s3 : Int) (s : State) : NextSilent s (execThermalSample s0 s1 s2 s3 s) := by
  have hρ := Silent.refl s
  unfold execThermalSample
  repeat' first
    | with_reducible assumption | extract_lets | with_reducible apply NextSilent.next | with_reducible apply setIrq_silent
    | with_reducible apply assertWake_silent | with_reducible apply tempTrigger_silent | split | with_reducible apply Silent.ite
    | with_reducible refine Silent.upd ?_

theorem execTickCapture_silent (s : State) : NextSilent s (execTickCapture s) := by
  have hρ := Silent.refl s
  unfold execTickCapture
  repeat' first
    | with_reducible assumption | extract_lets | with_reducible apply NextSilent.next | split | with_reducible refine Silent.upd ?_

end Sys2Proof.Machine
end

