-- ==== Sys2Proof/Laws/State.lean ====
section
/-! SUPPORT. The named updates of State, field by field: each changes one component and leaves the others as they are, and what was put
in is read back. No later proof unfolds a record update. -/

namespace Sys2Proof.Machine

/-! ### setJob -/

@[simp] theorem setJob_pins (s : State) (j : Job) : (setJob s j).pins = s.pins := rfl
@[simp] theorem setJob_aon (s : State) (j : Job) : (setJob s j).aon = s.aon := rfl
@[simp] theorem setJob_gbl (s : State) (j : Job) : (setJob s j).gbl = s.gbl := rfl
@[simp] theorem setJob_prot (s : State) (j : Job) : (setJob s j).prot = s.prot := rfl
@[simp] theorem setJob_adm (s : State) (j : Job) : (setJob s j).adm = s.adm := rfl
@[simp] theorem setJob_pwr (s : State) (j : Job) : (setJob s j).pwr = s.pwr := rfl
@[simp] theorem setJob_doms (s : State) (j : Job) : (setJob s j).doms = s.doms := rfl
@[simp] theorem setJob_pcie (s : State) (j : Job) : (setJob s j).pcie = s.pcie := rfl
@[simp] theorem setJob_log (s : State) (j : Job) : (setJob s j).log = s.log := rfl
@[simp] theorem setJob_host (s : State) (j : Job) : (setJob s j).host = s.host := rfl
@[simp] theorem setJob_dram (s : State) (j : Job) : (setJob s j).dram = s.dram := rfl
@[simp] theorem setJob_parts (s : State) (j : Job) : (setJob s j).parts = s.parts := rfl
@[simp] theorem setJob_stage (s : State) (j : Job) : (setJob s j).stage = s.stage := rfl
@[simp] theorem setJob_streams (s : State) (j : Job) : (setJob s j).streams = s.streams := rfl
@[simp] theorem setJob_energy (s : State) (j : Job) : (setJob s j).energy = s.energy := rfl
@[simp] theorem setJob_sys (s : State) (j : Job) : (setJob s j).sys = s.sys := rfl
@[simp] theorem setJob_media (s : State) (j : Job) : (setJob s j).media = s.media := rfl
@[simp] theorem setJob_hmap (s : State) (j : Job) : (setJob s j).hmap = s.hmap := rfl
@[simp] theorem setJob_cal (s : State) (j : Job) : (setJob s j).cal = s.cal := rfl
@[simp] theorem setJob_micro (s : State) (j : Job) : (setJob s j).micro = s.micro := rfl
@[simp] theorem setJob_mover (s : State) (j : Job) : (setJob s j).mover = s.mover := rfl
@[simp] theorem setJob_cas (s : State) (j : Job) : (setJob s j).cas = s.cas := rfl
@[simp] theorem setJob_free (s : State) (j : Job) : (setJob s j).free = s.free := rfl
@[simp] theorem setJob_pending (s : State) (j : Job) : (setJob s j).pending = s.pending := rfl

/-! ### addJob -/

@[simp] theorem addJob_pins (s : State) (j : Job) : (addJob s j).pins = s.pins := rfl
@[simp] theorem addJob_aon (s : State) (j : Job) : (addJob s j).aon = s.aon := rfl
@[simp] theorem addJob_gbl (s : State) (j : Job) : (addJob s j).gbl = s.gbl := rfl
@[simp] theorem addJob_prot (s : State) (j : Job) : (addJob s j).prot = s.prot := rfl
@[simp] theorem addJob_adm (s : State) (j : Job) : (addJob s j).adm = s.adm := rfl
@[simp] theorem addJob_pwr (s : State) (j : Job) : (addJob s j).pwr = s.pwr := rfl
@[simp] theorem addJob_doms (s : State) (j : Job) : (addJob s j).doms = s.doms := rfl
@[simp] theorem addJob_pcie (s : State) (j : Job) : (addJob s j).pcie = s.pcie := rfl
@[simp] theorem addJob_log (s : State) (j : Job) : (addJob s j).log = s.log := rfl
@[simp] theorem addJob_host (s : State) (j : Job) : (addJob s j).host = s.host := rfl
@[simp] theorem addJob_dram (s : State) (j : Job) : (addJob s j).dram = s.dram := rfl
@[simp] theorem addJob_parts (s : State) (j : Job) : (addJob s j).parts = s.parts := rfl
@[simp] theorem addJob_stage (s : State) (j : Job) : (addJob s j).stage = s.stage := rfl
@[simp] theorem addJob_streams (s : State) (j : Job) : (addJob s j).streams = s.streams := rfl
@[simp] theorem addJob_energy (s : State) (j : Job) : (addJob s j).energy = s.energy := rfl
@[simp] theorem addJob_sys (s : State) (j : Job) : (addJob s j).sys = s.sys := rfl
@[simp] theorem addJob_media (s : State) (j : Job) : (addJob s j).media = s.media := rfl
@[simp] theorem addJob_hmap (s : State) (j : Job) : (addJob s j).hmap = s.hmap := rfl
@[simp] theorem addJob_cal (s : State) (j : Job) : (addJob s j).cal = s.cal := rfl
@[simp] theorem addJob_micro (s : State) (j : Job) : (addJob s j).micro = s.micro := rfl
@[simp] theorem addJob_mover (s : State) (j : Job) : (addJob s j).mover = s.mover := rfl
@[simp] theorem addJob_cas (s : State) (j : Job) : (addJob s j).cas = s.cas := rfl
@[simp] theorem addJob_free (s : State) (j : Job) : (addJob s j).free = s.free := rfl
@[simp] theorem addJob_pending (s : State) (j : Job) : (addJob s j).pending = s.pending := rfl

/-! ### modMedia -/

@[simp] theorem modMedia_pins (s : State) (f : Media → Media) : (modMedia s f).pins = s.pins := rfl
@[simp] theorem modMedia_aon (s : State) (f : Media → Media) : (modMedia s f).aon = s.aon := rfl
@[simp] theorem modMedia_gbl (s : State) (f : Media → Media) : (modMedia s f).gbl = s.gbl := rfl
@[simp] theorem modMedia_prot (s : State) (f : Media → Media) : (modMedia s f).prot = s.prot := rfl
@[simp] theorem modMedia_adm (s : State) (f : Media → Media) : (modMedia s f).adm = s.adm := rfl
@[simp] theorem modMedia_pwr (s : State) (f : Media → Media) : (modMedia s f).pwr = s.pwr := rfl
@[simp] theorem modMedia_doms (s : State) (f : Media → Media) : (modMedia s f).doms = s.doms := rfl
@[simp] theorem modMedia_pcie (s : State) (f : Media → Media) : (modMedia s f).pcie = s.pcie := rfl
@[simp] theorem modMedia_log (s : State) (f : Media → Media) : (modMedia s f).log = s.log := rfl
@[simp] theorem modMedia_queues (s : State) (f : Media → Media) : (modMedia s f).queues = s.queues := rfl
@[simp] theorem modMedia_host (s : State) (f : Media → Media) : (modMedia s f).host = s.host := rfl
@[simp] theorem modMedia_dram (s : State) (f : Media → Media) : (modMedia s f).dram = s.dram := rfl
@[simp] theorem modMedia_parts (s : State) (f : Media → Media) : (modMedia s f).parts = s.parts := rfl
@[simp] theorem modMedia_stage (s : State) (f : Media → Media) : (modMedia s f).stage = s.stage := rfl
@[simp] theorem modMedia_streams (s : State) (f : Media → Media) : (modMedia s f).streams = s.streams := rfl
@[simp] theorem modMedia_energy (s : State) (f : Media → Media) : (modMedia s f).energy = s.energy := rfl
@[simp] theorem modMedia_sys (s : State) (f : Media → Media) : (modMedia s f).sys = s.sys := rfl
@[simp] theorem modMedia_hmap (s : State) (f : Media → Media) : (modMedia s f).hmap = s.hmap := rfl
@[simp] theorem modMedia_cal (s : State) (f : Media → Media) : (modMedia s f).cal = s.cal := rfl
@[simp] theorem modMedia_micro (s : State) (f : Media → Media) : (modMedia s f).micro = s.micro := rfl
@[simp] theorem modMedia_mover (s : State) (f : Media → Media) : (modMedia s f).mover = s.mover := rfl
@[simp] theorem modMedia_cas (s : State) (f : Media → Media) : (modMedia s f).cas = s.cas := rfl
@[simp] theorem modMedia_free (s : State) (f : Media → Media) : (modMedia s f).free = s.free := rfl
@[simp] theorem modMedia_pending (s : State) (f : Media → Media) : (modMedia s f).pending = s.pending := rfl

/-! ### modQueue -/

@[simp] theorem modQueue_pins (s : State) (q : Nat) (f : Queue → Queue) : (modQueue s q f).pins = s.pins := rfl
@[simp] theorem modQueue_aon (s : State) (q : Nat) (f : Queue → Queue) : (modQueue s q f).aon = s.aon := rfl
@[simp] theorem modQueue_gbl (s : State) (q : Nat) (f : Queue → Queue) : (modQueue s q f).gbl = s.gbl := rfl
@[simp] theorem modQueue_prot (s : State) (q : Nat) (f : Queue → Queue) : (modQueue s q f).prot = s.prot := rfl
@[simp] theorem modQueue_adm (s : State) (q : Nat) (f : Queue → Queue) : (modQueue s q f).adm = s.adm := rfl
@[simp] theorem modQueue_pwr (s : State) (q : Nat) (f : Queue → Queue) : (modQueue s q f).pwr = s.pwr := rfl
@[simp] theorem modQueue_doms (s : State) (q : Nat) (f : Queue → Queue) : (modQueue s q f).doms = s.doms := rfl
@[simp] theorem modQueue_pcie (s : State) (q : Nat) (f : Queue → Queue) : (modQueue s q f).pcie = s.pcie := rfl
@[simp] theorem modQueue_log (s : State) (q : Nat) (f : Queue → Queue) : (modQueue s q f).log = s.log := rfl
@[simp] theorem modQueue_host (s : State) (q : Nat) (f : Queue → Queue) : (modQueue s q f).host = s.host := rfl
@[simp] theorem modQueue_dram (s : State) (q : Nat) (f : Queue → Queue) : (modQueue s q f).dram = s.dram := rfl
@[simp] theorem modQueue_parts (s : State) (q : Nat) (f : Queue → Queue) : (modQueue s q f).parts = s.parts := rfl
@[simp] theorem modQueue_stage (s : State) (q : Nat) (f : Queue → Queue) : (modQueue s q f).stage = s.stage := rfl
@[simp] theorem modQueue_streams (s : State) (q : Nat) (f : Queue → Queue) : (modQueue s q f).streams = s.streams := rfl
@[simp] theorem modQueue_energy (s : State) (q : Nat) (f : Queue → Queue) : (modQueue s q f).energy = s.energy := rfl
@[simp] theorem modQueue_sys (s : State) (q : Nat) (f : Queue → Queue) : (modQueue s q f).sys = s.sys := rfl
@[simp] theorem modQueue_media (s : State) (q : Nat) (f : Queue → Queue) : (modQueue s q f).media = s.media := rfl
@[simp] theorem modQueue_hmap (s : State) (q : Nat) (f : Queue → Queue) : (modQueue s q f).hmap = s.hmap := rfl
@[simp] theorem modQueue_cal (s : State) (q : Nat) (f : Queue → Queue) : (modQueue s q f).cal = s.cal := rfl
@[simp] theorem modQueue_micro (s : State) (q : Nat) (f : Queue → Queue) : (modQueue s q f).micro = s.micro := rfl
@[simp] theorem modQueue_mover (s : State) (q : Nat) (f : Queue → Queue) : (modQueue s q f).mover = s.mover := rfl
@[simp] theorem modQueue_cas (s : State) (q : Nat) (f : Queue → Queue) : (modQueue s q f).cas = s.cas := rfl
@[simp] theorem modQueue_free (s : State) (q : Nat) (f : Queue → Queue) : (modQueue s q f).free = s.free := rfl
@[simp] theorem modQueue_pending (s : State) (q : Nat) (f : Queue → Queue) : (modQueue s q f).pending = s.pending := rfl

/-! ### answer -/

@[simp] theorem answer_pins (s : State) (fstat : Nat) (d : Nat) (data : List Byte) : (answer s fstat d data).pins = s.pins := rfl
@[simp] theorem answer_gbl (s : State) (fstat : Nat) (d : Nat) (data : List Byte) : (answer s fstat d data).gbl = s.gbl := rfl
@[simp] theorem answer_prot (s : State) (fstat : Nat) (d : Nat) (data : List Byte) : (answer s fstat d data).prot = s.prot := rfl
@[simp] theorem answer_adm (s : State) (fstat : Nat) (d : Nat) (data : List Byte) : (answer s fstat d data).adm = s.adm := rfl
@[simp] theorem answer_pwr (s : State) (fstat : Nat) (d : Nat) (data : List Byte) : (answer s fstat d data).pwr = s.pwr := rfl
@[simp] theorem answer_doms (s : State) (fstat : Nat) (d : Nat) (data : List Byte) : (answer s fstat d data).doms = s.doms := rfl
@[simp] theorem answer_pcie (s : State) (fstat : Nat) (d : Nat) (data : List Byte) : (answer s fstat d data).pcie = s.pcie := rfl
@[simp] theorem answer_log (s : State) (fstat : Nat) (d : Nat) (data : List Byte) : (answer s fstat d data).log = s.log := rfl
@[simp] theorem answer_queues (s : State) (fstat : Nat) (d : Nat) (data : List Byte) : (answer s fstat d data).queues = s.queues := rfl
@[simp] theorem answer_host (s : State) (fstat : Nat) (d : Nat) (data : List Byte) : (answer s fstat d data).host = s.host := rfl
@[simp] theorem answer_dram (s : State) (fstat : Nat) (d : Nat) (data : List Byte) : (answer s fstat d data).dram = s.dram := rfl
@[simp] theorem answer_parts (s : State) (fstat : Nat) (d : Nat) (data : List Byte) : (answer s fstat d data).parts = s.parts := rfl
@[simp] theorem answer_stage (s : State) (fstat : Nat) (d : Nat) (data : List Byte) : (answer s fstat d data).stage = s.stage := rfl
@[simp] theorem answer_streams (s : State) (fstat : Nat) (d : Nat) (data : List Byte) : (answer s fstat d data).streams = s.streams := rfl
@[simp] theorem answer_energy (s : State) (fstat : Nat) (d : Nat) (data : List Byte) : (answer s fstat d data).energy = s.energy := rfl
@[simp] theorem answer_sys (s : State) (fstat : Nat) (d : Nat) (data : List Byte) : (answer s fstat d data).sys = s.sys := rfl
@[simp] theorem answer_media (s : State) (fstat : Nat) (d : Nat) (data : List Byte) : (answer s fstat d data).media = s.media := rfl
@[simp] theorem answer_hmap (s : State) (fstat : Nat) (d : Nat) (data : List Byte) : (answer s fstat d data).hmap = s.hmap := rfl
@[simp] theorem answer_cal (s : State) (fstat : Nat) (d : Nat) (data : List Byte) : (answer s fstat d data).cal = s.cal := rfl
@[simp] theorem answer_micro (s : State) (fstat : Nat) (d : Nat) (data : List Byte) : (answer s fstat d data).micro = s.micro := rfl
@[simp] theorem answer_mover (s : State) (fstat : Nat) (d : Nat) (data : List Byte) : (answer s fstat d data).mover = s.mover := rfl
@[simp] theorem answer_cas (s : State) (fstat : Nat) (d : Nat) (data : List Byte) : (answer s fstat d data).cas = s.cas := rfl
@[simp] theorem answer_free (s : State) (fstat : Nat) (d : Nat) (data : List Byte) : (answer s fstat d data).free = s.free := rfl
@[simp] theorem answer_pending (s : State) (fstat : Nat) (d : Nat) (data : List Byte) : (answer s fstat d data).pending = s.pending := rfl

/-! ### setStream -/

@[simp] theorem setStream_pins (s : State) (key : Nat) (t : Strm) : (setStream s key t).pins = s.pins := rfl
@[simp] theorem setStream_aon (s : State) (key : Nat) (t : Strm) : (setStream s key t).aon = s.aon := rfl
@[simp] theorem setStream_gbl (s : State) (key : Nat) (t : Strm) : (setStream s key t).gbl = s.gbl := rfl
@[simp] theorem setStream_prot (s : State) (key : Nat) (t : Strm) : (setStream s key t).prot = s.prot := rfl
@[simp] theorem setStream_adm (s : State) (key : Nat) (t : Strm) : (setStream s key t).adm = s.adm := rfl
@[simp] theorem setStream_pwr (s : State) (key : Nat) (t : Strm) : (setStream s key t).pwr = s.pwr := rfl
@[simp] theorem setStream_doms (s : State) (key : Nat) (t : Strm) : (setStream s key t).doms = s.doms := rfl
@[simp] theorem setStream_pcie (s : State) (key : Nat) (t : Strm) : (setStream s key t).pcie = s.pcie := rfl
@[simp] theorem setStream_log (s : State) (key : Nat) (t : Strm) : (setStream s key t).log = noteStream s key t := rfl
@[simp] theorem setStream_queues (s : State) (key : Nat) (t : Strm) : (setStream s key t).queues = s.queues := rfl
@[simp] theorem setStream_host (s : State) (key : Nat) (t : Strm) : (setStream s key t).host = s.host := rfl
@[simp] theorem setStream_dram (s : State) (key : Nat) (t : Strm) : (setStream s key t).dram = s.dram := rfl
@[simp] theorem setStream_parts (s : State) (key : Nat) (t : Strm) : (setStream s key t).parts = s.parts := rfl
@[simp] theorem setStream_stage (s : State) (key : Nat) (t : Strm) : (setStream s key t).stage = s.stage := rfl
@[simp] theorem setStream_energy (s : State) (key : Nat) (t : Strm) : (setStream s key t).energy = s.energy := rfl
@[simp] theorem setStream_sys (s : State) (key : Nat) (t : Strm) : (setStream s key t).sys = s.sys := rfl
@[simp] theorem setStream_media (s : State) (key : Nat) (t : Strm) : (setStream s key t).media = s.media := rfl
@[simp] theorem setStream_hmap (s : State) (key : Nat) (t : Strm) : (setStream s key t).hmap = s.hmap := rfl
@[simp] theorem setStream_cal (s : State) (key : Nat) (t : Strm) : (setStream s key t).cal = s.cal := rfl
@[simp] theorem setStream_micro (s : State) (key : Nat) (t : Strm) : (setStream s key t).micro = s.micro := rfl
@[simp] theorem setStream_mover (s : State) (key : Nat) (t : Strm) : (setStream s key t).mover = s.mover := rfl
@[simp] theorem setStream_cas (s : State) (key : Nat) (t : Strm) : (setStream s key t).cas = s.cas := rfl
@[simp] theorem setStream_free (s : State) (key : Nat) (t : Strm) : (setStream s key t).free = s.free := rfl
@[simp] theorem setStream_pending (s : State) (key : Nat) (t : Strm) : (setStream s key t).pending = s.pending := rfl

/-! ### setMov -/

@[simp] theorem setMov_pins (s : State) (c : Fin 32) (m : MovCh) : (setMov s c m).pins = s.pins := rfl
@[simp] theorem setMov_aon (s : State) (c : Fin 32) (m : MovCh) : (setMov s c m).aon = s.aon := rfl
@[simp] theorem setMov_gbl (s : State) (c : Fin 32) (m : MovCh) : (setMov s c m).gbl = s.gbl := rfl
@[simp] theorem setMov_prot (s : State) (c : Fin 32) (m : MovCh) : (setMov s c m).prot = s.prot := rfl
@[simp] theorem setMov_adm (s : State) (c : Fin 32) (m : MovCh) : (setMov s c m).adm = s.adm := rfl
@[simp] theorem setMov_pwr (s : State) (c : Fin 32) (m : MovCh) : (setMov s c m).pwr = s.pwr := rfl
@[simp] theorem setMov_doms (s : State) (c : Fin 32) (m : MovCh) : (setMov s c m).doms = s.doms := rfl
@[simp] theorem setMov_pcie (s : State) (c : Fin 32) (m : MovCh) : (setMov s c m).pcie = s.pcie := rfl
@[simp] theorem setMov_log (s : State) (c : Fin 32) (m : MovCh) : (setMov s c m).log = s.log := rfl
@[simp] theorem setMov_queues (s : State) (c : Fin 32) (m : MovCh) : (setMov s c m).queues = s.queues := rfl
@[simp] theorem setMov_host (s : State) (c : Fin 32) (m : MovCh) : (setMov s c m).host = s.host := rfl
@[simp] theorem setMov_dram (s : State) (c : Fin 32) (m : MovCh) : (setMov s c m).dram = s.dram := rfl
@[simp] theorem setMov_parts (s : State) (c : Fin 32) (m : MovCh) : (setMov s c m).parts = s.parts := rfl
@[simp] theorem setMov_stage (s : State) (c : Fin 32) (m : MovCh) : (setMov s c m).stage = s.stage := rfl
@[simp] theorem setMov_streams (s : State) (c : Fin 32) (m : MovCh) : (setMov s c m).streams = s.streams := rfl
@[simp] theorem setMov_energy (s : State) (c : Fin 32) (m : MovCh) : (setMov s c m).energy = s.energy := rfl
@[simp] theorem setMov_sys (s : State) (c : Fin 32) (m : MovCh) : (setMov s c m).sys = s.sys := rfl
@[simp] theorem setMov_media (s : State) (c : Fin 32) (m : MovCh) : (setMov s c m).media = s.media := rfl
@[simp] theorem setMov_hmap (s : State) (c : Fin 32) (m : MovCh) : (setMov s c m).hmap = s.hmap := rfl
@[simp] theorem setMov_cal (s : State) (c : Fin 32) (m : MovCh) : (setMov s c m).cal = s.cal := rfl
@[simp] theorem setMov_micro (s : State) (c : Fin 32) (m : MovCh) : (setMov s c m).micro = s.micro := rfl
@[simp] theorem setMov_cas (s : State) (c : Fin 32) (m : MovCh) : (setMov s c m).cas = s.cas := rfl
@[simp] theorem setMov_free (s : State) (c : Fin 32) (m : MovCh) : (setMov s c m).free = s.free := rfl
@[simp] theorem setMov_pending (s : State) (c : Fin 32) (m : MovCh) : (setMov s c m).pending = s.pending := rfl

/-! ### modPort -/

@[simp] theorem modPort_pins (s : State) (n : Fin 3) (f : Port → Port) : (modPort s n f).pins = s.pins := rfl
@[simp] theorem modPort_aon (s : State) (n : Fin 3) (f : Port → Port) : (modPort s n f).aon = s.aon := rfl
@[simp] theorem modPort_gbl (s : State) (n : Fin 3) (f : Port → Port) : (modPort s n f).gbl = s.gbl := rfl
@[simp] theorem modPort_prot (s : State) (n : Fin 3) (f : Port → Port) : (modPort s n f).prot = s.prot := rfl
@[simp] theorem modPort_adm (s : State) (n : Fin 3) (f : Port → Port) : (modPort s n f).adm = s.adm := rfl
@[simp] theorem modPort_pwr (s : State) (n : Fin 3) (f : Port → Port) : (modPort s n f).pwr = s.pwr := rfl
@[simp] theorem modPort_doms (s : State) (n : Fin 3) (f : Port → Port) : (modPort s n f).doms = s.doms := rfl
@[simp] theorem modPort_pcie (s : State) (n : Fin 3) (f : Port → Port) : (modPort s n f).pcie = s.pcie := rfl
@[simp] theorem modPort_log (s : State) (n : Fin 3) (f : Port → Port) : (modPort s n f).log = s.log := rfl
@[simp] theorem modPort_queues (s : State) (n : Fin 3) (f : Port → Port) : (modPort s n f).queues = s.queues := rfl
@[simp] theorem modPort_host (s : State) (n : Fin 3) (f : Port → Port) : (modPort s n f).host = s.host := rfl
@[simp] theorem modPort_dram (s : State) (n : Fin 3) (f : Port → Port) : (modPort s n f).dram = s.dram := rfl
@[simp] theorem modPort_parts (s : State) (n : Fin 3) (f : Port → Port) : (modPort s n f).parts = s.parts := rfl
@[simp] theorem modPort_stage (s : State) (n : Fin 3) (f : Port → Port) : (modPort s n f).stage = s.stage := rfl
@[simp] theorem modPort_streams (s : State) (n : Fin 3) (f : Port → Port) : (modPort s n f).streams = s.streams := rfl
@[simp] theorem modPort_energy (s : State) (n : Fin 3) (f : Port → Port) : (modPort s n f).energy = s.energy := rfl
@[simp] theorem modPort_sys (s : State) (n : Fin 3) (f : Port → Port) : (modPort s n f).sys = s.sys := rfl
@[simp] theorem modPort_media (s : State) (n : Fin 3) (f : Port → Port) : (modPort s n f).media = s.media := rfl
@[simp] theorem modPort_hmap (s : State) (n : Fin 3) (f : Port → Port) : (modPort s n f).hmap = s.hmap := rfl
@[simp] theorem modPort_cal (s : State) (n : Fin 3) (f : Port → Port) : (modPort s n f).cal = s.cal := rfl
@[simp] theorem modPort_micro (s : State) (n : Fin 3) (f : Port → Port) : (modPort s n f).micro = s.micro := rfl
@[simp] theorem modPort_mover (s : State) (n : Fin 3) (f : Port → Port) : (modPort s n f).mover = s.mover := rfl
@[simp] theorem modPort_free (s : State) (n : Fin 3) (f : Port → Port) : (modPort s n f).free = s.free := rfl
@[simp] theorem modPort_pending (s : State) (n : Fin 3) (f : Port → Port) : (modPort s n f).pending = s.pending := rfl

/-! ### setMason -/

@[simp] theorem setMason_pins (s : State) (c : Fin 16) (m : Mason) : (setMason s c m).pins = s.pins := rfl
@[simp] theorem setMason_aon (s : State) (c : Fin 16) (m : Mason) : (setMason s c m).aon = s.aon := rfl
@[simp] theorem setMason_gbl (s : State) (c : Fin 16) (m : Mason) : (setMason s c m).gbl = s.gbl := rfl
@[simp] theorem setMason_prot (s : State) (c : Fin 16) (m : Mason) : (setMason s c m).prot = s.prot := rfl
@[simp] theorem setMason_adm (s : State) (c : Fin 16) (m : Mason) : (setMason s c m).adm = s.adm := rfl
@[simp] theorem setMason_pwr (s : State) (c : Fin 16) (m : Mason) : (setMason s c m).pwr = s.pwr := rfl
@[simp] theorem setMason_doms (s : State) (c : Fin 16) (m : Mason) : (setMason s c m).doms = s.doms := rfl
@[simp] theorem setMason_pcie (s : State) (c : Fin 16) (m : Mason) : (setMason s c m).pcie = s.pcie := rfl
@[simp] theorem setMason_log (s : State) (c : Fin 16) (m : Mason) : (setMason s c m).log = s.log := rfl
@[simp] theorem setMason_queues (s : State) (c : Fin 16) (m : Mason) : (setMason s c m).queues = s.queues := rfl
@[simp] theorem setMason_host (s : State) (c : Fin 16) (m : Mason) : (setMason s c m).host = s.host := rfl
@[simp] theorem setMason_dram (s : State) (c : Fin 16) (m : Mason) : (setMason s c m).dram = s.dram := rfl
@[simp] theorem setMason_parts (s : State) (c : Fin 16) (m : Mason) : (setMason s c m).parts = s.parts := rfl
@[simp] theorem setMason_stage (s : State) (c : Fin 16) (m : Mason) : (setMason s c m).stage = s.stage := rfl
@[simp] theorem setMason_streams (s : State) (c : Fin 16) (m : Mason) : (setMason s c m).streams = s.streams := rfl
@[simp] theorem setMason_energy (s : State) (c : Fin 16) (m : Mason) : (setMason s c m).energy = s.energy := rfl
@[simp] theorem setMason_sys (s : State) (c : Fin 16) (m : Mason) : (setMason s c m).sys = s.sys := rfl
@[simp] theorem setMason_media (s : State) (c : Fin 16) (m : Mason) : (setMason s c m).media = s.media := rfl
@[simp] theorem setMason_hmap (s : State) (c : Fin 16) (m : Mason) : (setMason s c m).hmap = s.hmap := rfl
@[simp] theorem setMason_cal (s : State) (c : Fin 16) (m : Mason) : (setMason s c m).cal = s.cal := rfl
@[simp] theorem setMason_mover (s : State) (c : Fin 16) (m : Mason) : (setMason s c m).mover = s.mover := rfl
@[simp] theorem setMason_cas (s : State) (c : Fin 16) (m : Mason) : (setMason s c m).cas = s.cas := rfl
@[simp] theorem setMason_free (s : State) (c : Fin 16) (m : Mason) : (setMason s c m).free = s.free := rfl
@[simp] theorem setMason_pending (s : State) (c : Fin 16) (m : Mason) : (setMason s c m).pending = s.pending := rfl

/-! ### modHealth -/

@[simp] theorem modHealth_pins (s : State) (f : Health → Health) : (modHealth s f).pins = s.pins := rfl
@[simp] theorem modHealth_aon (s : State) (f : Health → Health) : (modHealth s f).aon = s.aon := rfl
@[simp] theorem modHealth_gbl (s : State) (f : Health → Health) : (modHealth s f).gbl = s.gbl := rfl
@[simp] theorem modHealth_prot (s : State) (f : Health → Health) : (modHealth s f).prot = s.prot := rfl
@[simp] theorem modHealth_adm (s : State) (f : Health → Health) : (modHealth s f).adm = s.adm := rfl
@[simp] theorem modHealth_pwr (s : State) (f : Health → Health) : (modHealth s f).pwr = s.pwr := rfl
@[simp] theorem modHealth_doms (s : State) (f : Health → Health) : (modHealth s f).doms = s.doms := rfl
@[simp] theorem modHealth_pcie (s : State) (f : Health → Health) : (modHealth s f).pcie = s.pcie := rfl
@[simp] theorem modHealth_queues (s : State) (f : Health → Health) : (modHealth s f).queues = s.queues := rfl
@[simp] theorem modHealth_host (s : State) (f : Health → Health) : (modHealth s f).host = s.host := rfl
@[simp] theorem modHealth_dram (s : State) (f : Health → Health) : (modHealth s f).dram = s.dram := rfl
@[simp] theorem modHealth_parts (s : State) (f : Health → Health) : (modHealth s f).parts = s.parts := rfl
@[simp] theorem modHealth_stage (s : State) (f : Health → Health) : (modHealth s f).stage = s.stage := rfl
@[simp] theorem modHealth_streams (s : State) (f : Health → Health) : (modHealth s f).streams = s.streams := rfl
@[simp] theorem modHealth_energy (s : State) (f : Health → Health) : (modHealth s f).energy = s.energy := rfl
@[simp] theorem modHealth_sys (s : State) (f : Health → Health) : (modHealth s f).sys = s.sys := rfl
@[simp] theorem modHealth_media (s : State) (f : Health → Health) : (modHealth s f).media = s.media := rfl
@[simp] theorem modHealth_hmap (s : State) (f : Health → Health) : (modHealth s f).hmap = s.hmap := rfl
@[simp] theorem modHealth_cal (s : State) (f : Health → Health) : (modHealth s f).cal = s.cal := rfl
@[simp] theorem modHealth_micro (s : State) (f : Health → Health) : (modHealth s f).micro = s.micro := rfl
@[simp] theorem modHealth_mover (s : State) (f : Health → Health) : (modHealth s f).mover = s.mover := rfl
@[simp] theorem modHealth_cas (s : State) (f : Health → Health) : (modHealth s f).cas = s.cas := rfl
@[simp] theorem modHealth_free (s : State) (f : Health → Health) : (modHealth s f).free = s.free := rfl
@[simp] theorem modHealth_pending (s : State) (f : Health → Health) : (modHealth s f).pending = s.pending := rfl

/-! ### modSpan -/

@[simp] theorem modSpan_pins (s : State) (p : Nat) (f : Span → Span) : (modSpan s p f).pins = s.pins := rfl
@[simp] theorem modSpan_aon (s : State) (p : Nat) (f : Span → Span) : (modSpan s p f).aon = s.aon := rfl
@[simp] theorem modSpan_gbl (s : State) (p : Nat) (f : Span → Span) : (modSpan s p f).gbl = s.gbl := rfl
@[simp] theorem modSpan_prot (s : State) (p : Nat) (f : Span → Span) : (modSpan s p f).prot = s.prot := rfl
@[simp] theorem modSpan_adm (s : State) (p : Nat) (f : Span → Span) : (modSpan s p f).adm = s.adm := rfl
@[simp] theorem modSpan_pwr (s : State) (p : Nat) (f : Span → Span) : (modSpan s p f).pwr = s.pwr := rfl
@[simp] theorem modSpan_doms (s : State) (p : Nat) (f : Span → Span) : (modSpan s p f).doms = s.doms := rfl
@[simp] theorem modSpan_pcie (s : State) (p : Nat) (f : Span → Span) : (modSpan s p f).pcie = s.pcie := rfl
@[simp] theorem modSpan_log (s : State) (p : Nat) (f : Span → Span) : (modSpan s p f).log = s.log := rfl
@[simp] theorem modSpan_queues (s : State) (p : Nat) (f : Span → Span) : (modSpan s p f).queues = s.queues := rfl
@[simp] theorem modSpan_host (s : State) (p : Nat) (f : Span → Span) : (modSpan s p f).host = s.host := rfl
@[simp] theorem modSpan_dram (s : State) (p : Nat) (f : Span → Span) : (modSpan s p f).dram = s.dram := rfl
@[simp] theorem modSpan_parts (s : State) (p : Nat) (f : Span → Span) : (modSpan s p f).parts = s.parts := rfl
@[simp] theorem modSpan_stage (s : State) (p : Nat) (f : Span → Span) : (modSpan s p f).stage = s.stage := rfl
@[simp] theorem modSpan_streams (s : State) (p : Nat) (f : Span → Span) : (modSpan s p f).streams = s.streams := rfl
@[simp] theorem modSpan_energy (s : State) (p : Nat) (f : Span → Span) : (modSpan s p f).energy = s.energy := rfl
@[simp] theorem modSpan_sys (s : State) (p : Nat) (f : Span → Span) : (modSpan s p f).sys = s.sys := rfl
@[simp] theorem modSpan_media (s : State) (p : Nat) (f : Span → Span) : (modSpan s p f).media = s.media := rfl
@[simp] theorem modSpan_hmap (s : State) (p : Nat) (f : Span → Span) : (modSpan s p f).hmap = s.hmap := rfl
@[simp] theorem modSpan_cal (s : State) (p : Nat) (f : Span → Span) : (modSpan s p f).cal = s.cal := rfl
@[simp] theorem modSpan_micro (s : State) (p : Nat) (f : Span → Span) : (modSpan s p f).micro = s.micro := rfl
@[simp] theorem modSpan_mover (s : State) (p : Nat) (f : Span → Span) : (modSpan s p f).mover = s.mover := rfl
@[simp] theorem modSpan_free (s : State) (p : Nat) (f : Span → Span) : (modSpan s p f).free = s.free := rfl
@[simp] theorem modSpan_pending (s : State) (p : Nat) (f : Span → Span) : (modSpan s p f).pending = s.pending := rfl

/-! ### countBus -/

@[simp] theorem countBus_pins (s : State) : (countBus s).pins = s.pins := rfl
@[simp] theorem countBus_aon (s : State) : (countBus s).aon = s.aon := rfl
@[simp] theorem countBus_gbl (s : State) : (countBus s).gbl = s.gbl := rfl
@[simp] theorem countBus_prot (s : State) : (countBus s).prot = s.prot := rfl
@[simp] theorem countBus_adm (s : State) : (countBus s).adm = s.adm := rfl
@[simp] theorem countBus_pwr (s : State) : (countBus s).pwr = s.pwr := rfl
@[simp] theorem countBus_doms (s : State) : (countBus s).doms = s.doms := rfl
@[simp] theorem countBus_pcie (s : State) : (countBus s).pcie = s.pcie := rfl
@[simp] theorem countBus_queues (s : State) : (countBus s).queues = s.queues := rfl
@[simp] theorem countBus_host (s : State) : (countBus s).host = s.host := rfl
@[simp] theorem countBus_dram (s : State) : (countBus s).dram = s.dram := rfl
@[simp] theorem countBus_parts (s : State) : (countBus s).parts = s.parts := rfl
@[simp] theorem countBus_stage (s : State) : (countBus s).stage = s.stage := rfl
@[simp] theorem countBus_streams (s : State) : (countBus s).streams = s.streams := rfl
@[simp] theorem countBus_energy (s : State) : (countBus s).energy = s.energy := rfl
@[simp] theorem countBus_sys (s : State) : (countBus s).sys = s.sys := rfl
@[simp] theorem countBus_media (s : State) : (countBus s).media = s.media := rfl
@[simp] theorem countBus_hmap (s : State) : (countBus s).hmap = s.hmap := rfl
@[simp] theorem countBus_cal (s : State) : (countBus s).cal = s.cal := rfl
@[simp] theorem countBus_micro (s : State) : (countBus s).micro = s.micro := rfl
@[simp] theorem countBus_mover (s : State) : (countBus s).mover = s.mover := rfl
@[simp] theorem countBus_cas (s : State) : (countBus s).cas = s.cas := rfl
@[simp] theorem countBus_free (s : State) : (countBus s).free = s.free := rfl
@[simp] theorem countBus_pending (s : State) : (countBus s).pending = s.pending := rfl

/-! ### Read back -/

@[simp] theorem setMov_mov_self (s : State) (c : Fin 32) (m : MovCh) : (setMov s c m).mov c = m := by
  simp [setMov, State.mov]

theorem setMov_mov_ne (s : State) (c d : Fin 32) (m : MovCh) (h : c ≠ d) : (setMov s c m).mov d = s.mov d := by
  have : c.val ≠ d.val := fun e => h (Fin.ext e)
  simp [setMov, State.mov, Vector.getElem_set, this]

@[simp] theorem setMason_mason_self (s : State) (c : Fin 16) (m : Mason) : (setMason s c m).mason c = m := by
  simp [setMason, State.mason]

theorem setMason_mason_ne (s : State) (c d : Fin 16) (m : Mason) (h : c ≠ d) : (setMason s c m).mason d = s.mason d := by
  have : c.val ≠ d.val := fun e => h (Fin.ext e)
  simp [setMason, State.mason, Vector.getElem_set, this]

@[simp] theorem modMedia_media (s : State) (f : Media → Media) : (modMedia s f).media = f s.media := rfl

@[simp] theorem modHealth_health (s : State) (f : Health → Health) : (modHealth s f).log.health = f s.log.health := rfl

@[simp] theorem modPort_port_self (s : State) (n : Fin 3) (f : Port → Port) : (modPort s n f).cas.ports[n] = f s.cas.ports[n] := by
  simp [modPort]

theorem modPort_port_ne (s : State) (n m : Fin 3) (f : Port → Port) (h : n ≠ m) : (modPort s n f).cas.ports[m] = s.cas.ports[m] := by
  have : n.val ≠ m.val := fun e => h (Fin.ext e)
  simp [modPort, Vector.getElem_set, this]

end Sys2Proof.Machine
end

