-- ==== Sys2Proof/WellFormed.lean ====
section
/-! DEFINITION. Well-formed commands: the bounds that the table gives an operand and its type does not. -/

namespace Sys2Proof

/-- A packet's fields fit the header of Table 19-2, and its payload one packet (R611). -/
def Packet.wf (p : Packet) : Bool :=
  decide (p.type < 256) && decide (p.cls ≤ 2) && decide (p.dest < 4096) && decide (p.src < 4096) && decide (p.txn < 2 ^ 32) &&
  decide (p.seg < 2 ^ 32) && decide (p.payload.length ≤ 4096)

/-- Addresses the master stored to lie in the 64-bit space, and those of the window in its 64 MiB (Table 6-1). -/
def Bus.wf (b : Bus) : Bool := b.stores.all (fun x => decide (x.1 < 2 ^ 64)) && b.winStores.all (fun x => decide (x.1 < 2 ^ 26))

/-- A threshold vector has the four components P1 to P4, each from −64 to +63 (Table 17-1). -/
def Search.wf (x : Search) : Bool := x.p.length == 4 && x.p.all (fun v => decide (-64 ≤ v) && decide (v ≤ 63))

/-- Work for a LUN names a block address of 20 bits (Table 9-4). -/
def FlashWork.wf : FlashWork → Bool
  | FlashWork.none => true
  | .program _ _ _ _ _ _ form => match form with
    | some (_, bs, _) => bs.all (fun b => decide (b.2 < 2 ^ 20))
    | Option.none => true
  | .erase _ b => decide (b < 2 ^ 20)
  | .suspend _ => true

/-- The packet a port receives is well formed. -/
def Rx.wf (r : Rx) : Bool := r.pkt.wf

/-- A well-formed command: every operand within the bounds the spec gives it. -/
def Instr.wf : Instr → Bool
  | .queueScan b => b.wf
  | .entryCrcReread _ _ b => b.wf
  | .read _ _ b _ => b.wf
  | .write _ _ b => b.wf
  | .writeZeroes _ _ b => b.wf
  | .trim _ _ b => b.wf
  | .streamAppend _ _ b => b.wf
  | .streamRead _ _ b _ => b.wf
  | .rawRead _ _ b _ _ => b.wf
  | .identify _ b => b.wf
  | .attest _ b => b.wf
  | .disableQueue _ b => b.wf
  | .createPartition _ b => b.wf
  | .getLog _ b => b.wf
  | .loadProfile _ b => b.wf
  | .loadMicrocode _ b => b.wf
  | .commitFirmware _ b => b.wf
  | .attachMapStore _ b => b.wf
  | .cascadeRoster _ b => b.wf
  | .adoptMedia _ b => b.wf
  | .hmapScrub b => b.wf
  | .moverDescFetch _ b => b.wf
  | .moverBurstDone _ b => b.wf
  | .calTrackRun rs => rs.all (fun r => r.2.1.wf && r.2.2.wf)
  | .masonRoutinePost _ _ _ w => w.wf
  | .entry _ r => r.wf
  | .pull _ r b => r.wf && b.wf
  | .pulldata _ r => r.wf
  | .rdata _ r b => r.wf && b.wf
  | .compl _ r => r.wf
  | .enum _ r => r.wf
  | .enumAck _ r => r.wf
  | .attestReq _ r => r.wf
  | .attestRsp _ r => r.wf
  | .join _ r => r.wf
  | .leave _ r => r.wf
  | .keyq _ r => r.wf
  | .keyrsp _ r => r.wf
  | .footingCheck _ w => w.all (fun b => decide (b.2 < 2 ^ 20))
  | .powerOn | .vaonLoss | .resetAssert | .resetRelease _ _ _ | .strapCompare _ | .coreRelease _ | .pllLockTimeout
  | .firmwareStart _ _ _ | .probe _ _ | .bootWindowEntry | .recoveryStart | .recovered _ _ | .fullService
  | .footingRebuild | .autoLock | .perstAssert | .linkDown | .linkUp _ _ | .flr | .pfailAssert | .vddCoreLow | .sysclkLoss
  | .thermalCritical | .pfSafe | .railLoss _ | .adcSample _ | .ackRelease | .thermalSample _ _ _ _ | .domainGate _ _ _
  | .domainWake _ _ | .tickCapture | .registerWrite _ _ _ | .roReq _ | .haltReq _ _ _ | .softReset _ _ | .irqEnableWrite
  | .irqMaskWrite _ | .bootLockSet | .admqEnable _ | .admqDisable _ | .qinvSlot _ | .qinvAll | .doorbell _ _ | .scanResume _
  | .writeVisible _ _ | .shadowWrite _ | .coalTimeout _ | .flush _ _ | .fence _ _
  | .streamOpen _ _ | .streamMark _ _ | .streamClose _ _ | .streamTransfer _ _ | .createQueue _ | .destroyQueue _
  | .queryQueue _ | .deletePartition _ | .setHold _ | .setTime _ | .setFeature _ | .getFeature _ | .startCalibration _
  | .detachMapStore _ | .cascadeEnumerate _ _ | .sanitize _ _ | .selfTest _ _ | .ashlarTimeout _ _ | .capstoneSigned
  | .retentionCheck | .flashStatusPoll _ _ | .flashResume _ _ | .gcReclaim | .wearLevel | .refresh _ _ _ | .footingFold
  | .dieRelocate | .blockErase | .plinthWrite | .overdrivePeriod _ _ _ | .healthCommit | .calReqTrim _ | .calReqTrack _
  | .calReqHoldup _ | .calTrimRun _ | .calHoldupRun | .holdupDischargeTimeout | .holdupRechargeTimeout
  | .holdupConditionTimeout | .calRepeat _ | .mcSwitch _ | .mcForce _ | .switchTaken _ _ | .mcSwitchTimeout _
  | .machineCheck _ _ _ _ | .mcScrub _ | .masonEvent _ _ | .movStart _ | .movAbort _ | .evtInEdge _ | .moverBurstStart _
  | .evtOutEnd _ | .portTrain _ | .trainRetry _ | .train _ _ _ _ | .ack _ _ | .nak _ _ | .credit _ _ _ _ | .replayTimeout _
  | .creditTimer _ | .leaveDetect _ | .attestTimeout | .mspReadStatus _ _ | .mspReadId _ _ | .readOtp _ _ | .readSnapshot _ _
  | .orderSet _ _ _ | .orderClear _ _ _ | .burn _ _ _ | .mspBadOp _ _ _ | .mspCsRise _ _ | .orderApply | .disagreeTimeout
  | .thermometerBurn _ | .pfailDeassert | .perstRelease | .presenceChange _ | .blockLockAcquired _ | .blockLockLost _
  | .configWrite _ | .msixTableWrite _ _ _ | .linkPowerState _ | .boundaryScanInstruction _ _ _ _ _ _ => true

end Sys2Proof
end

