-- ==== Sys2Proof/Tests/Slice0.lean ====
section
/-! SUPPORT. Own tests: ill-formed terms the checks of WellFormed refuse, the spec's worked examples, and for every statement a witness
that its hypotheses are met together by a concrete state and operands. -/

open Sys2Proof Sys2Proof.Machine Sys2Proof.Claims

namespace Sys2Proof.Tests

set_option Elab.async false

/-! ## Small states -/

/-- A device in PCIe mode at full service, link up, with its own media and no LUN: reset with what start-up has set. -/
def run : State :=
  { State.reset with
    pins := { resetPins with vaon := true, vddCore := true, resetN := true }
    aon := { State.reset.aon with shadow := shippedOtp, policy := some 0x4A1, setInForce := some 0 }
    gbl := { resetGbl with state := .operational, coreOn := true, up := true, strapsCompared := true, recovered := true, fullService := true }
    pcie := { resetPcie with link := .l0, crs := false, mse := true }
    sys := { blankSys with present := true, t6 := true, owner := List.replicate 16 0x20, bootStored := 3, boot := 3 }
    media := { blankMedia with probed := true } }

/-- The same device in PHB mode. -/
def phbRun : State := { run with aon := { run.aon with straps := 2 } }

/-- The device with its always-on logic up and its core in reset. -/
def aonUp : State :=
  { State.reset with pins := { resetPins with vaon := true, vddCore := true }, gbl := { resetGbl with state := .aonReady } }

/-- RESET_N has risen and the straps are compared; CORE is still in reset. -/
def released : State := { aonUp with pins := { aonUp.pins with resetN := true } }

/-- The core runs, the register file does not answer yet. -/
def coreUp : State := { released with gbl := { released.gbl with coreOn := true } }

/-- An entry of 64 bytes by its fields (Table 7-2). -/
def ent (op flags ps lba len attr : Nat) : List Byte :=
  leBytes 1 op ++ leBytes 1 flags ++ leBytes 2 ps ++ leBytes 4 0 ++ leBytes 8 lba ++ leBytes 4 len ++ leBytes 4 attr ++ List.replicate 40 0

/-- An entry of queue `q` that has been judged and may run. -/
def jobOf (q : Nat) (bytes : List Byte) : Job :=
  { q := q, count := 0, bytes := bytes, order := 1, phase := .ready, need := 0, segs := [], data := [], window := false, policy := false
    result := 0, ashlar := 0, mark := 0, origin := none, sglErr := false, detached := false }

/-- A state with one entry in flight. -/
def withJob (s : State) (j : Job) : State := { s with queues := { s.queues with jobs := [j] } }

/-- Nothing happened on the bus. -/
def quietBus : Bus := ⟨[], [], [], []⟩

/-- A bus whose reads of shared memory below 4 GiB fail. -/
def deadBus : Bus := ⟨[], [], [(0, 2 ^ 32)], []⟩

/-- The flash answered every read at once. -/
def quietFlash : FlashRead := ⟨0, 0, 0, [], [], none⟩

/-- A block partition of 512-byte blocks and 1,024 map units, and a stream partition of the same size. -/
def partOf (isStream : Bool) : Part :=
  { isStream := isStream, lbs4k := false, xts := false, tornFill := 0, retainDays := 0, capUnits := 1024
    feat := ⟨4194304, 1000, 16, 0⟩, holds := [], used := [], units := [], keyFleet := none, keyDev := none, maxStream := 0
    receiptSincePlinth := false }

/-- The running device with block partition 1 and stream partition 2. -/
def parted : State := { run with parts := [(1, partOf false), (2, partOf true)] }

/-- An open stream with nothing in it. -/
def emptyStrm (h : Nat) : Strm :=
  { cond := .opened, handle := some h, endOff := 0, commEnd := 0, ackEnd := 0, retain := 0, holds := [], data := [], gaps := [], recs := []
    due := [], running := none, cadence := 0, capEvery := 16, maxSeq := 0, closeUtc := 0, thisBoot := true, inFooting := false
    replay := false, lostBoot := 0, times := [], adoptFrom := none, src := none }

/-- Stream 7 of partition 2 is open under handle 0. -/
def streaming : State :=
  { parted with
    parts := [(1, partOf false), (2, { partOf true with maxStream := 7 })]
    streams := { resetStreams with tbl := [(2 * 65536 + 7, emptyStrm 0)] } }

/-- An I/O queue of 64 entries at 0x10000 with its shadow behind it. -/
def queueOf : Queue :=
  { resetAdmq with enabled := true, p := { resetAdmq.p with base := 0x10000, shadow := 0x11000, depthLog2 := 6 } }

/-- The running device with I/O queue 9. -/
def queued : State := { parted with queues := { resetQueues with qs := [(0, resetAdmq), (9, queueOf), (4096, resetCasq)] } }

/-- Four LUNs, each on its target, on each of the first `n` channels, under the library profile. -/
def withLuns (s : State) (n : Nat) : State :=
  { s with media := { s.media with
      bound := (List.range n).map (fun c => (c, libraryProfile))
      luns := (List.range n).flatMap (fun c => (List.range 4).map (fun l =>
        (c * 32 + 4 * l, { id := 0, failed := false, op := .idle, since := 0, suspended := false, suspends := 0, ran := 0, waiting := 0, faults := [] })))
      chPresent := BitVec.ofNat 16 (2 ^ n - 1) } }

/-- A Mason's store with the reset image in bank 0, and its four LUNs. -/
def masonUp : State :=
  let s := withLuns run 1
  { s with micro := { s.micro with bank0 := some idleUcode } }

/-- A device of a cascade with port 0 up. -/
def casUp : State :=
  { run with
    aon := { run.aon with rails := { resetRails with cas := true } }
    pins := { run.pins with present := 7 }
    cas := { resetCas with ports := Vector.replicate 3 { resetPort with trained := true, blockLock := true } } }

/-- The Keystone of a cascade. -/
def keyUp : State := { casUp with aon := { casUp.aon with straps := 4 }, cas := { casUp.cas with enumerated := true } }

/-- A packet as a port receives it first. -/
def rxOf (type cls : Nat) (payload : List Byte) : Rx := ⟨0, true, false, ⟨type, cls, true, 0, 5, 9, 0, payload⟩⟩

/-! ## Well-formedness -/

/-- A packet that every check accepts. -/
def goodPkt : Packet := ⟨1, 0, true, 1, 2, 3, 0, []⟩

theorem test_wf_packet : goodPkt.wf = true ∧ { goodPkt with type := 256 }.wf = false ∧ { goodPkt with cls := 3 }.wf = false ∧
    { goodPkt with dest := 4096 }.wf = false ∧ { goodPkt with src := 4096 }.wf = false ∧ { goodPkt with txn := 2 ^ 32 }.wf = false ∧
    { goodPkt with seg := 2 ^ 32 }.wf = false ∧ { goodPkt with payload := List.replicate 4097 0 }.wf = false := by decide +kernel

theorem test_wf_operands : (Instr.entry 0 ⟨0, true, false, { goodPkt with type := 256 }⟩).wf = false ∧
    (Instr.queueScan ⟨[(2 ^ 64, 0)], [], [], []⟩).wf = false ∧ (Instr.queueScan ⟨[], [(2 ^ 26, 0)], [], []⟩).wf = false ∧
    (Instr.calTrackRun [(0, ⟨[0, 0, 0], true⟩, ⟨[0, 0, 0, 0], true⟩)]).wf = false ∧
    (Instr.calTrackRun [(0, ⟨[0, 0, 0, 0], true⟩, ⟨[0, 0, 0, 64], true⟩)]).wf = false ∧
    (Instr.masonRoutinePost 0 1 (Vector.replicate 8 0) (.erase ⟨0, 0, 0⟩ (2 ^ 20))).wf = false ∧
    (Instr.masonRoutinePost 0 1 (Vector.replicate 8 0) (.erase ⟨0, 0, 0⟩ (2 ^ 20 - 1))).wf = true ∧
    (Instr.masonRoutinePost 0 1 (Vector.replicate 8 0)
      (.program ⟨0, 0, 0⟩ 1 0 0 true [] (some (.hot, [(⟨0, 0, 0⟩, 2 ^ 20)], 0)))).wf = false := by decide +kernel

theorem test_no_row_gives_bits : ∀ n w, decodeTableWord n w = none := fun _ _ => rfl

/-! ## Worked examples of the spec -/

/-- Chapter 7: the CRC of the nine ASCII bytes "123456789" is 0x29B1. -/
theorem test_crc16 : crc16 (leBytes 9 0x393837363534333231) = 0x29B1 := by decide +kernel

/-- Chapter 9: the parameters of CREATE_QUEUE with LENGTH 0x0204_08A6 and ATTR 0x0014_1009. -/
theorem test_queue_params : let p := queueParams (ent 0x82 0 9 0x4000100000 0x020408A6 0x00141009)
    p.base = 0x4000100000 ∧ p.depthLog2 = 6 ∧ p.cacheMode = false ∧ p.crcReq = true ∧ p.irqEn = true ∧ p.faultHalt = false ∧
    p.prefetch = 8 ∧ p.weight = 4 ∧ p.burst = 2 ∧ p.vector = 9 ∧ p.coalCount = 4 ∧ p.coalTime = 5 := by decide +kernel

/-- Chapter 6, step 2: at tick 0x10_4A7C BOOT_LOCK reads 0x03A4_0000. -/
theorem test_boot_lock : ({ run with gbl := { run.gbl with tick := 0x104A7C } } : State).readReg 0x030 = 0x03A40000 := by decide +kernel

/-- Chapter 6, step 3: ADMQ_CFG = 0x0001_1028 enables the queue and reads back as written. -/
theorem test_admq_cfg : ∃ t, exec (.admqEnable 0x00011028)
    { run with adm := { run.adm with baseLo := 0x34567000, baseHi := 0x12, shadowLo := 0x3456B000, shadowHi := 0x12 } } = .next t ∧
    t.readReg 0x050 = 0x00011028 := ⟨_, rfl, by decide +kernel⟩

/-- Chapter 6, steps 4 and 5: PROT_QPART_MASK written after LOCK is ignored, and PROT_VIOLATIONS reads 0x0038_0001. -/
theorem test_late_write : ∃ t, exec (.registerWrite 0x038 0xFFFFFFFF 0xF)
    { run with gbl := { run.gbl with lock := true }, prot := { run.prot with qpartSel := 5, qpart := [(5, 9)] } } = .next t ∧
    t.readReg 0x038 = 9 ∧ t.readReg 0x044 = 0x00380001 ∧ t.gbl.irqStatus.getLsbD 10 = true := ⟨_, rfl, by decide +kernel⟩

/-- Chapter 6, step 6: 340 quarters of a degree at step 0 with a peak of 87 °C read 0x0057_0154. -/
theorem test_temp : ({ run with gbl := { run.gbl with tj := 340, tjPeak := 87 } } : State).readReg 0x02C = 0x00570154 := by decide +kernel

/-- Chapter 17: the two measured capacitances, and the value applied with HOLD_USER_PCT −3. -/
theorem test_hold_up_capacitance : capOf 10000 3200 19860 = some 3872 ∧ capOf 10000 3200 19810 = some 3862 ∧ capsAgree 3872 3862 = true := by
  decide +kernel

/-- Chapter 18: FUNNEL splits 100 bytes from …3006 into 2, 8, 16, 32, 32, 8 and 2 bytes; EDGE writes it as one burst. -/
theorem test_funnel_split : funnelSplit 4096 0x306A 10 0x3006 =
    [(0x3006, 2), (0x3008, 8), (0x3010, 16), (0x3020, 32), (0x3040, 32), (0x3060, 8), (0x3068, 2)] ∧
    burstLen true 4096 0x3006 0x306A = 100 := by decide +kernel

/-- Chapter 16: the safe polling word and its parity byte. -/
theorem test_microword : let w : BitVec 128 := 0x80E830C5400000000000000084000000#128
    wordParity w = 0xA0 ∧ wSpid w = 0x21 ∧ wBrN w = 3 ∧ wSel w 0 = 3 ∧ wSel w 1 = 5 ∧ wSel w 2 = 16 := by decide +kernel

/-- Chapter 20: the fields of the integrator's Settings Record, read from its words. -/
theorem test_settings_record : let r := leBytes 8 0x005A04A107D00701 ++ leBytes 8 0x00000C8000001388 ++ leBytes 8 0x753002FD0A5505DC ++ leBytes 40 0
    let s : State := { run with aon := { run.aon with setRec := r } }
    s.windowMs = 2000 ∧ (resetProt r).policy = 0x4A1 ∧ (resetProt r).retainMin = 90 ∧ s.vholdRatio = 5000 ∧ s.vholdMin = 3200 ∧
    s.vholdTrip = 0 ∧ s.boardMw = 1500 ∧ s.convEff = 85 ∧ s.holdMargin = 10 ∧ s.calPin = some 2 := by decide +kernel

/-- Chapter 12: 16 channels of four LUNs, four codes of 3,200, CAP 400 and 4 program units of filler give H = 40,168,560 and
HORIZON 9,806; with CAP 374 HORIZON is 9,146 (chapter 17). -/
def horizonState (cap : Nat) : State :=
  let s := withLuns run 16
  { s with
    aon := { s.aon with setRec := leBytes 8 0x005A04A107D00701 ++ leBytes 8 0x00000C8000001388 ++ leBytes 8 0x753002FD0A5505DC ++ leBytes 40 0 }
    gbl := { s.gbl with tj := 280 }
    energy := { s.energy with samples := [3200, 3210, 3205, 3201], cap := cap }
    stage := { resetStage with writes := [⟨1, 1, 9, 0, 4096, false, true, 0, 8, [(.unit 0 true [], false)]⟩] }
    media := { s.media with courses := [(1, ⟨.hot, [0], 0, [5], 10, [(0, 0, [.unit 1 0 1])], true, 0⟩)] } }
theorem test_horizon : (horizonState 400).horizonOf (horizonState 400).vhNum = 40168560 := by decide +kernel
theorem test_horizon_recalibrated : (horizonState 374).horizonOf (horizonState 374).vhNum / 4096 = 9146 := by decide +kernel

/-- Chapter 21: the LOST_ACK entry's bytes 24 to 55. -/
theorem test_lost_ack_entry : ∃ e, (logEvent { run with gbl := { run.gbl with tick := 301044 } } logLostAck
      [(0, 1, 1), (1, 1, 0), (4, 8, 1000010), (12, 8, 6), (20, 8, 517)]).log.entries = [e] ∧
    (entryBytes e).drop 24 = [1, 0, 2, 0, 1, 0, 0, 0] ++ leBytes 8 0xF424A ++ leBytes 8 6 ++ leBytes 8 0x205 ++ leBytes 8 0 :=
  ⟨_, rfl, by decide +kernel⟩

/-! ## Witnesses: hypotheses that a concrete state and operands meet together -/

theorem witness_IdleStepCountsTick : State.reset.pending = [] ∧ State.reset.ticking = false ∧ run.pending = [] ∧ run.ticking = true := by
  decide +kernel

theorem witness_StepKeepsInv : StateInv run ∧ ∃ t, step { run with pending := [.bootLockSet] } = .next t := ⟨⟨rfl, rfl, by decide⟩, _, rfl⟩

theorem witness_OtpBitsNeverClear : ∃ t, step { aonUp with pending := [.vaonLoss] } = .next t := ⟨_, rfl⟩

/-- A locked device that is HALTED and FAILED in a power-fail sequence. -/
def stoppedState : State :=
  { run with
    gbl := { run.gbl with halted := true, failed := true, lock := true, halt := ⟨0x02, 0⟩ }
    energy := { run.energy with pfSeq := true } }

theorem witness_FirstCauseAndLockLast : isReset (.softReset false false) = false ∧ stoppedState.gbl.halt.cause ≠ 0 ∧
    stoppedState.gbl.lock = true ∧ ∃ t, exec (.softReset false false) stoppedState = .next t := ⟨rfl, by decide, rfl, _, rfl⟩

theorem witness_StopsLastUntilReset : stoppedState.gbl.halted = true ∧ stoppedState.gbl.failed = true ∧ stoppedState.energy.pfSeq = true ∧
    isReset .flr = false ∧ ∃ t, exec .flr stoppedState = .next t := ⟨rfl, rfl, rfl, rfl, _, rfl⟩

theorem witness_QueueKeptAndLogSequenceGrows : ∃ t, exec .resetAssert { run with pending := [.flr] } = .next t := ⟨_, rfl⟩

theorem witness_EntryAndMediaFrame : isQuiet .blockErase = true ∧ ∃ t, exec .blockErase run = .next t := ⟨rfl, _, rfl⟩

theorem witness_StoresNothingFrame : storesNothing .plinthWrite = false ∧ storesNothing .blockErase = true ∧
    ∃ t, exec .blockErase run = .next t := ⟨rfl, rfl, _, rfl⟩

theorem witness_PowerOnResult : State.reset.pins.vaon = false := rfl

theorem witness_VaonLossResult : aonUp.pins.vaon = true ∧ (∀ w v fs d, aonUp.aon.frame ≠ some ⟨some (w, v), fs, d⟩) ∧
    ({ aonUp with aon := { aonUp.aon with frame := some ⟨some (0x5F, 1), 0, []⟩ } } : State).aon.frame =
      some ⟨some ((0x5F : Fin 256).val, 1), 0, []⟩ := ⟨rfl, (by intro w v fs d h; cases h), rfl⟩

theorem witness_ResetAssertScope : aonUp.pins.vaon = true := rfl

/-- Rails of a board in PCIe mode with banks A and B at 1.2 V, and of one with PE_AVDDH missing. -/
def goodRails : RailLevels := ⟨1200, 1200, 0, 0, 0, 900, 1800, 1100, 600, 0⟩
def noAvddh : RailLevels := { goodRails with peAvddh := 0 }

theorem witness_ResetReleaseResult : aonUp.pins.vaon = true ∧ aonUp.pins.resetN = false ∧ aonUp.pins.deferredRise = false ∧
    scanHolds aonUp.pins.jtag = false ∧ aonUp.gbl.coreOn = false ∧ aonUp.gbl.halt.cause = 0 ∧
    missingRail 0 (classify 0 goodRails) = none ∧ missingRail 0 (classify 0 noAvddh) = some 3 := by decide +kernel

/-- A rise of RESET_N is deferred under EXTEST. -/
def deferred : State := { aonUp with pins := { aonUp.pins with jtag := 0, deferredRise := true } }

theorem witness_ScanDefersReset : (let s : State := { aonUp with pins := { aonUp.pins with jtag := 0 } }
    s.pins.vaon = true ∧ s.pins.resetN = false ∧ s.pins.deferredRise = false ∧ s.pins.jtag = 0) ∧
    (some (15 : BitVec 4) = some 15 ∧ deferred.pins.deferredRise = true ∧ deferred.gbl.coreOn = false) := by decide +kernel

theorem witness_StrapsAndScanResult : released.pins.vaon = true ∧ released.pins.resetN = true ∧ released.gbl.strapsCompared = false ∧
    (0 : BitVec 8) = released.aon.straps ∧ (1 : BitVec 8) ≠ released.aon.straps ∧ released.gbl.halt.cause = 0 ∧
    released.gbl.coreOn = false ∧ released.pins.deferredRise = false ∧ aonUp.pins.deferredRise = false ∧
    (aonUp.railUp (Sig.pwrSafe).rail = true ∧ aonUp.pins.resetN = false ∧ scanHolds aonUp.pins.jtag = false) ∧
    (let s : State := { aonUp with pins := { aonUp.pins with jtag := 5 } }
     s.railUp (Sig.pwrSafe).rail = true ∧ s.pins.resetN = false ∧ s.pins.jtag = 5) ∧
    State.reset.railUp (Sig.pwrSafe).rail = false := by decide +kernel

theorem witness_CoreReleaseResult : released.pins.vaon = true ∧ released.pins.resetN = true ∧ released.gbl.coreOn = false ∧
    released.gbl.failed = false ∧ released.pins.vddCore = true ∧ released.pins.pfailN = true ∧ released.gbl.halt.cause = 0 ∧
    (let s : State := { released with pins := { released.pins with pfailN := false } }
     s.gbl.coreOn = false ∧ s.pins.vddCore = true ∧ s.pins.pfailN = false) := by decide +kernel

/-- The two firmware slots as given, over the reset state's OTP. -/
def slots (a b : Option FwSlot) : State := { coreUp with sys := { coreUp.sys with fwA := a, fwB := b } }
def fw1 : FwSlot := ⟨0x0301, 0, true⟩
def fw2 : FwSlot := ⟨0x0302, 0, true⟩

theorem witness_FirmwareStartResult : coreUp.gbl.coreOn = true ∧ coreUp.gbl.failed = false ∧ coreUp.gbl.up = false ∧
    coreUp.media.probed = false ∧ coreUp.energy.pfSeq = false ∧ coreUp.gbl.halt.cause = 0 ∧
    slotGood (slots (some fw1) (some fw2)) (some fw1) = some fw1 ∧ slotGood (slots (some fw1) (some fw2)) (some fw2) = some fw2 ∧
    slotGood (slots (some fw1) none) none = none ∧ slotGood (slots none (some fw2)) (some fw2) = some fw2 ∧
    (true && false && true) = false := by decide +kernel

/-- What the probe finds: `n` LUNs on channel 0. -/
def found (n : Nat) : List (LunId × DWord) := (List.range n).map (fun l => (⟨0, Fin.ofNat 8 l, 0⟩, 1))

/-- Banks A to D are present. -/
def banked : State := { coreUp with aon := { coreUp.aon with rails := { resetRails with bankPresent := 15 } } }

theorem witness_ProbeResult : banked.gbl.coreOn = true ∧ banked.gbl.failed = false ∧ banked.gbl.up = false ∧
    banked.media.probed = false ∧ banked.energy.pfSeq = false ∧ banked.sys.stored ≠ none ∧ banked.gbl.halt.cause = 0 ∧
    4 ≤ (probeAll banked (found 4)).media.luns.length ∧ (probeAll banked (found 4)).media.chPresent.getLsbD (7 - 6) = false ∧
    (probeAll banked (found 3)).media.luns.length < 4 ∧
    ({ banked with sys := { banked.sys with stored := none } } : State).sys.stored = none := by decide +kernel

/-- The media are probed; the register file does not answer yet. `k` is the Keystone strap. -/
def beforeWindow (k : BitVec 8) : State :=
  { coreUp with media := { coreUp.media with probed := true }, aon := { coreUp.aon with straps := k } }

theorem witness_BootWindowEntryResult : let s := beforeWindow 4
    s.gbl.coreOn = true ∧ s.gbl.failed = false ∧ s.gbl.up = false ∧ s.media.probed = true ∧ s.energy.pfSeq = false ∧
    s.pins.vaon = true ∧ s.pins.resetN = true ∧ s.gbl.halted = false ∧ s.gbl.lock = false ∧ s.aon.reqCh = 0 ∧ s.aon.reqFlags = 0 ∧
    s.keystone = true := by decide +kernel

/-- The register file answers, recovery has not begun. -/
def atT5 (present : Bool) (owner : List Byte) : State :=
  { run with
    gbl := { run.gbl with recovered := false, fullService := false }
    sys := { run.sys with t6 := false, present := present, owner := owner } }

theorem witness_RecoveryStartResult : let own := atT5 true (List.replicate 16 0x20)
    own.gbl.up = true ∧ own.gbl.failed = false ∧ own.sys.t6 = false ∧ own.energy.pfSeq = false ∧ own.sys.present = true ∧
    own.sys.owner = own.serial ∧ (atT5 true (List.replicate 16 1)).sys.owner ≠ (atT5 true (List.replicate 16 1)).serial ∧
    (atT5 false []).sys.present = false := by decide +kernel

/-- t6 has passed on a device with a stream partition and four LUNs; the Footing is undecided. -/
def atT6 : State :=
  let s := withLuns run 1
  { s with
    gbl := { s.gbl with recovered := false, fullService := false }
    sys := { s.sys with fMax := 512 }
    media := { s.media with blocks := [(5, ⟨.footing, 0, 0⟩)] }
    parts := [(2, partOf true)] }

theorem witness_FootingAndRecoveryResult : atT6.sys.t6 = true ∧ atT6.media.footDecided = false ∧ atT6.stopped = false ∧
    atT6.gbl.fullService = false ∧ atT6.energy.pfSeq = false ∧ run.sys.fMax = 0 ∧ atT6.media.foreign = false ∧
    atT6.readOnlyCond = false ∧ atT6.sys.fMax ≠ 0 ∧ atT6.parts.any (fun p => p.2.isStream) = true ∧ atT6.gbl.recovered = false ∧
    atT6.gbl.failed = false ∧ atT6.footMibOf atT6.footBlocks.length ≠ 0 ∧ run.footMibOf run.footBlocks.length = 0 := by decide +kernel

/-- LOCK is set and recovery is over. -/
def atLock : State := { run with gbl := { run.gbl with lock := true, fullService := false } }

theorem witness_FullServiceResult : (atLock.gbl.lock = true ∧ atLock.gbl.recovered = true ∧ atLock.gbl.fullService = false ∧
      atLock.stopped = false ∧ atLock.energy.pfSeq = false) ∧
    (parted.gbl.fullService = true ∧ parted.media.foreign = false ∧ parted.parts.any (fun p => p.2.isStream) = true ∧
      parted.energy.pfSeq = false ∧ parted.stopped = false) ∧
    (let s : State := { parted with stage := { resetStage with writes := [⟨1, 1, 9, 0, 4096, false, true, 0, 8, [(.unit 0 true [], false)]⟩] } }
     let s := withLuns { s with sys := { s.sys with ySys := 4096 } } 1
     s.gbl.fullService = true ∧ s.parts.any (fun p => p.2.isStream) = true ∧ s.stopped = false ∧ s.hostNeeds = true ∧ s.quarry < s.qLow) ∧
    (run.gbl.coreOn = true ∧ run.gbl.lock = false ∧ run.sys.t6 = true ∧ run.media.foreign = false ∧ run.energy.pfSeq = false) := by
  decide +kernel

theorem witness_PhbIgnoresPerst : phbRun.phb = true := by decide +kernel

theorem witness_LinkResult : run.phb = false ∧ run.gbl.coreOn = true ∧ run.pcie.orphan = false ∧ run.pcie.link ≠ .down ∧
    run.pins.perstN = true ∧ run.linkUp = true := by decide +kernel

theorem witness_HostResetScope : (1 : Fin 3) ≠ 0 ∧ stoppedState.gbl.halted = true ∧ stoppedState.gbl.failed = true := by decide

theorem witness_PcieFunctionResult : run.phb = false ∧ run.gbl.coreOn = true ∧ run.linkUp = true ∧ run.pcie.crs = false ∧
    run.hostAccess = true ∧ (0x3FF8 : BitVec 15).toNat < 0x4000 ∧ (0x3FF8 : BitVec 15).toNat % 8 = 0 ∧
    (0x3FFE : BitVec 15).toNat % 4 ≠ 0 ∧ (0x3FFE : BitVec 15).toNat < 0x4000 ∧ run.pcie.orphan = false ∧ run.pcie.link ≠ .down := by
  decide +kernel

/-- The power-fail sequence has begun and nothing is left to program. -/
def failing : State := { run with energy := { run.energy with pfSeq := true }, pins := { run.pins with pfailN := false } }

theorem witness_PfailHighSequenceGoesOn : failing.energy.pfSeq = true ∧ failing.energy.parked = false ∧ failing.flashQuiet = true ∧
    failing.promisesOver = true := by decide +kernel

theorem witness_SecondStartEventHasNoEffect : failing.energy.pfSeq = true ∧ failing.pins.vaon = true := by decide +kernel

theorem witness_PowerFailStartAndParkResult : run.gbl.coreOn = true ∧ run.energy.pfSeq = false ∧ run.pins.vaon = true ∧
    run.pins.pfailN = true ∧ run.gbl.clockLost = false ∧ run.gbl.halt.cause = 0 ∧ run.gbl.failed = false ∧ run.gbl.thermStep ≠ 5 ∧
    (let s : State := { run with pins := { run.pins with pfailN := false } }
     s.gbl.coreOn = true ∧ s.energy.pfSeq = false ∧ s.pins.pfailN = false) ∧
    failing.energy.pfSeq = true ∧ failing.energy.parked = false ∧ failing.flashQuiet = true ∧ failing.promisesOver = true := by
  decide +kernel

theorem witness_RailsAndPresenceResult : (let s : State := { run with aon := { run.aon with rails := { resetRails with bankPresent := 8 } } }
      s.gbl.coreOn = true ∧ s.aon.rails.bankPresent.getLsbD (3 : Fin 4).val = true ∧ s.gbl.failed = false) ∧
    ((withLuns run 16).media.chPresent.getLsbD 15 = true ∧ 15 < 16) ∧
    (let s : State := { casUp with pins := { casUp.pins with present := 2 } }
     s.gbl.coreOn = true ∧ s.aon.rails.cas = true ∧ (5 : BitVec 3) ≠ s.pins.present ∧ s.phb = false ∧
     (5 : BitVec 3) &&& ~~~s.pins.present ≠ 0 ∧ (let p : BitVec 3 := 3; (s.pins.present ^^^ p).getLsbD (1 : Fin 3).val = false)) ∧
    run.aon.rails.cas = false := by decide +kernel

theorem witness_SampleResult : run.gbl.coreOn = true := rfl

theorem witness_DomainResult : run.gbl.coreOn = true ∧
    (let s : State := { run with doms := Vector.replicate 22 (idleDomain .on) }
     s.gbl.coreOn = true ∧ s.doms[(21 : Fin 22)].mode = .on ∧ s.doms[(21 : Fin 22)].parked = [] ∧ mayGate s 21 true = true ∧
     mayGate s 21 false = true ∧ s.energy.pfSeq = false) ∧
    (let s : State := { run with doms := Vector.replicate 22 { idleDomain .powerGated with fenceClosed := true, parked := List.replicate 31 0 } }
     s.gbl.coreOn = true ∧ s.doms[(0 : Fin 22)].mode ≠ .offUntilReset ∧ s.doms[(0 : Fin 22)].parked ≠ [] ∧
     s.doms[(0 : Fin 22)].stalled = [] ∧ (s.doms[(0 : Fin 22)].parked ++ [7]).length ≤ 32) ∧
    (let s : State := { run with doms := Vector.replicate 22 (idleDomain .offUntilReset) }
     s.gbl.coreOn = true ∧ s.doms[(6 : Fin 22)].mode = .offUntilReset) := by decide +kernel

theorem witness_ReservedOffsetsReadZero : 0x0D4 ≤ (0x0D4 : BitVec 12).toNat ∧ 0x0D4 ≤ (0xFFF : BitVec 12).toNat ∧ run.gbl.up = true := by
  decide

theorem witness_RegisterWriteResult : (7 : BitVec 4) ≠ 0xF ∧ run.hostAccess = true ∧ run.limited = false ∧ stoppedState.limited = true ∧
    stoppedState.hostAccess = true ∧ run.phb = false ∧ (0x01D : BitVec 12).toNat % 4 ≠ 0 ∧ State.reset.hostAccess = false ∧
    (0x048 : BitVec 12).toNat / 4 * 4 ∉ [0x010, 0x01C, 0x020, 0x034, 0x05C, 0x068, 0x084, 0x094, 0x0B0, 0x0B4, 0x0C4, 0x0CC] := by
  decide +kernel

theorem witness_RwlWriteAfterLockIgnored : run.hostAccess = true ∧ run.limited = false ∧ run.gbl.lock = false ∧
    ((0x0D0 : BitVec 12) = 0x030 ∨ (0x0D0 : BitVec 12) = 0x038 ∨ (0x0D0 : BitVec 12) = 0x03C ∨ (0x0D0 : BitVec 12) = 0x040 ∨
      (0x0D0 : BitVec 12) = 0x0D0) := by decide +kernel

theorem witness_PhbWinIgnoredWhileInUse : run.hostAccess = true ∧ run.limited = false ∧ run.gbl.lock = false ∧ run.adm.en = false ∧
    (∀ k ∈ run.queues.qs, k.2.enabled = false) ∧ (∀ c : Fin 32, run.mover.chs[c].state = .idle) ∧
    ({ run with adm := { run.adm with en := true } } : State).adm.en = true ∧
    ({ run with gbl := { run.gbl with lock := true } } : State).gbl.lock = true := by decide +kernel

theorem witness_ControlRegisterResult : run.hostAccess = true ∧ run.limited = false ∧ run.pins.vaon = true ∧ run.pins.resetN = true ∧
    run.gbl.recovered = true ∧ run.gbl.lock = false ∧ run.phb = false ∧ run.energy.pfSeq = false ∧
    (let s : State := { run with gbl := { run.gbl with irqStatus := 1, irqMask := 0x1FFE, lock := true } }
     s.hostAccess = true ∧ s.limited = false ∧ s.gbl.lock = true ∧ s.gbl.irqEn = false ∧ s.gbl.irqStatus &&& ~~~s.gbl.irqMask ≠ 0) ∧
    (let s : State := { run with gbl := { run.gbl with irqStatus := 1, irqEn := true } }
     s.hostAccess = true ∧ s.gbl.irqEn = true ∧ s.gbl.irqStatus &&& s.gbl.irqMask &&& ~~~((0 : Word).truncate 13) ≠ 0) := by decide +kernel

theorem witness_HaltThenSoftReset : run.hostAccess = true ∧ run.limited = false ∧ run.gbl.halt.cause = 0 ∧ run.pins.vaon = true ∧
    aonUp.pins.vaon = true ∧ aonUp.pins.resetN = false ∧ aonUp.pins.deferredRise = false ∧ scanHolds aonUp.pins.jtag = false ∧
    aonUp.gbl.coreOn = false := by decide +kernel

theorem witness_SoftResetResult : run.hostAccess = true ∧ stoppedState.hostAccess = true ∧ stoppedState.gbl.halted = true ∧
    stoppedState.gbl.failed = true := by decide +kernel

/-- The admin queue is set up and enabled. -/
def admUp : State :=
  { run with adm := { run.adm with baseLo := 0x10000, shadowLo := 0x20000, en := true }
             queues := { resetQueues with qs := [(0, { resetAdmq with enabled := true }), (4096, resetCasq)] } }

theorem witness_AdminQueueRegisterResult : run.hostAccess = true ∧ run.limited = false ∧ run.adm.en = false ∧ run.inflight 0 = 0 ∧
    run.admOk = false ∧
    (let s : State := { run with adm := { run.adm with baseLo := 0x10000, shadowLo := 0x20000 } }
     let v : Word := 0x00011028
     ({ s with adm := { s.adm with
        prefetch := BitVec.ofNat 8 (v.toNat / 256), crcReq := v.getLsbD 5, cacheMode := v.getLsbD 4, depthLog2 := v.truncate 4 } } : State).admOk
       = true) ∧
    admUp.hostAccess = true ∧ admUp.limited = false ∧ admUp.adm.en = true ∧ (tget admUp.queues.qs 0).isSome = true ∧
    (let r := invalidate queued false 1
     (tget queued.queues.qs queued.adm.qsel.toNat).isSome = true ∧ (tget r.queues.qs queued.adm.qsel.toNat).isSome = true ∧
     (tget queued.queues.qs queued.adm.qsel.toNat).map (·.scan) = some .ended) := by decide +kernel

theorem witness_DoorbellResult : queued.hostAccess = true ∧ tget queued.queues.qs (9 : Fin 4096).val = some queueOf ∧
    tget queued.queues.qs (4095 : Fin 4096).val = none ∧ (3 : BitVec 4) ≠ 0xF := by decide +kernel

/-- Queue 9 with its scan paused at a slot. -/
def pausedQueue : State := { queued with queues := { queued.queues with qs := [(0, resetAdmq), (9, { queueOf with scan := .paused })] } }

/-- A ready entry as memory holds it: a FENCE with a good CRC or with a bad one. -/
def fenceEntry (crc : Nat) : List Byte :=
  let b := ent opFence 0 0 0 0 0
  bytesAt b 0 60 ++ leBytes 2 crc ++ [0, 0x80]

/-- A bus on which those bytes have been stored at slot 0 of queue 9. -/
def busWith (bs : List Byte) : Bus := ⟨(List.range 64).map (fun i => (0x10000 + i, (bs[i]?).getD 0)), [], [], []⟩
def crcWaiting : State := withJob queued { jobOf 9 (fenceEntry 0) with phase := .crcWait }

theorem witness_QueueScanResult : (queued.gbl.up = true ∧ queued.limited = false ∧ queued.energy.pfSeq = false ∧
      adminDue (absorbBus queued quietBus) = false) ∧
    adminDue (absorbBus { admUp with queues := { resetQueues with qs := [(0, { resetAdmq with enabled := true, pend := true })] } } quietBus) = true ∧
    (tget pausedQueue.queues.qs 9 = some { queueOf with scan := .paused } ∧
      slotInFlight pausedQueue 9 queueOf.depth (queueOf.head.toNat % queueOf.depth) = false) ∧
    (let j := { jobOf 9 (fenceEntry 0) with phase := .crcWait }
     crcWaiting.job? 9 0 = some j ∧ j.detached = false ∧ tget crcWaiting.queues.qs 9 = some queueOf ∧
     crcWaiting.energy.pfSeq = false ∧ crcWaiting.ringsOn = true) ∧
    shReadN (absorbBus crcWaiting deadBus) deadBus (queueOf.slotAddr (0 % queueOf.depth)) 64 = none ∧
    (let crc := (crc16 (bytesAt (fenceEntry 0) 0 60)).toNat
     let b := busWith (fenceEntry crc)
     shReadN (absorbBus crcWaiting b) b (queueOf.slotAddr (0 % queueOf.depth)) 64 = some (fenceEntry crc) ∧ eOwn (fenceEntry crc) = 0x80 ∧
     eCrc (fenceEntry crc) = (crc16 (bytesAt (fenceEntry crc) 0 60)).toNat) ∧
    (let b := busWith (fenceEntry 0)
     shReadN (absorbBus crcWaiting b) b (queueOf.slotAddr (0 % queueOf.depth)) 64 = some (fenceEntry 0) ∧ eOwn (fenceEntry 0) = 0x80 ∧
     eCrc (fenceEntry 0) ≠ (crc16 (bytesAt (fenceEntry 0) 0 60)).toNat) := by decide +kernel

/-- A WRITE of block 0 of partition 1 on queue 9. -/
def writeEntry : List Byte := ent opWrite 0 1 0 1 0

theorem witness_VisibilityAndShadowResult : (let j := { jobOf 9 writeEntry with phase := .fetched }
      let s := withJob queued j
      s.job? 9 0 = some j ∧ j.phase = .fetched ∧ waits s j = false ∧ s.energy.pfSeq = false) ∧
    (let k := { queueOf with shadowDue := true }
     let s : State := { queued with queues := { queued.queues with qs := [(9, k)] } }
     tget s.queues.qs 9 = some k ∧ k.shadowDue = true ∧ s.phb = false ∧ s.pcie.orphan = false ∧ s.energy.pfSeq = false) ∧
    (let k := { queueOf with unsignalled := 1 }
     let s : State := { queued with queues := { queued.queues with qs := [(9, k)] } }
     tget s.queues.qs 9 = some k ∧ k.p.irqEn = true ∧ 0 < k.unsignalled ∧ s.mayWriteShared = true ∧
     (tget (signalQueue s 9).queues.qs 9).isSome = true) := by decide +kernel

/-! ### Commands of consumed entries -/

/-- A job whose data pointer is one run of `n` bytes of shared memory at 0x100000. -/
def dataJob (q : Nat) (bytes : List Byte) (n : Nat) : Job := { jobOf q bytes with segs := [⟨false, false, 0x100000, n⟩] }

/-- A span of three members, and the running device with it as partition 1. -/
def spanOf : Span :=
  { members := [([1], [1]), ([2], [2]), ([3], [3])], isStream := false, lbs4k := false, caps := [1024, 1024, 1024], dirty := [], logged := []
    missing := [], streams := [], maxStream := 0, recheck := [] }
def spanned : State := { run with cas := { resetCas with spans := [(1, spanOf), (2, { spanOf with isStream := true })] } }

/-- Unit 0 of partition 1 holds a committed version. -/
def mapped : State := { parted with parts := [(1, { partOf false with units := [(0, (1, []))] }), (2, partOf true)] }

theorem witness_BlockCommandsResult_read :
    (let j := jobOf 9 (ent opRead 0 1 0 8 0)
     readyJob (withJob spanned j) 9 0 opRead = some j ∧ isSpanJob (withJob spanned j) j = true) ∧
    (let j := jobOf 9 (ent opRead 0 1 8192 1 0)
     readyJob (withJob parted j) 9 0 opRead = some j ∧ isSpanJob (withJob parted j) j = false ∧ rangeOk (withJob parted j) j.bytes = false) ∧
    (let j := { dataJob 9 (ent opRead 0 1 8191 1 0) 512 with sglErr := true }
     readyJob (withJob parted j) 9 0 opRead = some j ∧ isSpanJob (withJob parted j) j = false ∧ rangeOk (withJob parted j) j.bytes = true ∧
     1 * (withJob parted j).lbsOf 1 ≤ maxXfer ∧ j.sglErr = true) ∧
    (let j := dataJob 9 (ent opRead 0 1 0 8 0) 4096
     let s := withJob mapped j
     readyJob s 9 0 opRead = some j ∧ isSpanJob s j = false ∧ rangeOk s j.bytes = true ∧ 4096 ≤ maxXfer ∧ j.sglErr = false) := by
  decide +kernel

/-- Block 0 of the first LUN, in a Course with one of the second, holds a page of partition 1. -/
def rawMedia : State :=
  let s := withLuns mapped 1
  { s with media := { s.media with courses := [(1, ⟨.hot, [0, 4194304], 1, [3, 3], 1152, [(0, 0, [.unit 1 0 1])], false, 0⟩)]
                                   blocks := [(0, ⟨.course, 1, 0⟩), (4194304, ⟨.course, 1, 0⟩)] } }

/-- How a READ of that page ends: not yet, or with the units lost and their statuses. -/
def readEnds (s : State) (fl : FlashRead) : Option (List (Nat × Nat)) :=
  let j := dataJob 9 (ent opRead 0 1 0 8 0) 4096
  let m := takeLeaves (absorbBus (withJob s j) quietBus) quietBus 1 0 4096
  match readFlash m j fl (unitIn 1 fl.lost) (unitIn 1 fl.rebuilt) (rangeRefs m 1 0 4096) with
  | .inl _ => none
  | .inr (_, lost) => some (lost.map (fun x => (x.1, x.2.2)))

theorem witness_BlockCommandsResult_flash : readEnds rawMedia quietFlash = some [] ∧
    readEnds rawMedia { quietFlash with lost := [0] } = some [(0, 0x04)] ∧
    readEnds { rawMedia with media := { rawMedia.media with offline := 1 } } quietFlash = some [(0, scChannelFault)] ∧
    readEnds rawMedia { quietFlash with retry := some ⟨⟨0, 0, 0⟩, 0, 0⟩ } = none := by decide +kernel

theorem witness_BlockCommandsResult_write :
    (let j := jobOf 9 (ent opWrite 0 1 0 8 0)
     readyJob (withJob spanned j) 9 0 opWrite = some j ∧ isSpanJob (withJob spanned j) j = true) ∧
    (let j := jobOf 9 (ent opWrite 0 1 0 0 0)
     readyJob (withJob parted j) 9 0 opWrite = some j ∧ isSpanJob (withJob parted j) j = false ∧ rangeOk (withJob parted j) j.bytes = false) ∧
    (let j := { jobOf 4096 writeEntry with origin := some (5, 9, 9, 0) }
     readyJob (withJob parted j) 4096 0 opWrite = some j ∧ isSpanJob (withJob parted j) j = false ∧
     rangeOk (withJob parted j) j.bytes = true ∧ j.origin.isSome = true) ∧
    (let j := dataJob 9 writeEntry 512
     readyJob (withJob parted j) 9 0 opWrite = some j ∧ isSpanJob (withJob parted j) j = false ∧ rangeOk (withJob parted j) j.bytes = true ∧
     j.origin = none ∧ j.sglErr = false ∧ gather (absorbBus (withJob parted j) deadBus) deadBus j.segs = none ∧
     gather (absorbBus (withJob parted j) quietBus) quietBus j.segs = some (List.replicate 512 0)) := by decide +kernel

theorem witness_BlockCommandsResult_rest :
    (let j := jobOf 9 (ent opWriteZeroes 0 1 0 1 0)
     readyJob (withJob parted j) 9 0 opWriteZeroes = some j) ∧
    (let j := jobOf 9 (ent opTrim 0 1 0 1 0)
     readyJob (withJob parted j) 9 0 opTrim = some j) ∧
    (let j := { jobOf 9 (ent opFlush 0 1 0 0 0) with phase := .running }
     (withJob parted j).job? 9 0 = some j ∧ j.op = opFlush ∧ (withJob parted j).energy.pfSeq = false ∧ j.phase = .running) ∧
    (let j := jobOf 9 (ent opFlush 0 1 0 0 0)
     let s := withJob parted j
     s.job? 9 0 = some j ∧ j.op = opFlush ∧ s.energy.pfSeq = false ∧ j.phase = .ready ∧ waits s j = false ∧ s.cas.enumerating = none) ∧
    (let j := { jobOf 9 (ent opFence 0 0 0 0 0) with phase := .running }
     (withJob parted j).job? 9 0 = some j ∧ j.op = opFence ∧ j.phase = .running) := by decide +kernel

theorem witness_CompletionRecordWritten : queued.phb = false ∧ queued.mayWriteShared = true ∧ (jobOf 9 writeEntry).origin = none ∧
    (jobOf 9 writeEntry).detached = false ∧ tget queued.queues.qs (jobOf 9 writeEntry).q = some queueOf ∧
    (let a := queueOf.p.base + 64 * (0 % queueOf.depth); a + 64 ≤ queueOf.p.shadow + 32 ∨ queueOf.p.shadow + 64 ≤ a) ∧
    (let j := { jobOf 9 (ent opFlush 0 1 0 0 0) with phase := .running }; j.phase = .running ∧ j.op = opFlush) ∧
    (let j := { jobOf 9 (ent opFence 0 0 0 0 0) with phase := .running }; j.phase = .running ∧ j.op = opFence) := by decide +kernel

theorem witness_DeliveryStoresOnlyBuffers : run.phb = false ∧ run.mayWriteShared = true ∧
    (let g : Seg := ⟨false, false, 0x100000, 2⟩
     let bs : List Byte := [1, 2]
     g.dram = false ∧ g.discard = false ∧ g.len = bs.length ∧ (∀ h ∈ [g], h.dram = false → (0xFFFFF < h.addr ∨ h.addr + h.len ≤ 0xFFFFF)) ∧
     (∀ h ∈ [{ g with dram := true }], h.dram = true → (0x100002 < h.addr ∨ h.addr + h.len ≤ 0x100002))) := by decide +kernel

theorem witness_StreamCommandsResult_open :
    (let j := jobOf 9 (ent opStreamOpen 0 2 0 0 0)
     let s := withJob streaming j
     let part := { partOf true with maxStream := 7 }
     readyJob s 9 0 opStreamOpen = some j ∧ isSpanJob s j = false ∧ tget s.parts 2 = some part ∧ part.isStream = true ∧
     eLen j.bytes ≤ 65535 ∧ eStream j.bytes ≤ part.maxStream ∧ part.lostNums.contains (eStream j.bytes) = false ∧
     unassigned s 2 (eStream j.bytes) = false ∧ eStream j.bytes = 0 ∧ part.nextStream ≠ 65536 ∧ s.openStreams < 1024 ∧
     s.usedUnits 2 + s.openIn 2 + 2 ≤ part.capUnits ∧ freeHandle s = some 1) ∧
    (∀ x ∈ [(StreamCond.opened, some 0), (.closed, none)],
     let j := jobOf 9 (ent opStreamOpen 0 2 0 0 7)
     let t := { emptyStrm 0 with cond := x.1, handle := x.2, recs := [⟨1, 1, [], true⟩] }
     let s := withJob { streaming with streams := { resetStreams with tbl := [(2 * 65536 + 7, t)] } } j
     readyJob s 9 0 opStreamOpen = some j ∧ isSpanJob s j = false ∧ eStream j.bytes ≤ 7 ∧ eStream j.bytes ≠ 0 ∧
     unassigned s 2 (eStream j.bytes) = false ∧ s.strm? (sKey 2 (eStream j.bytes)) = some t) := by decide +kernel

theorem witness_StreamCommandsResult_append :
    (let j := { dataJob 9 (ent opStreamAppend 0 0 0 512 0) 512 with mark := 2 * 65536 + 7 }
     let s := withJob streaming j
     readyJob s 9 0 opStreamAppend = some j ∧ isSpanJob s j = false ∧ eLen j.bytes ≠ 0 ∧ eLen j.bytes ≤ maxXfer ∧ j.mark ≠ 0 ∧
     s.strm? j.mark = some (emptyStrm 0) ∧ (emptyStrm 0).cond = .opened ∧
     appendGrowth { emptyStrm 0 with endOff := pendingEnd s j.mark (emptyStrm 0) } (eLen j.bytes) + pendingUnits s 2 + s.usedUnits 2 +
       s.openIn 2 ≤ s.capOf 2 ∧ j.origin = none ∧ j.sglErr = false ∧
     gather (absorbBus s quietBus) quietBus j.segs = some (List.replicate 512 0)) ∧
    (let j := { dataJob 9 (ent opStreamAppend 0 0 0 512 0) 512 with mark := 2 * 65536 + 7 }
     let s := withJob { streaming with parts := [(2, { partOf true with capUnits := 1 })] } j
     readyJob s 9 0 opStreamAppend = some j ∧
     s.capOf 2 < appendGrowth { emptyStrm 0 with endOff := pendingEnd s j.mark (emptyStrm 0) } (eLen j.bytes) + pendingUnits s 2 +
       s.usedUnits 2 + s.openIn 2) ∧
    (let j := { jobOf 4096 (ent opStreamAppend 0 0 0 512 0) with mark := 2 * 65536 + 7, origin := some (5, 9, 9, 0) }
     readyJob (withJob streaming j) 4096 0 opStreamAppend = some j ∧ j.origin.isSome = true) := by decide +kernel

theorem witness_StreamCommandsResult_rest :
    (let j := { jobOf 9 (ent opStreamMark 0 0 0 0 0) with mark := 2 * 65536 + 7 }
     readyJob (withJob streaming j) 9 0 opStreamMark = some j ∧ isSpanJob (withJob streaming j) j = false) ∧
    (let s : State := { spanned with cas := { spanned.cas with spanHandles := [(3, (2 * 65536 + 1, 0))] } }
     let jo := jobOf 9 (ent opStreamOpen 0 2 0 0 0)
     let ja := { jobOf 9 (ent opStreamAppend 0 3 0 1 0) with mark := 2 * 65536 + 1 }
     let jm := { jobOf 9 (ent opStreamMark 0 3 0 0 0) with mark := 2 * 65536 + 1 }
     let jc := { jobOf 9 (ent opStreamClose 0 3 0 0 0) with mark := 2 * 65536 + 1 }
     let jr := jobOf 9 (ent opStreamRead 0 2 0 1 1)
     readyJob (withJob s jo) 9 0 opStreamOpen = some jo ∧ isSpanJob (withJob s jo) jo = true ∧
     readyJob (withJob s ja) 9 0 opStreamAppend = some ja ∧ isSpanJob (withJob s ja) ja = true ∧
     readyJob (withJob s jm) 9 0 opStreamMark = some jm ∧ isSpanJob (withJob s jm) jm = true ∧
     readyJob (withJob s jc) 9 0 opStreamClose = some jc ∧ isSpanJob (withJob s jc) jc = true ∧
     readyJob (withJob s jr) 9 0 opStreamRead = some jr ∧ isSpanJob (withJob s jr) jr = true) ∧
    (let j := { jobOf 9 (ent opStreamClose 0 0 0 0 0) with mark := 2 * 65536 + 7 }
     let s := withJob streaming j
     readyJob s 9 0 opStreamClose = some j ∧ isSpanJob s j = false ∧ s.strm? j.mark = some (emptyStrm 0) ∧ j.mark ≠ 0 ∧
     (emptyStrm 0).cond = .opened ∧ closeWaits s j = false ∧
     ((endOrEmpty s j.mark (emptyStrm 0) afClose 0 cfClose (eTime j.bytes)).strm? j.mark).isSome = true) ∧
    (let t := { emptyStrm 0 with cond := .closed, handle := none }
     let j := { jobOf 9 (ent opStreamClose 0 0 0 0 0) with mark := 2 * 65536 + 7 }
     let s := withJob { streaming with streams := { resetStreams with tbl := [(2 * 65536 + 7, t)] } } j
     readyJob s 9 0 opStreamClose = some j ∧ s.strm? j.mark = some t ∧ t.cond ≠ .opened) ∧
    (let j := { jobOf 9 (ent opStreamClose 0 0 0 0 0) with mark := 2 * 65536 + 7, order := 2, count := 1 }
     let a := { jobOf 8 (ent opStreamMark 0 0 0 0 0) with mark := 2 * 65536 + 7 }
     let s : State := { streaming with queues := { streaming.queues with jobs := [a, j] } }
     readyJob s 9 1 opStreamClose = some j ∧ closeWaits s j = true) ∧
    (let j := dataJob 9 (ent opStreamRead 0 2 0 512 7) 512
     let s := withJob streaming j
     readyJob s 9 0 opStreamRead = some j ∧ isSpanJob s j = false ∧ eLen j.bytes ≠ 0 ∧ eLen j.bytes ≤ maxXfer ∧ j.sglErr = false ∧
     tget s.parts 2 = some { partOf true with maxStream := 7 } ∧ s.strm? (sKey 2 (eStream j.bytes)) = some (emptyStrm 0)) := by decide +kernel

theorem witness_StreamCommandsResult_raw :
    (let j := dataJob 9 (ent opRawRead 0 1 0 2 0) 8192
     let s := withJob rawMedia j
     let cw := max 1 (cwPerPage (s.profOf 0))
     readyJob s 9 0 opRawRead = some j ∧ (tget s.parts 1).isSome = true ∧ rawOk s (eLba j.bytes) 2 = true ∧ 2 * 4096 ≤ maxXfer ∧
     rawOwned s (paBlock (eLba j.bytes)) 1 = true ∧ s.media.offline.getLsbD (keyCh (paLun (eLba j.bytes))) = false ∧
     s.domMode (6 + keyCh (paLun (eLba j.bytes))) ≠ .offUntilReset ∧ j.sglErr = false ∧
     rawBusy s (paBlock (eLba j.bytes)) (paPage (eLba j.bytes)) ((0 + 2 - 1) / cw) = false) ∧
    (let j := dataJob 9 (ent opRawRead 0 2 0 1 0) 4096
     let s := withJob rawMedia j
     readyJob s 9 0 opRawRead = some j ∧ (tget s.parts 2).isSome = true ∧ rawBlock s (eLba j.bytes) = true ∧
     rawOwned s (paBlock (eLba j.bytes)) 2 = false) ∧
    (let j := dataJob 9 (ent opRawRead 0 1 0 2 0) 8192
     let s := withJob { rawMedia with media := { rawMedia.media with offline := 1 } } j
     readyJob s 9 0 opRawRead = some j ∧ rawOk s (eLba j.bytes) 2 = true ∧ rawOwned s (paBlock (eLba j.bytes)) 1 = true ∧
     s.media.offline.getLsbD (keyCh (paLun (eLba j.bytes))) = true) := by decide +kernel

/-- How a RAW_READ of codewords 0 and 1 of that page ends: not yet, or with the first one that is torn (true) or failed. -/
def rawEnds (s : State) (cws : List CwResult) (retry : Option FlashPage) : Option (Option (Nat × Option Bool)) :=
  let j := dataJob 9 (ent opRawRead 0 1 0 2 0) 8192
  match reachFlash (withJob s j) j [(paBlock 0, 0)] retry with
  | .inl _ => none
  | .inr (r, taken) =>
    let rs := ((List.range 2).map (fun i => rawOutcome r taken (paBlock 0) 0 i ((cws[i]?).getD .good))).mapIdx (fun i x => rawCw r j i x)
    some ((rs.findIdx? (fun x => x.2.1 || x.2.2)).map (fun i => (i, (rs[i]?).map (·.2.1))))

theorem witness_StreamCommandsResult_codewords : rawEnds rawMedia [.erased, .erased] none = some none ∧
    rawEnds rawMedia [.erased, .failed []] none = some (some (1, some false)) ∧
    rawEnds { rawMedia with media := { rawMedia.media with tornGroups := [(0, 0, 3)] } } [.failed []] none = some (some (0, some true)) ∧
    rawEnds rawMedia [] (some ⟨⟨0, 0, 0⟩, 0, 0⟩) = none := by decide +kernel

theorem witness_StreamCommandsResult_transfer :
    let j := jobOf 9 (ent opStreamTransfer 0 2 5 0 0)
    let s := withJob streaming j
    let e : State := { s with cas := { s.cas with enumerated := true, memberId := 4 } }
    let own : State := { s with cas := { s.cas with enumerated := true, memberId := 5 } }
    readyJob s 9 0 opStreamTransfer = some j ∧ tget s.parts 2 = some { partOf true with maxStream := 7 } ∧ s.cas.enumerated = false ∧
    readyJob e 9 0 opStreamTransfer = some j ∧ e.cas.enumerated = true ∧ eLba j.bytes % 4096 ≠ e.cas.memberId ∧
    readyJob own 9 0 opStreamTransfer = some j ∧ eLba j.bytes % 4096 = own.cas.memberId := by decide +kernel

/-- A stream whose Ashlar runs, and one whose Capstone is due. -/
def running7 : Running := ⟨1, 0, 512, 0, none, 0, false, 4194304, 1000⟩
def withStrm (t : Strm) : State := { streaming with streams := { resetStreams with tbl := [(2 * 65536 + 7, t)], sign := [2 * 65536 + 7] } }

theorem witness_StreamTimeResult :
    (let t := { emptyStrm 0 with running := some running7 }
     (withStrm t).strm? (sKey (2 : Fin 32).val (7 : BitVec 16).toNat) = some t ∧ t.running = some running7 ∧ (withStrm t).energy.pfSeq = false) ∧
    (let t := { emptyStrm 0 with due := [.capstone 0 1 0] }
     (withStrm t).streams.sign = (2 * 65536 + 7) :: [] ∧ (withStrm t).energy.pfSeq = false ∧ (withStrm t).gbl.sealFault = false ∧
     (withStrm t).strm? (2 * 65536 + 7) = some t ∧ t.due = .capstone 0 1 0 :: []) ∧
    run.mayRelease = true ∧
    (let t := { emptyStrm 0 with cond := .closed, retain := 1, closeUtc := 1 }
     let s := { withStrm t with streams := { (withStrm t).streams with utc := some ⟨10 ^ 12, 0, 0⟩ } }
     (2 * 65536 + 7, t) ∈ s.streams.tbl ∧ expired s t = true) ∧
    (let t := { emptyStrm 0 with holds := [1] }
     (2 * 65536 + 7, t) ∈ (withStrm t).streams.tbl ∧ t.holds ≠ []) := by decide +kernel

/-! ### Admin commands -/

/-- An admin job in flight alone on queue 0. -/
def adm (s : State) (bytes : List Byte) : State := withJob s (jobOf 0 bytes)

theorem witness_AdminReadAndQueueResult_read :
    (∀ a ∈ [0, 1, 2], let b := ent opIdentify 0 1 0 64 a
      adminJob (adm parted b) 0 opIdentify = some (jobOf 0 b) ∧ eLen b ≠ 0 ∧ eLen b ≤ 4096 ∧ eAttr b % 4 = a) ∧
    tget parted.parts 1 = some (partOf false) ∧
    (let b := ent opIdentify 0 1 0 64 1
     adminJob (adm spanned b) 0 opIdentify = some (jobOf 0 b) ∧ tget spanned.parts 1 = none ∧ tget spanned.cas.spans 1 = some spanOf) ∧
    (let j := dataJob 0 (ent opAttest 0 0 0 0 0) 32
     let s := withJob parted j
     adminJob s 0 opAttest = some j ∧ j.sglErr = false ∧ gather (absorbBus s quietBus) quietBus j.segs = some (List.replicate 32 0)) ∧
    (let b := ent opSetTime 0 0 0 0 0
     adminJob (adm parted b) 0 opSetTime = some (jobOf 0 b)) ∧
    (let b := ent opGetLog 0 0 0 64 1
     let s := adm parted b
     adminJob s 0 opGetLog = some (jobOf 0 b) ∧ eLen b ≠ 0 ∧ eLen b ≤ maxXfer ∧ eLba b < (s.logPage 1 0).length ∧ (1 ≠ 3 ∧ 1 ≠ 4)) ∧
    (let b := ent opGetLog 0 2 0 64 3
     let s := adm streaming b
     adminJob s 0 opGetLog = some (jobOf 0 b) ∧ eLba b < (s.logPage 3 2).length ∧ (tget s.parts 2).isSome = true) := by decide +kernel

theorem witness_AdminReadAndQueueResult_queue :
    (let b := ent opCreateQueue 0 9 0x10000 0x020408A6 0x00141009
     let b := bytesAt b 0 40 ++ leBytes 8 0x20000 ++ List.replicate 16 0
     let s := adm parted b
     adminJob s 0 opCreateQueue = some (jobOf 0 b) ∧ ePs b ≠ 0 ∧ ePs b ≤ 4095 ∧ tget s.queues.qs (ePs b) = none ∧
     queueParamsOk s (queueParams b) = true ∧
     placementOk s (ePs b) (queueParams b).base (64 * 2 ^ (queueParams b).depthLog2) (queueParams b).shadow = true) ∧
    (let b := ent opCreateQueue 0 9 0x10000 0x020408A3 0x00141009
     adminJob (adm parted b) 0 opCreateQueue = some (jobOf 0 b) ∧ queueParamsOk (adm parted b) (queueParams b) = false) ∧
    (∀ a ∈ [0, 1], let b := ent opDisableQueue 0 9 0 0 a
      adminJob (adm queued b) 0 opDisableQueue = some (jobOf 0 b) ∧ ePs b ≠ 0 ∧ ePs b ≤ 4095 ∧
      tget (adm queued b).queues.qs (ePs b) = some queueOf ∧ queueOf.enabled = true ∧ (jobOf 0 b).mark = 0 ∧
      bitOf (eAttr b) 0 = decide (a = 1)) ∧
    (∀ a ∈ [0, 1], let j := { jobOf 0 (ent opDisableQueue 0 9 0 0 a) with mark := 1 }
      let s := withJob { queued with queues := { queued.queues with qs := [(9, { queueOf with enabled := false })] } } j
      adminJob s 0 opDisableQueue = some j ∧ (tget s.queues.qs (ePs j.bytes)).isSome = true ∧ j.mark ≠ 0 ∧
      bitOf (eAttr j.bytes) 0 = decide (a = 1)) ∧
    (let k := { queueOf with enabled := false }
     let s := { queued with queues := { queued.queues with qs := [(9, k)] } }
     let b := ent opDisableQueue 0 9 0 0 0
     adminJob (adm s b) 0 opDisableQueue = some (jobOf 0 b) ∧ tget (adm s b).queues.qs (ePs b) = some k ∧ k.enabled = false ∧
     (jobOf 0 b).mark = 0) ∧
    (let b := ent opDestroyQueue 0 9 0 0 0
     adminJob (adm queued b) 0 opDestroyQueue = some (jobOf 0 b) ∧ (tget (adm queued b).queues.qs (ePs b)).isSome = true) ∧
    (let b := ent opQueryQueue 0 9 0 0 0
     adminJob (adm queued b) 0 opQueryQueue = some (jobOf 0 b) ∧ tget (adm queued b).queues.qs (ePs b) = some queueOf) ∧
    (let b := ent opGetFeature 0 1 0 0 4
     adminJob (adm parted b) 0 opGetFeature = some (jobOf 0 b)) ∧
    (let b := ent opSetFeature 0 2 100 0 2
     let s := adm parted b
     adminJob s 0 opSetFeature = some (jobOf 0 b) ∧ s.media.foreign = false ∧ s.feature 2 2 = some 1000 ∧ featureOk 2 100 = true) ∧
    (let b := ent opSetFeature 0 0 256 0 6
     let s := adm atT6 b
     adminJob s 0 opSetFeature = some (jobOf 0 b) ∧ s.sys.fMax ≠ 0 ∧ eLba b ≤ s.sys.fMax ∧ (s.feature 6 0).isSome = true ∧
     featureOk 6 256 = true) := by decide +kernel

/-- Room for partitions. -/
def roomy : State := { parted with sys := { parted.sys with usableUnits := 10000 } }
/-- The same in Footing service. -/
def footing : State := { roomy with gbl := { roomy.gbl with fullService := false } }

theorem witness_PartitionCommandsResult_make :
    (∀ a ∈ [0, 4], let b := ent opCreatePartition 0 3 1024 32 a
      let j := dataJob 0 b 32
      let s := withJob roomy j
      adminJob s 0 opCreatePartition = some j ∧ s.media.foreign = false ∧ s.gbl.fullService = true ∧ s.partUsed 3 = false ∧ eLba b ≠ 0 ∧
      (eLba b + 1023) / 1024 * 1024 ≤ s.freeUnits ∧ s.allocUnits + (eLba b + 1023) / 1024 * 1024 ≤ 536870912 ∧
      bitOf (eAttr b) 2 = decide (a = 4) ∧ j.sglErr = false ∧
      gather (absorbBus s quietBus) quietBus j.segs = some (List.replicate 32 0)) ∧
    (let b := ent opCreatePartition 0 3 1024 0 0
     adminJob (adm footing b) 0 opCreatePartition = some (jobOf 0 b) ∧ footing.gbl.fullService = false) ∧
    (let b := ent opDeletePartition 0 1 0 0 0
     let s := adm spanned b
     adminJob s 0 opDeletePartition = some (jobOf 0 b) ∧ s.media.foreign = false ∧ s.gbl.fullService = true ∧ tget s.parts 1 = none ∧
     (tget s.cas.spans 1).isSome = true ∧ ioOutstanding s 1 = false) ∧
    (let b := ent opDeletePartition 0 1 0 0 0
     let s := { spanned with queues := { spanned.queues with jobs := [jobOf 0 b, jobOf 9 writeEntry] } }
     adminJob s 0 opDeletePartition = some (jobOf 0 b) ∧ tget s.parts 1 = none ∧ (tget s.cas.spans 1).isSome = true ∧
     ioOutstanding s 1 = true) ∧
    (let b := ent opDeletePartition 0 9 0 0 0
     let s := adm spanned b
     adminJob s 0 opDeletePartition = some (jobOf 0 b) ∧ tget s.parts 9 = none ∧ tget s.cas.spans 9 = none) ∧
    (let b := ent opDeletePartition 0 1 0 0 0
     let s := adm parted b
     adminJob s 0 opDeletePartition = some (jobOf 0 b) ∧ tget s.parts 1 = some (partOf false) ∧ partHeld s 1 = false ∧ ioOutstanding s 1 = false) ∧
    (let b := ent opDeletePartition 0 2 0 0 0
     let s := adm streaming b
     adminJob s 0 opDeletePartition = some (jobOf 0 b) ∧ (tget s.parts 2).isSome = true ∧ partHeld s 2 = true) ∧
    (let b := ent opDeletePartition 0 1 0 0 0
     let s := { parted with queues := { parted.queues with jobs := [jobOf 0 b, jobOf 9 writeEntry] } }
     adminJob s 0 opDeletePartition = some (jobOf 0 b) ∧ partHeld s 1 = false ∧ ioOutstanding s 1 = true) := by decide +kernel

theorem witness_PartitionCommandsResult_hold :
    (∀ n ∈ [0, 7, 8], let b := ent opSetHold 0 2 5 0 (65536 + n)
      adminJob (adm streaming b) 0 opSetHold = some (jobOf 0 b) ∧ streaming.media.foreign = false ∧ streaming.gbl.fullService = true ∧
      (tget streaming.parts 2).isSome = true ∧ eStream b = n) ∧
    streaming.strm? (sKey 2 7) = some (emptyStrm 0) ∧ streaming.strm? (sKey 2 8) = none ∧
    (holdRefs [] 5 true).toOption = some [5] ∧ (holdRefs [] 5 false).toOption = none ∧
    ((5 : DWord) ∉ [1, 2] ∧ [1, 2].length < 8) ∧ ((9 : DWord) ∉ [1, 2, 3, 4, 5, 6, 7, 8] ∧ 8 ≤ [1, 2, 3, 4, 5, 6, 7, 8].length) ∧
    (1 : DWord) ∈ [1, 2] := by decide +kernel

/-- Policy with SANITIZE and ADOPT_MEDIA allowed. -/
def allowed (s : State) : State := { s with prot := { s.prot with policy := 0x7FF } }

theorem witness_PartitionCommandsResult_sanitize :
    (let b := ent opSanitize 0 1 0 0 0
     adminJob (adm parted b) 0 opSanitize = some (jobOf 0 b) ∧ parted.prot.policy.getLsbD 8 = false) ∧
    (let b := ent opSanitize 0 1 0 0 0
     let s := adm (allowed parted) b
     adminJob s 0 opSanitize = some (jobOf 0 b) ∧ s.prot.policy.getLsbD 8 = true ∧ s.media.foreign = false ∧ s.gbl.fullService = true ∧
     (tget s.parts 1).isSome = true ∧ bitOf (eAttr b) 1 = false ∧ [1].any (partHeld s) = false ∧ [1].any (ioOutstanding s) = false ∧
     (sanitizeParts s [] [1]).isSome = true) ∧
    (let b := ent opSanitize 0 0 0 0 1
     let s := adm (allowed streaming) b
     adminJob s 0 opSanitize = some (jobOf 0 b) ∧ bitOf (eAttr b) 0 = true ∧ (s.parts.map (·.1)).any (partHeld s) = true) ∧
    (let b := ent opSanitize 0 1 0 0 0
     let s := { allowed parted with queues := { parted.queues with jobs := [jobOf 0 b, jobOf 9 writeEntry] } }
     adminJob s 0 opSanitize = some (jobOf 0 b) ∧ [1].any (partHeld s) = false ∧ [1].any (ioOutstanding s) = true) := by decide +kernel

theorem witness_PartitionCommandsResult_adopt :
    (let b := ent opAdoptMedia 0 0 0 0 0
     adminJob (adm parted b) 0 opAdoptMedia = some (jobOf 0 b) ∧ parted.prot.policy.getLsbD 9 = false) ∧
    (let j := dataJob 0 (ent opAdoptMedia 0 0 0 0 0) 32
     let s := withJob { allowed parted with media := { parted.media with foreign := true } } j
     adminJob s 0 opAdoptMedia = some j ∧ s.prot.policy.getLsbD 9 = true ∧ s.gbl.fullService = true ∧ s.media.foreign = true ∧
     j.sglErr = false ∧ gather (absorbBus s quietBus) quietBus j.segs = some (List.replicate 32 0) ∧
     (unwrapKeys (List.replicate 32 0) s.parts).toOption = some []) := by decide +kernel

/-- Shared memory that holds `bs` from 0x100000 on. -/
def withHost (s : State) (bs : List Byte) : State := { s with host := memWriteL [] 0x100000 bs }

set_option maxRecDepth 20000 in
theorem witness_ImageAndServiceResult_images :
    (let b := ent opLoadProfile 0 0 0 0 0
     adminJob (adm run b) 0 opLoadProfile = some (jobOf 0 b) ∧ eLen b ≠ 512) ∧
    (let j := dataJob 0 (ent opLoadProfile 0 0 0 512 1) 512
     let s := withJob run j
     adminJob s 0 opLoadProfile = some j ∧ eLen j.bytes = 512 ∧ j.sglErr = false ∧
     gather (absorbBus s quietBus) quietBus j.segs = some (List.replicate 512 0) ∧
     profileCheck (absorbBus s quietBus) true (List.replicate 512 0) = some (2, scCrcMismatch)) ∧
    profileCheck (absorbBus run quietBus) true libraryProfile = none ∧
    (let b := ent opLoadMicrocode 0 0 0 0 0
     let s := { run with prot := { run.prot with policy := 0 } }
     adminJob (adm s b) 0 opLoadMicrocode = some (jobOf 0 b) ∧ (jobOf 0 b).window = false ∧ s.prot.policy.getLsbD 5 = false) ∧
    (let j := dataJob 0 (ent opLoadMicrocode 0 0 0 340 0) 340
     let s := withJob run j
     adminJob s 0 opLoadMicrocode = some j ∧ s.prot.policy.getLsbD 5 = true ∧ 340 ≤ eLen j.bytes ∧ eLen j.bytes ≤ maxXfer ∧
     j.sglErr = false ∧ gather (absorbBus s quietBus) quietBus j.segs = some (List.replicate 340 0)) ∧
    (let b := ent opCommitFirmware 0 0 0 0 0
     adminJob (adm run b) 0 opCommitFirmware = some (jobOf 0 b) ∧ (jobOf 0 b).window = false ∧ run.prot.policy.getLsbD 6 = false) ∧
    (let j := { dataJob 0 (ent opCommitFirmware 0 0 0 96 0) 96 with window := true }
     let s := withJob run j
     adminJob s 0 opCommitFirmware = some j ∧ j.window = true ∧ eLen j.bytes ≤ maxXfer ∧ earlierRuns s j opCommitFirmware = false ∧
     j.sglErr = false ∧ gather (absorbBus s quietBus) quietBus j.segs = some (List.replicate 96 0)) := by decide +kernel

theorem witness_ImageAndServiceResult_service :
    (let b := ent opStartCalibration 0 0 0 0 7
     adminJob (adm run b) 0 opStartCalibration = some (jobOf 0 b)) ∧
    (let b := ent opAttachMapStore 0 0 0 1 0
     adminJob (adm phbRun b) 0 opAttachMapStore = some (jobOf 0 b) ∧ phbRun.gbl.fullService = true ∧ phbRun.phb = true) ∧
    (∀ x ∈ [(66560, false), (66559, false), (66560, true)],
     let img := leBytes 8 0x200000 ++ leBytes 4 x.1 ++ leBytes 4 8
     let j := dataJob 0 (ent opAttachMapStore 0 0 0 1 0) 16
     let s := withJob { withHost run img with hmap := { resetHmap with attached := x.2 } } j
     let es := (List.range 1).map (regionAt img)
     let deaf : Bus := ⟨[], [], [(0x200000, 0x201000)], []⟩
     adminJob s 0 opAttachMapStore = some j ∧ s.gbl.fullService = true ∧ s.phb = false ∧ eLen j.bytes ≠ 0 ∧ eLen j.bytes ≤ 64 ∧
     (s.hmap.attached || earlierRuns s j opDetachMapStore) = x.2 ∧ j.sglErr = false ∧
     gather (absorbBus s quietBus) quietBus j.segs = some img ∧ gather (absorbBus s deaf) deaf j.segs = some img ∧
     regionsOk es = decide (x.1 = 66560) ∧ acceptRegions (absorbBus s quietBus) quietBus es ≠ [] ∧
     acceptRegions (absorbBus s deaf) deaf es = []) ∧
    (let b := ent opDetachMapStore 0 0 0 0 0
     adminJob (adm run b) 0 opDetachMapStore = some (jobOf 0 b) ∧ run.gbl.fullService = true) ∧
    (let b := ent opSelfTest 0 0 0 0 1
     adminJob (adm run b) 0 opSelfTest = some (jobOf 0 b) ∧ earlierRuns (adm run b) (jobOf 0 b) opSelfTest = false) ∧
    (let b := ent opSelfTest 0 0 0 0 1
     let j := { jobOf 0 b with order := 2, count := 1 }
     let s := { run with queues := { run.queues with jobs := [{ jobOf 0 b with phase := .running }, j] } }
     adminJob s 1 opSelfTest = some j ∧ earlierRuns s j opSelfTest = true) := by decide +kernel

/-- A Roster entry of a member that is absent, and of one held out. -/
def rosterE (st : Nat) : RosterE :=
  { state := st, depth := 1, position := 1, serial := [], keyId := [], lastBoot := 0, seenBoot := 0, seenTick := 0, heldSerial := []
    heldKeyId := [], cert := [], heldCert := [], heldSeen := (0, 0, 0), present := false }
def rostered (st : Nat) : State := { keyUp with cas := { keyUp.cas with roster := [(7, rosterE st)] } }

theorem witness_ImageAndServiceResult_cascade :
    (let b := ent opCascadeEnumerate 0 0 0 0 0
     adminJob (adm run b) 0 opCascadeEnumerate = some (jobOf 0 b) ∧ run.cas.enumerating = none ∧ run.keystone = false) ∧
    (let b := ent opCascadeEnumerate 0 0 0 0 0
     let s := adm keyUp b
     adminJob s 0 opCascadeEnumerate = some (jobOf 0 b) ∧ s.cas.enumerating = none ∧ s.keystone = true ∧ s.gbl.fullService = true ∧
     s.cas.fwds = [] ∧ s.cas.spanOps = [] ∧ (enumStart s (jobOf 0 b)).cas.enumerating.isSome = true) ∧
    (let j := { jobOf 0 (ent opCascadeEnumerate 0 0 0 0 0) with phase := .running }
     let e : Enumeration := ⟨0, [], 1, 0, [], []⟩
     let s := withJob { keyUp with cas := { keyUp.cas with enumerating := some e } } j
     s.job? 0 0 = some j ∧ s.cas.enumerating = some e ∧ j.phase = .running ∧ e.count = 0 ∧ s.cas.attests = [] ∧ e.toVisit = [] ∧
     s.energy.pfSeq = false) ∧
    (let b := ent opCascadeRoster 0 0 7 128 0
     adminJob (adm (rostered 1) b) 0 opCascadeRoster = some (jobOf 0 b) ∧ (rostered 1).keystone = true ∧
     (rostered 1).gbl.fullService = true ∧ eAttr b = 0 ∧ eLen b ≠ 0 ∧ eLen b ≤ maxXfer) ∧
    (let b := ent opCascadeRoster 0 0 7 0 1
     adminJob (adm (rostered 2) b) 0 opCascadeRoster = some (jobOf 0 b) ∧ eAttr b = 1 ∧
     tget (adm (rostered 2) b).cas.roster (eLba b % 4096) = some (rosterE 2) ∧ (rosterE 2).state = 2) ∧
    (let b := ent opCascadeRoster 0 0 7 0 2
     adminJob (adm (rostered 3) b) 0 opCascadeRoster = some (jobOf 0 b) ∧ eAttr b = 2 ∧
     tget (adm (rostered 3) b).cas.roster (eLba b % 4096) = some (rosterE 3) ∧ ¬ ((rosterE 3).state = 1 ∧ (rosterE 3).present = true)) := by
  decide +kernel

/-! ### Media work, calibration, Masons, mover, cascade, MSP -/

/-- One channel of four LUNs in full service, whose first LUN has the state `f` gives it. -/
def lunState (f : Lun → Lun) : State :=
  let s := withLuns run 1
  { s with media := { s.media with luns := tmod s.media.luns 0 f } }

/-- A closed Course without valid data on block 0, and block erase counts far apart. -/
def worn (role : Role) (group : Nat) (y : Nat) : State :=
  let s := withLuns run 1
  { s with
    sys := { s.sys with ySys := y }
    media := { s.media with courses := [(1, ⟨role, [0], 1, [group], 1152, [(0, 0, [.unit 1 0 1])], false, 0⟩)]
                            blocks := [(0, ⟨.course, 0, 0⟩), (1, ⟨.quarry, 400, 0⟩)] } }

theorem witness_MediaWorkResult_polls :
    (let s := lunState id
     s.gbl.coreOn = true ∧ s.energy.parked = false ∧ s.liveLuns.contains (lunKey ⟨0, 0, 0⟩) = true) ∧
    (tget (lunState (fun l => { l with op := .erase 0 })).media.luns (lunKey ⟨0, 0, 0⟩)).map (·.op) = some (.erase 0) ∧
    (let s := lunState (fun l => { l with op := .erase 0, suspended := true })
     s.gbl.coreOn = true ∧ (tget s.media.luns (lunKey ⟨0, 0, 0⟩)).map (fun l => (l.suspended, l.failed)) = some (true, false) ∧
     s.energy.pfSeq = false) := by decide +kernel

theorem witness_MediaWorkResult_moves :
    ((worn .hot 3 0).mayMove = true ∧ (worn .hot 3 0).qLow ≤ (worn .hot 3 0).quarry) ∧
    (let s := worn .hot 3 4096
     s.mayMove = true ∧ s.gcShareOk = true ∧ s.quarry < s.qLow ∧ gcVictim s = some (1, 0) ∧ (tget s.media.courses 1).isSome = true ∧
     (emptyCourse s 1).isSome = true) ∧
    (run.mayMove = true ∧ wearSpread run = false) ∧
    (let s := worn .cold 3 0
     s.mayMove = true ∧ wearSpread s = true ∧ (leastWorn s).map (·.1) = some 1 ∧ (emptyCourse (openWorn s 1) 1).isSome = true) ∧
    (let s := worn .hot 3 0
     s.mayMove = true ∧ s.blkUse (blkKey (lunKey ⟨0, 0, 0⟩) (0 : BitVec 20).toNat) = .course ∧
     blockOwner s (blkKey (lunKey ⟨0, 0, 0⟩) (0 : BitVec 20).toNat) = some (1, 0)) ∧
    (let s := worn .cold 1 0
     s.mayMove = true ∧ s.gbl.fullService = true ∧
     (s.media.courses.find? (fun c => c.2.role == .cold && !c.2.isOpen && c.2.groups.all (· == 1) &&
       1 < maxOf (s.profs.map pfBits))).map (·.1) = some 1 ∧ (emptyCourse s 1).isSome = true) := by decide +kernel

theorem witness_MediaWorkResult_rest :
    (let s0 := worn .hot 3 0
     let s : State := { s0 with media := { s0.media with relocating := [0] } }
     run.media.relocating = [] ∧ s.mayMove = true ∧ s.media.relocating = 0 :: [] ∧ (placeMoved s []).isSome = true) ∧
    (run.background = true ∧ run.sys.t6 = true) ∧
    (let s : State := { run with hmap := { resetHmap with attached := true, scrubbing := [0], slots := [(3, (2 ^ 32, 1))] } }
     s.hmap.scrubbing = 0 :: [] ∧ s.hmapOn = true) ∧
    (run.gbl.coreOn = true ∧ run.media.probed = true ∧ run.energy.pfSeq = false) := by decide +kernel

/-- The calibration part of a running device. -/
def calState (f : Cal → Cal) : State := { run with cal := f run.cal }
/-- A device whose hold-up conditions hold: pin 2, four equal samples. -/
def holdReady (f : Cal → Cal) : State :=
  { calState f with
    aon := { run.aon with setRec := leBytes 8 0x005A04A107D00701 ++ leBytes 8 0x00000C8000001388 ++ leBytes 8 0x753002FD0A5505DC ++ leBytes 40 0 }
    energy := { run.energy with samples := [3600, 3600, 3600, 3600] } }

theorem witness_CalibrationResult :
    (run.hostAccess = true ∧ run.limited = false ∧ stoppedState.limited = true) ∧
    (let s := calState (fun c => { c with req0 := [0] })
     s.calRuns = true ∧ s.cal.req0 ≠ [] ∧ (∀ u ∈ s.cal.req0, (tget [(0, (⟨1, 8, 1, 8⟩ : Sweep), (⟨1, 8, 1, 8⟩ : Sweep))] u).isSome = true)) ∧
    (let s := calState (fun c => { c with req1 := [0] })
     s.calRuns = true ∧ s.gbl.recovered = true ∧ s.media.foreign = false ∧ s.cal.req0 = [] ∧ s.cal.req1 ≠ [] ∧
     (∀ u ∈ s.cal.req1, (tget [(0, (⟨[0, 0, 0, 0], true⟩ : Search), (⟨[0, 0, 0, 0], true⟩ : Search))] u).isSome = true)) ∧
    (let s := holdReady (fun c => { c with hold := .waiting 0 })
     s.cal.hold = .waiting 0 ∧ s.calRuns = true ∧ s.holdCond = true) ∧
    (let s := calState (fun c => { c with hold := .waiting 0 })
     s.cal.hold = .waiting 0 ∧ s.holdCond = false) ∧
    (calState (fun c => { c with hold := .discharging false 0 none 1 none })).cal.hold = .discharging false 0 none 1 none ∧
    (calState (fun c => { c with hold := .discharging true 0 none 1 (some 3872) })).cal.hold = .discharging true 0 none 1 (some 3872) ∧
    (calState (fun c => { c with hold := .recharging 0 1 none })).cal.hold = .recharging 0 1 none ∧
    (let s := holdReady (fun c => { c with holdRep := true })
     s.calRuns = true ∧ s.stopped = false ∧ s.cal.holdRep = true ∧ s.holdCond = true ∧ s.cal.hold = .idle) := by decide +kernel

/-- Both banks hold the reset image, channel 0 is in service. -/
def bothBanks : State := { masonUp with micro := { masonUp.micro with bank1 := some idleUcode } }

theorem witness_MasonResult :
    (bothBanks.hostAccess = true ∧ mcPermitted (mcFields bothBanks (0 ||| 2)) = true ∧
      (0 : Word).getLsbD 1 = false ∧ mcPermitted (mcFields bothBanks (0 ||| 1)) = true) ∧
    (stoppedState.hostAccess = true ∧ stoppedState.stopped = true ∧ stoppedState.limited = true) ∧
    (masonUp.gbl.coreOn = true ∧ masonIdle masonUp 0 = true ∧ (20 : Fin 32) ≠ 0 ∧ (20 : Fin 32).val ≤ 20 ∧
      (startWork masonUp 0 .none).isSome = true) ∧
    (masonUp.inService (0 : Fin 16).val = true) ∧
    (let s := setMason masonUp 0 { masonUp.mason 0 with pendSince := some 0 }
     s.gbl.coreOn = true ∧ s.inService (0 : Fin 16).val = true ∧ (s.mason 0).pendSince.isSome = true ∧ s.energy.pfSeq = false) ∧
    ((masonUp.mason 0).lastCheck = none) := by decide +kernel

/-- Mover channel 0 of a running device. -/
def movState (f : MovCh → MovCh) : State := setMov run 0 (f (run.mov 0))
/-- A run that copies 64 bytes of shared memory from 0x100000 to 0x200000, and one from attached DRAM that is not there. -/
def copyRun : MovRun := ⟨0x100000, 0x200000, 64, false, false, false, none, 0, true, false, 0, 0, 0, 0⟩
def badRun : MovRun := { copyRun with srcDram := true }

theorem witness_MoverResult_registers :
    (run.hostAccess = true ∧ run.limited = false ∧ stoppedState.hostAccess = true ∧ stoppedState.limited = true) ∧
    (run.energy.pfSeq = false ∧ (run.mov run.mover.sel).state = .idle ∧ (4 : Word).getLsbD 1 = false ∧ (4 : Word).getLsbD 2 = true ∧
      (0 : Word).getLsbD 2 = false ∧ (run.mov run.mover.sel).count = 0 ∧ (0 : Word).getLsbD 6 = false ∧ (0 : Word).getLsbD 7 = false ∧
      (0 : Word).getLsbD 1 = false ∧ (1 : Word).getLsbD 0 = true ∧ (0 : Word).getLsbD 0 = false) ∧
    ((movState (fun c => { c with count := 64 })).mov 0).count ≠ 0 ∧
    (let s := movState (fun c => { c with state := .running, bursts := [⟨0x200000, 64⟩] })
     s.hostAccess = true ∧ s.limited = false ∧ (s.mov s.mover.sel).state = .running ∧ (s.mov s.mover.sel).bursts = ⟨0x200000, 64⟩ :: []) ∧
    (let s := movState (fun c => { c with state := .running })
     (s.mov s.mover.sel).state = .running ∧ (s.mov s.mover.sel).bursts = []) ∧
    (run.gbl.coreOn = true ∧ run.calPin ≠ some 0) := by decide +kernel

theorem witness_MoverResult_bursts :
    (let s := movState (fun c => { c with state := .running, mode := true, next := 0x100000 })
     (s.mov 0).state = .running ∧ (s.mov 0).mode = true ∧ (s.mov 0).run = none ∧
     movRead (absorbBus s deadBus) deadBus false (s.mov 0).next.toNat 32 = none ∧
     movRead (absorbBus s quietBus) quietBus false (s.mov 0).next.toNat 32 = some (List.replicate 32 0)) ∧
    (let s := movState (fun c => { c with state := .running, run := some copyRun, count := 64 })
     (s.mov 0).run = some copyRun ∧ (s.mov 0).state = .running ∧ (s.mov 0).bursts.length < 4 ∧ (s.mov 0).begun < copyRun.count) ∧
    (let s := movState (fun c => { c with state := .running, run := some copyRun, count := 64, bursts := [⟨0x200000, 64⟩] })
     (s.mov 0).run = some copyRun ∧ (s.mov 0).bursts = ⟨0x200000, 64⟩ :: [] ∧
     burstData (absorbBus s deadBus) deadBus copyRun ⟨0x200000, 64⟩ = none ∧
     burstData (absorbBus s quietBus) quietBus copyRun ⟨0x200000, 64⟩ = some (List.replicate 64 0) ∧
     (movWrite (absorbBus s quietBus) copyRun.dstDram 0x200000 (List.replicate 64 0)).2 = true) ∧
    (movWrite (absorbBus run quietBus) true 0x200000 (List.replicate 64 0)).2 = false ∧
    burstData (absorbBus run quietBus) quietBus badRun ⟨0x200000, 64⟩ = none := by decide +kernel

/-- Port 1 of the cascade device with the state `f` gives it. -/
def portState (f : Port → Port) : State := modPort casUp 1 f

theorem witness_PortResult :
    (let s := portState (fun t => { t with trained := false })
     s.mayTrain 1 = true) ∧
    (let s := portState (fun t => { t with trained := false, training := true })
     s.casOn = true ∧ s.cas.ports[(1 : Fin 3)].training = true ∧ s.cas.ports[(1 : Fin 3)].blockLock = true ∧
     (0 : Byte) ≠ 1 ∧ ¬ ((1 : Byte) = 1 ↔ (1 : Fin 3) = 0) ∧ (1 : Byte).toNat ≤ 1 ∧ s.cas.ports[(1 : Fin 3)].rxTrain < 15 ∧
     ¬ (false = true ∧ s.keystone = true) ∧ ((0 : Byte) = 1 ↔ (1 : Fin 3) = 0) ∧ (0 : Byte).toNat ≤ 1) ∧
    15 ≤ (portState (fun t => { t with rxTrain := 15 })).cas.ports[(1 : Fin 3)].rxTrain ∧
    casUp.casOn = true ∧ casUp.cas.ports[(1 : Fin 3)].blockLock = true ∧
    (portState (fun t => { t with blockLock := false })).cas.ports[(1 : Fin 3)].blockLock = false ∧
    (let s := portState (fun t => { t with replay := [(5, (rxOf 1 0 []).pkt)] })
     s.rxOn 1 = true ∧ (s.cas.ports[(1 : Fin 3)].ackTo 5).length ≠ s.cas.ports[(1 : Fin 3)].replay.length ∧
     s.cas.ports[(1 : Fin 3)].replay.any (fun x => x.1 == 5) = true ∧ s.cas.ports[(1 : Fin 3)].replays < 16 ∧
     s.cas.ports[(1 : Fin 3)].replay ≠ [] ∧ s.cas.ports[(1 : Fin 3)].trained = true) ∧
    16 ≤ (portState (fun t => { t with replays := 16 })).cas.ports[(1 : Fin 3)].replays := by decide +kernel

/-- A packet of a type with a payload of the right length, addressed to member 0, and one for another member. -/
def good (type cls n : Nat) : Rx := rxOf type cls (List.replicate n 0)
def taken (s : State) (p : Fin 3) (rx : Rx) : State := freeRx (receive s p rx).1 p rx.pkt

theorem witness_PacketResult_receive : casUp.rxOn 0 = true ∧ (good 1 0 70).stomp = false ∧ (good 1 0 70).crcOk = true ∧
    (good 1 0 70).seq = casUp.cas.ports[(0 : Fin 3)].rxSeq ∧ ({ good 1 0 70 with crcOk := false } : Rx).crcOk = false ∧
    (let rx : Rx := { good 1 0 70 with seq := 2047 }
     1 ≤ (rx.seq - casUp.cas.ports[(0 : Fin 3)].rxSeq).toNat ∧ (rx.seq - casUp.cas.ports[(0 : Fin 3)].rxSeq).toNat < 2048) ∧
    (receive casUp 0 (good 1 0 70)).2 = true ∧ (receive (absorbBus casUp quietBus) 0 (good 2 1 16)).2 = true := by decide +kernel

theorem witness_PacketResult_types :
    (∀ x ∈ [(0x10, 1, 8), (0x11, 2, 0), (0x12, 1, 32), (0x13, 2, 384), (0x16, 1, 2), (0x03, 2, 64), (0x05, 2, 48), (0x02, 1, 16),
      (0x04, 1, 64), (0x01, 0, 70)],
      (receive casUp 0 (good x.1 x.2.1 x.2.2)).2 = true ∧ pktOk x.1 (good x.1 x.2.1 x.2.2).pkt = true) ∧
    (let rx := rxOf 0x15 1 (leBytes 2 3 ++ leBytes 2 0)
     pktOk 0x15 rx.pkt = true) ∧
    (∃ n ∈ [256, 128, 64, 2, 0], pktOk 0x17 (good 0x17 2 n).pkt = true) ∧
    (let rx := rxOf 0x14 1 (leBytes 4 1)
     pktOk 0x14 rx.pkt = true ∧ (taken casUp 0 rx).forMe 0 rx.pkt = true ∧ (taken casUp 0 rx).keystone = false) ∧
    (let rx := rxOf 0x14 1 (leBytes 4 2)
     let s : State := { keyUp with cas := { keyUp.cas with stands := [(5, (1, 1))] } }
     (taken s 1 rx).forMe 1 rx.pkt = true ∧ (taken s 1 rx).keystone = true ∧ fieldAt rx.pkt.payload 0 4 = 2 ∧
     tget (taken s 1 rx).standing rx.pkt.src = some (1, 1)) ∧
    (let s : State := { casUp with cas := { casUp.cas with enumerated := true, memberId := 9 } }
     (taken s 0 (good 0x14 1 4)).forMe 0 (good 0x14 1 4).pkt = false) ∧
    (let s : State := { casUp with cas := { casUp.cas with enumerated := true } }
     let r := (receive s 0 (good 1 0 70)).1
     r.forMe 0 (good 1 0 70).pkt = true ∧ r.cas.enumerated = true ∧ r.stopped = false) ∧
    pktOk (good 1 0 69).pkt.type (good 1 0 69).pkt = false ∧
    (let a : Attest := ⟨7, 1, 1, [], 9, 0⟩
     let s : State := { keyUp with cas := { keyUp.cas with attests := [a] } }
     s.cas.attests = a :: [] ∧ s.casOn = true ∧ s.keystone = true) := by decide +kernel

/-- The HCRC a frame's header needs. -/
def hcrc (op : Nat) (arg : BitVec 16) (payload : List Byte) : BitVec 16 := crc16 (leBytes 1 op ++ leBytes 2 arg.toNat ++ payload)

theorem witness_MspResult_reads : aonUp.pins.vaon = true ∧ hcrcOk 0x01 0 [] (hcrc 0x01 0 []) = true ∧
    hcrcOk 0x01 7 [] (hcrc 0x01 0 []) = false ∧ hcrcOk 0x01 7 [] (hcrc 0x01 7 []) = true ∧ (7 : BitVec 16) ≠ 0 ∧
    hcrcOk 0x02 7 [] (hcrc 0x02 7 []) = true ∧ hcrcOk 0x02 0 [] (hcrc 0x02 0 []) = true ∧
    hcrcOk 0x03 0x100 [] (hcrc 0x03 0x100 []) = true ∧ 0xF8 < (0x100 : BitVec 16).toNat ∧
    hcrcOk 0x03 0xF8 [] (hcrc 0x03 0xF8 []) = true ∧ (0xF8 : BitVec 16).toNat % 8 = 0 ∧ (0xF8 : BitVec 16).toNat ≤ 0xF8 ∧
    hcrcOk 0x10 4 [] (hcrc 0x10 4 []) = true ∧ 3 < (4 : BitVec 16).toNat ∧
    hcrcOk 0x10 3 [] (hcrc 0x10 3 []) = true ∧ (3 : BitVec 16).toNat ≤ 3 ∧ (3 : BitVec 16) ≠ 2 ∧
    (endFrame aonUp).mspPolicy.getLsbD 0 = true ∧ (endFrame aonUp).coreOff = true ∧
    (endFrame run).mspPolicy.getLsbD 0 = true ∧ (endFrame run).coreOff = false ∧
    (endFrame { run with aon := { run.aon with policy := some 0 } }).mspPolicy.getLsbD 0 = false ∧
    (0xFF : Byte).toNat ∉ [0x01, 0x02, 0x03, 0x10, 0x40, 0x41, 0x60] ∧ hcrcOk (0xFF : Byte).toNat 0 [] (hcrc 0xFF 0 []) = true ∧
    0x20 ≤ 0x27 ∧ 0x27 < 0x28 := by decide +kernel

theorem witness_MspResult_orders :
    hcrcOk 0x40 0 (leBytes 4 (1 : Word).toNat) 0 = false ∧
    (let s : State := { run with aon := { run.aon with policy := some 0x4B1 } }
     s.pins.vaon = true ∧ hcrcOk 0x60 0x48 (leBytes 8 (1 : DWord).toNat) (hcrc 0x60 0x48 (leBytes 8 1)) = true ∧
     hcrcOk 0x60 0x47 (leBytes 8 (1 : DWord).toNat) (hcrc 0x60 0x47 (leBytes 8 1)) = true ∧ (0x47 : BitVec 16).toNat < 0x48 ∧
     hcrcOk 0x60 0x5F (leBytes 8 (1 : DWord).toNat) (hcrc 0x60 0x5F (leBytes 8 1)) = true ∧ (0x5F : BitVec 16).toNat ≤ 0x5F ∧
     (endFrame s).mspPolicy.getLsbD 4 = true ∧ ((endFrame s).aon.shadow[(0x48 : BitVec 16).toNat]?).getD 0 &&& ~~~(1 : DWord) = 0) ∧
    (let s : State := { run with aon := { run.aon with policy := some 0x4B1, shadow := Vector.replicate 256 2 } }
     ((endFrame s).aon.shadow[(0x48 : BitVec 16).toNat]?).getD 0 &&& ~~~(1 : DWord) ≠ 0) ∧
    (endFrame run).mspPolicy.getLsbD 4 = false ∧
    (let s : State := { aonUp with aon := { aonUp.aon with frame := some ⟨some (0x5F, 1), 0, []⟩ } }
     s.pins.vaon = true ∧ s.aon.frame = some ⟨some (0x5F, 1), 0, []⟩ ∧ 0x5F < 256 ∧ 2048 ≤ 2176) ∧
    (let s : State := { run with aon := { run.aon with reqGen := 1 } }
     s.coreOff = false ∧ s.energy.pfSeq = false ∧ s.aon.ackGen ≠ s.aon.reqGen) ∧
    ({ run with aon := { run.aon with reqCh := 1 } } : State).disagrees = true ∧
    (let s : State := { run with aon := { run.aon with thermDue := 3 } }
     s.gbl.coreOn = true ∧ s.aon.thermDue.getLsbD (if true = true then 1 else 0) = true ∧
     s.aon.thermDue.getLsbD (if false = true then 1 else 0) = true ∧ s.pins.pfailN = true ∧ s.energy.pfSeq = false ∧ s.aon.frame = none) := by
  decide +kernel

end Sys2Proof.Tests
end

section
/-! SUPPORT. The register page: which gate a write passes, what each shared operation of a write changes, and the RWL rule. -/

namespace Sys2Proof.Machine

/-! ### Signals leave the gates of the register page alone -/

/-- A message changes the pending bits and the messages sent, nothing else of the PCIe function. -/
theorem Pcie.send_eq (p : Pcie) (v : Nat) :
    p.send v = { p with pba := (p.send v).pba, msiPending := (p.send v).msiPending, sent := (p.send v).sent } := by
  unfold Pcie.send
  dsimp only
  repeat' split
  all_goals rfl

theorem hostAccess_send (s : State) (v : Nat) : State.hostAccess { s with pcie := s.pcie.send v } = s.hostAccess := by
  rw [Pcie.send_eq]
  rfl

/-- A signal changes the PCIe function at most, by one message. -/
theorem sendVector_cases (s : State) (v : Nat) : sendVector s v = s ∨ sendVector s v = { s with pcie := s.pcie.send v } := by
  unfold sendVector
  split
  · exact .inl rfl
  · exact .inr rfl

@[simp] theorem sendVector_hostAccess (s : State) (v : Nat) : (sendVector s v).hostAccess = s.hostAccess := by
  rcases sendVector_cases s v with h | h
  · rw [h]
  · rw [h, hostAccess_send]

theorem sendVector_eq (s : State) (v : Nat) : sendVector s v = { s with pcie := (sendVector s v).pcie } := by
  rcases sendVector_cases s v with h | h <;> rw [h]

/-- Setting status bits changes GBL_IRQ_STATUS, and the PCIe function by a message at most (R169). -/
theorem setIrq_eq (s : State) (bits : BitVec 13) :
    setIrq s bits = { s with gbl := { s.gbl with irqStatus := s.gbl.irqStatus ||| bits }, pcie := (setIrq s bits).pcie } := by
  unfold setIrq
  dsimp only
  split
  · exact sendVector_eq _ _
  · rfl

@[simp] theorem setIrq_hostAccess (s : State) (bits : BitVec 13) : (setIrq s bits).hostAccess = s.hostAccess := by
  unfold setIrq
  dsimp only
  split
  · exact sendVector_hostAccess _ _
  · rfl

@[simp] theorem setIrq_prot (s : State) (bits : BitVec 13) : (setIrq s bits).prot = s.prot :=
  (setIrq_quiet (Quiet.refl s) bits).prot
@[simp] theorem setIrq_energy (s : State) (bits : BitVec 13) : (setIrq s bits).energy = s.energy := by
  rw [setIrq_eq]
@[simp] theorem setIrq_gbl (s : State) (bits : BitVec 13) :
    (setIrq s bits).gbl = { s.gbl with irqStatus := s.gbl.irqStatus ||| bits } := congrArg State.gbl (setIrq_eq s bits)

@[simp] theorem setIrq_limited (s : State) (bits : BitVec 13) : (setIrq s bits).limited = s.limited := by
  simp [State.limited, State.stopped]

/-! ### A refresh of the state register -/

@[simp] theorem refresh_lock (s : State) : (refresh s).gbl.lock = s.gbl.lock := by
  unfold refresh
  dsimp only
  repeat' split
  all_goals simp [noteGen]

@[simp] theorem refresh_hostAccess (s : State) : (refresh s).hostAccess = s.hostAccess := by
  unfold refresh
  dsimp only
  repeat' split
  · rfl
  · rw [setIrq_hostAccess]
    exact setIrq_hostAccess _ _
  · exact setIrq_hostAccess _ _

@[simp] theorem refresh_limited (s : State) : (refresh s).limited = s.limited := by
  unfold refresh
  dsimp only
  repeat' split
  all_goals simp [State.limited, State.stopped, noteGen]

@[simp] theorem refresh_prot (s : State) : (refresh s).prot = s.prot := (refresh_quiet (Quiet.refl s)).prot
@[simp] theorem refresh_aon (s : State) : (refresh s).aon = s.aon := (refresh_quiet (Quiet.refl s)).aon

/-! ### The RWL rule -/

@[simp] theorem violation_prot (s : State) (off : Nat) :
    (violation s off).prot = { s.prot with count := if s.prot.count = 0xFFFF then 0xFFFF else s.prot.count + 1
                                           lastOffset := BitVec.ofNat 12 off } := setIrq_prot _ _
@[simp] theorem violation_gbl (s : State) (off : Nat) :
    (violation s off).gbl = { s.gbl with irqStatus := s.gbl.irqStatus ||| irqProt } := setIrq_gbl _ _
@[simp] theorem violation_hostAccess (s : State) (off : Nat) : (violation s off).hostAccess = s.hostAccess := setIrq_hostAccess _ _
@[simp] theorem violation_limited (s : State) (off : Nat) : (violation s off).limited = s.limited := setIrq_limited _ _

theorem rwlWrite_locked {s : State} (h : s.gbl.lock = true) (off : Nat) (f : State → State) : rwlWrite s off f = violation s off :=
  if_pos h

theorem rwlWrite_unlocked {s : State} (h : s.gbl.lock = false) (off : Nat) (f : State → State) : rwlWrite s off f = f s :=
  if_neg (by simp [h])

/-- BOOT_LOCK written 1, with LOCK clear before, sets LOCK and reports the state. -/
theorem writeBootLock_unlocked {s : State} (h : s.gbl.lock = false) :
    writeBootLock s 1 = refresh { s with gbl := { s.gbl with lock := true } } := rwlWrite_unlocked h _ _

/-- What the lock write leaves: LOCK set, the registers it protects, and both gates of the register page. -/
theorem writeBootLock_one (s : State) :
    (writeBootLock s 1).gbl.lock = true ∧ (writeBootLock s 1).prot.rwl = s.prot.rwl ∧
    (writeBootLock s 1).hostAccess = s.hostAccess ∧ (writeBootLock s 1).limited = s.limited := by
  cases h : s.gbl.lock with
  | true =>
    rw [writeBootLock, rwlWrite_locked h]
    exact ⟨by simp [h], by simp [Prot.rwl], violation_hostAccess _ _, violation_limited _ _⟩
  | false =>
    rw [writeBootLock_unlocked h]
    exact ⟨refresh_lock _, congrArg Prot.rwl (refresh_prot _), refresh_hostAccess _, refresh_limited _⟩

/-- With LOCK set, a write to any RWL register is counted under its own offset, and does nothing else (R9). -/
theorem writeRunning_rwl_locked {s : State} (h : s.gbl.lock = true) {off : Nat} (ho : off ∈ [0x030, 0x038, 0x03C, 0x040, 0x0D0])
    (v : Word) : writeRunning s off v = violation s off := by
  simp only [List.mem_cons, List.not_mem_nil, or_false] at ho
  rcases ho with rfl | rfl | rfl | rfl | rfl <;>
    simp only [writeRunning, writeBootLock, writeQpart, writePolicy, writePhbWin, rwlWrite_locked h]

/-- The mask that PROT_QPART_SEL names reads back as written; all ones is the mask of a queue with no entry (Table 6-12). -/
theorem writeQpart_unlocked {s : State} (h : s.gbl.lock = false) (v : Word) :
    ∃ t, writeQpart s v = { s with prot := { s.prot with qpart := t } } ∧
      (tget t s.prot.qpartSel.toNat).getD 0xFFFFFFFF = v := by
  refine ⟨_, rwlWrite_unlocked h _ _, ?_⟩
  split
  · rename_i hv
    rw [tget_tdel_self, hv, Option.getD_none]
  · rw [tget_tput_self, Option.getD_some]

theorem writePolicy_unlocked {s : State} (h : s.gbl.lock = false) (v : Word) :
    writePolicy s v.toNat = { s with prot := { s.prot with policy := v.truncate 11 }
                                     aon := { s.aon with policy := some (v.truncate 11) } } := by
  rw [writePolicy, rwlWrite_unlocked h, BitVec.ofNat_toNat]

/-! ### The gates of a register write -/

theorem regWrite_noAccess {s : State} (h : s.hostAccess = false) (off : Nat) (v : Word) : regWrite s off v = s := by
  simp [regWrite, h]

/-- A register that takes writes in every state (R180). -/
theorem regWrite_always {s t : State} {off : Nat} {v : Word} (h : s.hostAccess = true) (hw : writeAlways s off v = some t) :
    regWrite s off v = t := by
  simp [regWrite, h, hw]

/-- A register that takes writes only while the device is not limited. -/
theorem regWrite_running {s : State} {off : Nat} {v : Word} (h : s.hostAccess = true) (hl : s.limited = false)
    (hw : writeAlways s off v = none) : regWrite s off v = writeRunning s off v := by
  simp [regWrite, h, hl, hw]

theorem regWrite_limited {s : State} {off : Nat} {v : Word} (hl : s.limited = true) (hw : writeAlways s off v = none) :
    regWrite s off v = s := by
  simp [regWrite, hl, hw]

theorem writeAlways_none {off : Nat}
    (h : off ∉ [0x010, 0x01C, 0x020, 0x034, 0x05C, 0x068, 0x084, 0x094, 0x0B0, 0x0B4, 0x0C4, 0x0CC]) (s : State) (v : Word) :
    writeAlways s off v = none := by
  unfold writeAlways
  split <;> simp at h ⊢

theorem writeRunning_reserved {off : Nat} (h : 0x0D4 ≤ off) (s : State) (v : Word) : writeRunning s off v = s := by
  unfold writeRunning
  split <;> simp at h ⊢

/-- A write to a reserved offset is ignored (R3). -/
theorem regWrite_reserved {off : Nat} (h : 0x0D4 ≤ off) (s : State) (v : Word) : regWrite s off v = s := by
  have hw : writeAlways s off v = none := writeAlways_none (by simp; omega) s v
  simp [regWrite, hw, writeRunning_reserved h]

theorem readReg_reserved {s : State} (hu : s.gbl.up = true) {off : Nat} (h : 0x0D4 ≤ off) : s.readReg off = 0 := by
  unfold State.readReg
  rw [hu]
  simp only [Bool.not_true, Bool.false_eq_true, if_false]
  split <;> simp at h ⊢

/-! ### REGISTER_WRITE and its place in the queue -/

/-- A write that is not whole or not aligned reaches no register (R6). -/
theorem exec_registerWrite_partial {s : State} {off : BitVec 12} {be : BitVec 4}
    (h : be ≠ 0xF ∨ (s.phb = false ∧ off.toNat % 4 ≠ 0)) (v : Word) : exec (.registerWrite off v be) s = .next s :=
  if_pos (by simpa using h)

/-- A write either reaches no register, or is a write of the register its offset lies in (R6). -/
theorem exec_registerWrite_cases (s : State) (off : BitVec 12) (v : Word) (be : BitVec 4) :
    exec (.registerWrite off v be) s = .next s ∨
    exec (.registerWrite off v be) s = .next (regWrite s (off.toNat / 4 * 4) v) := by
  show execRegisterWrite off v be s = _ ∨ execRegisterWrite off v be s = _
  unfold execRegisterWrite
  dsimp only
  split
  · exact .inl rfl
  · exact .inr rfl

/-- A write for which its register does nothing changes nothing, whole or not. -/
theorem exec_registerWrite_ignored {s : State} {off : BitVec 12} {v : Word} (h : regWrite s (off.toNat / 4 * 4) v = s)
    (be : BitVec 4) : exec (.registerWrite off v be) s = .next s := by
  rcases exec_registerWrite_cases s off v be with e | e
  · exact e
  · rw [e, h]

theorem exec_registerWrite_whole {off : BitVec 12} (h : off.toNat % 4 = 0) (s : State) (v : Word) :
    exec (.registerWrite off v 0xF) s = .next (regWrite s off.toNat v) := by
  show execRegisterWrite off v 0xF s = _
  have ha : off.toNat / 4 * 4 = off.toNat := by omega
  simp [execRegisterWrite, h, ha]

theorem exec_registerWrite_always {s t : State} {off : BitVec 12} {v : Word} (h : s.hostAccess = true) (ha : off.toNat % 4 = 0)
    (hw : writeAlways s off.toNat v = some t) : exec (.registerWrite off v 0xF) s = .next t := by
  rw [exec_registerWrite_whole ha, regWrite_always h hw]

theorem exec_registerWrite_running {s : State} {off : BitVec 12} (h : s.hostAccess = true) (hl : s.limited = false)
    (ha : off.toNat % 4 = 0) {v : Word} (hw : writeAlways s off.toNat v = none) :
    exec (.registerWrite off v 0xF) s = .next (writeRunning s off.toNat v) := by
  rw [exec_registerWrite_whole ha, regWrite_running h hl hw]

theorem exec_bootLockSet {s : State} (h : s.hostAccess = true) (hl : s.limited = false) :
    exec .bootLockSet s = .next (writeBootLock s 1) := congrArg Host.Outcome.next (regWrite_running h hl rfl)

theorem step_of_pending {s : State} {c : Instr} {cs : List Instr} (h : s.pending = c :: cs) :
    step s = exec c { s with pending := cs } := by
  simp [step, h]

theorem step_registerWrite_running {s : State} {off : BitVec 12} {v : Word} {rest : List Instr}
    (hp : s.pending = .registerWrite off v 0xF :: rest) (h : s.hostAccess = true) (hl : s.limited = false) (ha : off.toNat % 4 = 0)
    (hw : writeAlways { s with pending := rest } off.toNat v = none) :
    step s = .next (writeRunning { s with pending := rest } off.toNat v) := by
  rw [step_of_pending hp]
  exact exec_registerWrite_running (s := { s with pending := rest }) h hl ha hw

/-- With LOCK set, a waiting write to an RWL register ends counted under its offset (R9). -/
theorem step_rwl_locked {s : State} {off : BitVec 12} {v : Word} {rest : List Instr}
    (hp : s.pending = .registerWrite off v 0xF :: rest) (h : s.hostAccess = true) (hl : s.limited = false) (hk : s.gbl.lock = true)
    (ho : off.toNat ∈ [0x030, 0x038, 0x03C, 0x040, 0x0D0]) : step s = .next (violation { s with pending := rest } off.toNat) := by
  have ha : off.toNat % 4 = 0 := by simp at ho; omega
  have hw : writeAlways { s with pending := rest } off.toNat v = none := writeAlways_none (by simp at ho ⊢; omega) _ v
  rw [step_registerWrite_running hp h hl ha hw]
  exact congrArg Host.Outcome.next (writeRunning_rwl_locked (s := { s with pending := rest }) hk ho v)

/-- A waiting BOOT_LOCK sets LOCK and leaves the protection registers and the always-on logic (R9). -/
theorem step_bootLockSet {s : State} {rest : List Instr} (hp : s.pending = .bootLockSet :: rest) (h : s.hostAccess = true)
    (hl : s.limited = false) (hk : s.gbl.lock = false) :
    ∃ t, step s = .next t ∧ t.gbl.lock = true ∧ t.prot = s.prot ∧ t.aon = s.aon := by
  have hexec : exec .bootLockSet { s with pending := rest } = .next (writeBootLock { s with pending := rest } 1) :=
    exec_bootLockSet (s := { s with pending := rest }) h hl
  rw [step_of_pending hp, hexec, writeBootLock_unlocked (s := { s with pending := rest }) hk]
  exact ⟨_, rfl, refresh_lock _, refresh_prot _, refresh_aon _⟩

end Sys2Proof.Machine
end

section
/-! PROOFS. The obligations about the register page: reserved offsets (R3), the gates of a write (R6, R180, R417), and the RWL rule in
arrival order (R9). -/

namespace Sys2Proof.Machine

/-- Settles O35: no case of either decoder of the page reaches beyond 0x0D0. -/
theorem reservedOffsetsReadZero : Obligations.ReservedOffsetsReadZero := by
  intro s off h
  exact ⟨fun hu => readReg_reserved hu h, fun v be => exec_registerWrite_ignored (regWrite_reserved (by omega) s v) be⟩

/-- Settles O36: each register's write through the gates it passes. -/
theorem registerWriteResult : Obligations.RegisterWriteResult := by
  refine ⟨fun s off v be h => ?_, fun s v h => ?_, fun s v h hl => ?_, fun s off v be hl hn => ?_⟩
  · rcases h with h | h | h
    · exact exec_registerWrite_partial (.inl h) v
    · exact exec_registerWrite_partial (.inr h) v
    · exact exec_registerWrite_ignored (regWrite_noAccess h _ v) be
  · exact ⟨exec_registerWrite_always h rfl rfl, exec_registerWrite_always h rfl rfl, exec_registerWrite_always h rfl rfl,
      exec_registerWrite_always h rfl rfl, exec_registerWrite_always h rfl rfl, exec_registerWrite_always h rfl rfl⟩
  · exact ⟨exec_registerWrite_running h hl rfl rfl, exec_registerWrite_running h hl rfl rfl, exec_registerWrite_running h hl rfl rfl,
      exec_registerWrite_running h hl rfl rfl, exec_registerWrite_running h hl rfl rfl⟩
  · exact exec_registerWrite_ignored (regWrite_limited hl (writeAlways_none hn s v)) be

/-- LOCK first: the later write to an RWL register is counted with its offset, and every RWL register stays. -/
theorem lock_then_rwlWrite {s : State} {off : BitVec 12} {v : Word} {rest : List Instr} (h : s.hostAccess = true)
    (hl : s.limited = false) (ho : off.toNat ∈ [0x030, 0x038, 0x03C, 0x040, 0x0D0])
    (hp : s.pending = .registerWrite off v 0xF :: rest) :
    ∃ a b, exec .bootLockSet s = .next a ∧ step a = .next b ∧ b.gbl.lock = true ∧ b.prot.rwl = s.prot.rwl ∧ b.prot.lastOffset = off ∧
      (s.gbl.lock = false → b.prot.count = if s.prot.count = 0xFFFF then 0xFFFF else s.prot.count + 1) ∧
      b.gbl.irqStatus.getLsbD 10 = true := by
  obtain ⟨hlock, hrwl, hacc, hlim⟩ := writeBootLock_one s
  have hpend : (writeBootLock s 1).pending = .registerWrite off v 0xF :: rest := (writeBootLock_stays (Stays.refl s) 1).pending.trans hp
  have hcount : s.gbl.lock = false → (writeBootLock s 1).prot = s.prot := fun hk => by
    rw [writeBootLock_unlocked hk]
    exact refresh_prot _
  refine ⟨_, _, exec_bootLockSet h hl, step_rwl_locked hpend (hacc.trans h) (hlim.trans hl) hlock ho, ?_⟩
  generalize writeBootLock s 1 = a at hlock hrwl hcount
  refine ⟨?_, ?_, ?_, fun hk => ?_, ?_⟩
  · simpa using hlock
  · simpa [Prot.rwl] using hrwl
  · simp
  · simp [hcount hk]
  · simp [irqProt]

/-- The RWL write first: where it changes protection registers and what the always-on logic takes over, BOOT_LOCK then passes both gates,
sets LOCK and leaves the registers as written. -/
theorem rwlWrite_then_lock {s : State} {off : BitVec 12} {v : Word} {rest : List Instr} {p : Prot} {a : Aon} (h : s.hostAccess = true)
    (hl : s.limited = false) (hk : s.gbl.lock = false) (ha : off.toNat % 4 = 0)
    (hw : writeAlways { s with pending := .bootLockSet :: rest } off.toNat v = none)
    (ht : writeRunning { s with pending := .bootLockSet :: rest } off.toNat v =
      { s with prot := p, aon := a, pending := .bootLockSet :: rest }) (hphb : a.phb = s.aon.phb) :
    ∃ t b, step { s with pending := .registerWrite off v 0xF :: .bootLockSet :: rest } = .next t ∧ step t = .next b ∧
      b.gbl.lock = true ∧ b.prot = p ∧ b.aon = a := by
  have hacc : State.hostAccess { s with prot := p, aon := a, pending := .bootLockSet :: rest } = true := by
    simpa [State.hostAccess, State.linkUp, State.phb, hphb] using h
  obtain ⟨b, hb, hlock, hprot, haon⟩ :=
    step_bootLockSet (s := { s with prot := p, aon := a, pending := .bootLockSet :: rest }) rfl hacc hl hk
  refine ⟨_, b, ?_, hb, hlock, hprot, haon⟩
  rw [← ht]
  exact step_registerWrite_running (s := { s with pending := .registerWrite off v 0xF :: .bootLockSet :: rest }) rfl h hl ha hw

/-- Settles O37: LOCK is read when the write arrives, so each order is two steps of which the first leaves both gates open. -/
theorem rwlWriteAfterLockIgnored : Obligations.RwlWriteAfterLockIgnored := by
  refine ⟨fun s off v rest h hl ho => ?_, fun s v rest h hl hk => ⟨?_, ?_, ?_⟩⟩
  · have hmem : off.toNat ∈ [0x030, 0x038, 0x03C, 0x040, 0x0D0] := by
      rcases ho with rfl | rfl | rfl | rfl | rfl <;> decide
    obtain ⟨a, b, hstep, hb, hlock, hrwl, hoff, hcount, hirq⟩ :=
      lock_then_rwlWrite (s := { s with pending := .registerWrite off v 0xF :: rest }) h hl hmem rfl
    simp only [Prot.rwl, Prod.mk.injEq] at hrwl
    exact ⟨a, b, hstep, hb, hlock, hrwl, hoff, hcount, hirq⟩
  · obtain ⟨t, b, hstep, hb, hlock, hprot, -⟩ := rwlWrite_then_lock (off := 0x040) (v := v) (rest := rest) h hl hk rfl rfl
      (rwlWrite_unlocked (s := { s with pending := .bootLockSet :: rest }) hk 0x040
        (fun s => { s with prot := { s.prot with retainMin := v.truncate 16 } })) rfl
    exact ⟨t, b, hstep, hb, hlock, by rw [hprot], by rw [hprot]⟩
  · obtain ⟨t, b, hstep, hb, hlock, hprot, haon⟩ := rwlWrite_then_lock (off := 0x03C) (v := v) (rest := rest) h hl hk rfl rfl
      (writePolicy_unlocked (s := { s with pending := .bootLockSet :: rest }) hk v) rfl
    exact ⟨t, b, hstep, hb, hlock, by rw [hprot], by rw [haon], by rw [hprot]⟩
  · obtain ⟨masks, hmasks, hread⟩ := writeQpart_unlocked (s := { s with pending := .bootLockSet :: rest }) hk v
    obtain ⟨t, b, hstep, hb, hlock, hprot, -⟩ := rwlWrite_then_lock (off := 0x038) (v := v) (rest := rest) h hl hk rfl rfl hmasks rfl
    exact ⟨t, b, hstep, hb, hlock, by rw [State.qmask, hprot]; exact hread, by rw [hprot]⟩

end Sys2Proof.Machine
end

section
/-! SUPPORT. The rising edge of RESET_N and the instructions of the TAP: what a failure does while the core is off, what the strap latch
puts into the state, and when a boundary-scan instruction ends a deferred rise. -/

namespace Sys2Proof.Machine

/-! ### A refresh changes the state it reports, status bits and OVERDRIVE -/

theorem setIrq_pins (s : State) (bits : BitVec 13) : (setIrq s bits).pins = s.pins := by
  rw [setIrq_eq]

@[simp] theorem refresh_pins (s : State) : (refresh s).pins = s.pins := by
  unfold refresh
  dsimp only
  repeat' split
  all_goals simp [setIrq_pins, noteGen]

theorem refresh_gbl (s : State) : (refresh s).gbl = { s.gbl with
    state := (refresh s).gbl.state, irqStatus := (refresh s).gbl.irqStatus, overdrive := (refresh s).gbl.overdrive } := by
  unfold refresh
  dsimp only
  repeat' split
  all_goals simp [noteGen]

@[simp] theorem refresh_failed (s : State) : (refresh s).gbl.failed = s.gbl.failed := by rw [refresh_gbl]
@[simp] theorem refresh_halt (s : State) : (refresh s).gbl.halt = s.gbl.halt := by rw [refresh_gbl]
@[simp] theorem refresh_tick (s : State) : (refresh s).gbl.tick = s.gbl.tick := by rw [refresh_gbl]
@[simp] theorem refresh_strapsCompared (s : State) : (refresh s).gbl.strapsCompared = s.gbl.strapsCompared := by rw [refresh_gbl]

/-- A refresh reports the state that R18 and R435 select, but for the parked device (R396). -/
theorem refresh_state (s : State) : (refresh s).gbl.state = if s.energy.parked = true then s.gbl.state else s.stateNow := by
  unfold refresh
  dsimp only
  cases hp : s.energy.parked with
  | true => simp
  | false =>
    simp only [Bool.or_false, decide_eq_true_eq, Bool.false_eq_true, if_false]
    split
    · rename_i h
      exact h.symm
    · split <;> simp [noteGen]

theorem stateNow_failed {s : State} (h : s.gbl.failed = true) : s.stateNow = .failed := if_pos h

/-! ### A failure with the first cause -/

theorem logEvent_halt (s : State) (type : Nat) (fs : List (Nat × Nat × Nat)) : (logEvent s type fs).gbl.halt = s.gbl.halt := by
  unfold logEvent
  dsimp only
  repeat' split
  all_goals simp

theorem recordCause_first {s : State} (h : s.gbl.halt.cause = 0) (cause : BitVec 8) (detail : Nat) :
    (recordCause s cause detail).gbl.halt = ⟨cause, BitVec.ofNat 12 detail⟩ := by
  unfold recordCause
  dsimp only
  rw [logEvent_halt, if_pos (by simpa using h)]

/-- A failure with the first cause leaves the device failed with that cause: what R255 and R256 do on top keeps both. -/
theorem enterFailed_first {s : State} (h : s.gbl.halt.cause = 0) {cause : BitVec 8} (hc : cause ≠ 0) (detail : Nat) (hash : Bool) :
    (enterFailed s cause detail hash).gbl.failed = true ∧
    (enterFailed s cause detail hash).gbl.halt = ⟨cause, BitVec.ofNat 12 detail⟩ := by
  unfold enterFailed
  extract_lets s1 first _ _ s2
  have hfailed : s2.gbl.failed = true := refresh_failed _
  have hhalt : s2.gbl.halt = ⟨cause, BitVec.ofNat 12 detail⟩ := (refresh_halt _).trans (recordCause_first h cause detail)
  split
  · have k := stopBody_stays (Stays.refl s2) afFailed cfFailed (!s2.gbl.sealFault) hash
    obtain ⟨kfailed, -, -⟩ := k.stop
    obtain ⟨khalt, -⟩ := k.gbl
    exact ⟨kfailed hfailed, (khalt (by rw [hhalt]; exact hc)).trans hhalt⟩
  · exact ⟨hfailed, hhalt⟩

/-! ### A failure while the core is off -/

@[simp] theorem portsDown_gbl (s : State) : (portsDown s).gbl = s.gbl := rfl
@[simp] theorem portsDown_pins (s : State) : (portsDown s).pins = s.pins := rfl
@[simp] theorem portsDown_aon (s : State) : (portsDown s).aon = s.aon := rfl
@[simp] theorem portsDown_prot (s : State) : (portsDown s).prot = s.prot := rfl

/-- The cause registers after a failure with a cause: the first cause stays (R168). -/
def Gbl.fail (g : Gbl) (cause : BitVec 8) (detail : Nat) : Gbl :=
  { g with failed := true, halt := if g.halt.cause = 0 then ⟨cause, BitVec.ofNat 12 detail⟩ else g.halt }

/-- While the core is off a cause reaches GBL_HALT_CAUSE where none stands there, and nothing is logged (R168, R686). -/
theorem recordCause_coreOff {s : State} (h : s.gbl.coreOn = false) (cause : BitVec 8) (detail : Nat) :
    recordCause s cause detail = { s with gbl := { s.gbl with
      halt := if s.gbl.halt.cause = 0 then ⟨cause, BitVec.ofNat 12 detail⟩ else s.gbl.halt } } := by
  have hlog : ∀ t : State, t.gbl.coreOn = false → logEvent t logHaltCause
      [(0, 1, cause.toNat), (1, 1, b2n (s.gbl.halt.cause == 0)), (4, 4, detail)] = t := fun t ht => if_pos (by simp [ht])
  unfold recordCause
  dsimp only
  rw [hlog _ (by split <;> exact h)]
  by_cases hc : s.gbl.halt.cause = 0
  · rw [if_pos (by simpa using hc), if_pos hc]
  · rw [if_neg (by simpa using hc), if_neg hc]

/-- While the core is off no queue stops and the register file stays silent (R695). -/
theorem enterFailed_coreOff {s : State} (h : s.gbl.coreOn = false) (cause : BitVec 8) (detail : Nat) (hash : Bool) :
    enterFailed s cause detail hash = portsDown (refresh { s with gbl := s.gbl.fail cause detail }) := by
  simp [enterFailed, recordCause_coreOff h, Gbl.fail, h]

/-- The failed device reports FAILED unless it is parked, which keeps the state reported before (R396). -/
theorem enterFailed_coreOff_state {s : State} (h : s.gbl.coreOn = false) (cause : BitVec 8) (detail : Nat) (hash : Bool) :
    (enterFailed s cause detail hash).gbl.state = if s.energy.parked = true then s.gbl.state else .failed := by
  simp only [enterFailed_coreOff h, portsDown_gbl, refresh_state, stateNow_failed (s := { s with gbl := s.gbl.fail cause detail }) rfl]
  rfl

/-! ### The strap latch -/

@[simp] theorem setCap_gbl (s : State) : (setCap s).gbl = s.gbl := rfl

section
variable {s : State} (straps : BitVec 8) (rails : RailLevels) (testEn : Bool)

/-- What the strap latch does whatever rails there are: the straps and rails, the Settings Record with its reset values, GBL_TICK at 0 and
the comparison due (R75, R77, R667). -/
theorem latchStraps_coreOff (h : s.gbl.coreOn = false) :
    (latchStraps s straps rails testEn).pins = { s.pins with resetN := true, deferredRise := false, vddCore := true } ∧
    (latchStraps s straps rails testEn).aon = { s.aon with
      straps := straps, rails := classify straps rails, latched := true, testEnSeen := s.aon.testEnSeen || testEn
      setInForce := newestSlot s.aon.shadow, setRec := settingsOf s.aon.shadow (newestSlot s.aon.shadow), roCarry := false } ∧
    (latchStraps s straps rails testEn).prot = resetProt (settingsOf s.aon.shadow (newestSlot s.aon.shadow)) ∧
    (latchStraps s straps rails testEn).gbl.tick = 0 ∧ (latchStraps s straps rails testEn).gbl.strapsCompared = false := by
  unfold latchStraps
  dsimp only
  split
  · rw [enterFailed_coreOff (by exact h)]
    simp [Gbl.fail]
  · exact ⟨rfl, rfl, rfl, rfl, rfl⟩

theorem latchStraps_gbl_present (h : missingRail straps (classify straps rails) = none) :
    (latchStraps s straps rails testEn).gbl =
      { s.gbl with tick := 0, strapsCompared := false, state := .aonReady, roReq := s.aon.roCarry } := by
  simp [latchStraps, h]

/-- A required rail that is missing fails the device with its DETAIL; a parked device would still report AON_READY. -/
theorem latchStraps_gbl_missing (hc : s.gbl.coreOn = false) {d : Nat} (h : missingRail straps (classify straps rails) = some d)
    (hz : s.gbl.halt.cause = 0) :
    (latchStraps s straps rails testEn).gbl.failed = true ∧
    (latchStraps s straps rails testEn).gbl.halt = ⟨causeRailMissing, BitVec.ofNat 12 d⟩ ∧
    (latchStraps s straps rails testEn).gbl.state = if s.energy.parked = true then .aonReady else .failed := by
  simp only [latchStraps, h]
  rw [← and_assoc]
  exact ⟨enterFailed_first (by exact hz) (by decide) d true, enterFailed_coreOff_state (by exact hc) _ _ _⟩

theorem exec_resetRelease_latches (hv : s.pins.vaon = true) (hr : s.pins.resetN = false) (hd : s.pins.deferredRise = false)
    (hj : scanHolds s.pins.jtag = false) :
    exec (.resetRelease straps rails testEn) s = .next (latchStraps s straps rails testEn) := by
  change execResetRelease straps rails testEn s = _
  simp [execResetRelease, hv, hr, hd, hj]

theorem exec_resetRelease_deferred (hv : s.pins.vaon = true) (hr : s.pins.resetN = false) (hd : s.pins.deferredRise = false)
    (hj : scanHolds s.pins.jtag = true) :
    exec (.resetRelease straps rails testEn) s = .next { s with pins := { s.pins with deferredRise := true } } := by
  change execResetRelease straps rails testEn s = _
  simp [execResetRelease, hv, hr, hd, hj]

end

/-! ### STRAP_COMPARE -/

theorem exec_strapCompare_equal {s : State} (hv : s.pins.vaon = true) (hr : s.pins.resetN = true) (hc : s.gbl.strapsCompared = false) :
    exec (.strapCompare s.aon.straps) s = .next { s with gbl := { s.gbl with strapsCompared := true } } := by
  change execStrapCompare s.aon.straps s = _
  simp [execStrapCompare, hv, hr, hc]

theorem exec_strapCompare_differs {s : State} {levels : BitVec 8} (hv : s.pins.vaon = true) (hr : s.pins.resetN = true)
    (hc : s.gbl.strapsCompared = false) (hl : levels ≠ s.aon.straps) :
    exec (.strapCompare levels) s =
      .next (enterFailed { s with gbl := { s.gbl with strapsCompared := true } } causeStrapUnstable 0) := by
  change execStrapCompare levels s = _
  simp [execStrapCompare, hv, hr, hc, hl]

/-! ### The TAP -/

/-- The state as an instruction update leaves it before any strap latch. -/
def afterScan (s : State) (code : Option (BitVec 4)) (cells : BitVec 1545) (levels : BitVec 515) : State :=
  let p := scanPins s (jtagEffective s.pins.resetN (code.getD 0xF)) cells levels
  { s with pins := { p with irOut := if code.isSome then 1 else p.irOut }, free := s.free + 1 }

section
variable {s : State} {code : Option (BitVec 4)} (cells : BitVec 1545) (levels : BitVec 515) (straps : BitVec 8) (rails : RailLevels)
  (testEn : Bool)

theorem exec_boundaryScan_latches (hd : s.pins.deferredRise = true)
    (hj : scanHolds (jtagEffective s.pins.resetN (code.getD 0xF)) = false) :
    exec (.boundaryScanInstruction code cells levels straps rails testEn) s =
      .next (latchStraps (afterScan s code cells levels) straps rails testEn) := by
  change execBoundaryScanInstruction code cells levels straps rails testEn s = _
  exact if_pos (by rw [hd, hj]; rfl)

theorem exec_boundaryScan_notDeferred (hd : s.pins.deferredRise = false) :
    exec (.boundaryScanInstruction code cells levels straps rails testEn) s = .next (afterScan s code cells levels) := by
  change execBoundaryScanInstruction code cells levels straps rails testEn s = _
  exact if_neg (by simp [hd])

end

/-- The instruction that is current after an update, as R82 and R83 let it. -/
theorem jtagEffective_eq (resetN : Bool) (code : BitVec 4) : jtagEffective resetN code =
    if code = 2 then 2 else if (code = 0 ∨ code = 4 ∨ code = 5) ∧ resetN = false then code else 15 := by
  simp [jtagEffective, scanHolds, or_assoc]

/-- SAMPLE/PRELOAD (2) and EXTEST (0) move the boundary register, the other instructions leave it. -/
theorem scanPins_eq (s : State) (j : BitVec 4) (cells : BitVec 1545) (levels : BitVec 515) : scanPins s j cells levels =
    { s.pins with jtag := j, cells := if j = 2 ∨ j = 0 then cells else s.pins.cells
                  captured := if j = 2 ∨ j = 0 then s.capture levels else s.pins.captured } := by
  have hb : (j == 2 || j == 0) = decide (j = 2 ∨ j = 0) := by
    rw [Bool.decide_or]
    rfl
  unfold scanPins
  rw [hb]
  by_cases h : j = 2 ∨ j = 0
  · rw [if_pos (decide_eq_true h), if_pos h, if_pos h]
  · rw [if_neg (by simpa using h), if_neg h, if_neg h]

/-! ### The balls while RESET_N is low -/

theorem ball_noRail {s : State} {x : Sig} (h : s.railUp x.rail = false) : s.ball x = .hiZ := by
  simp [State.ball, h]

/-- No instruction holds the balls: each but PWR_SAFE and MSP_MISO is in its reset state (R73). -/
theorem ball_inReset {s : State} {x : Sig} (hu : s.railUp x.rail = true) (hr : s.pins.resetN = false)
    (hj : scanHolds s.pins.jtag = false) (hp : x ≠ .pwrSafe) (hm : x ≠ .mspMiso) : s.ball x = x.resetDrive := by
  simp [State.ball, hu, hr, hj]

/-- HIGHZ (5) releases a scanned ball the device can drive (R83). -/
theorem ball_highz {s : State} {x : Sig} (hu : s.railUp x.rail = true) (hr : s.pins.resetN = false) (hj : s.pins.jtag = 5)
    (hx : x.scanned = true) (hi : x.inputOnly = false) : s.ball x = .hiZ := by
  simp [State.ball, State.scanDrive, scanHolds, hu, hr, hj, hx, hi]

end Sys2Proof.Machine
end

section
/-! PROOFS. The obligations about RESET_N, the straps and boundary scan (chapter 3). O15 and O17 fail in one clause each: a device in
FAILED with its core off reports FAILED, as they say, only where it is not parked (R396), and they quantify over parked states too. What
holds of every state is proved beside each refutation; O17's clauses about equal straps and the balls are `exec_strapCompare_equal`,
`ball_inReset`, `ball_highz` and `ball_noRail` above. -/

namespace Sys2Proof.Machine

theorem scanHolds_iff (j : BitVec 4) : scanHolds j = true ↔ j = 0 ∨ j = 4 ∨ j = 5 := by
  simp [scanHolds, or_assoc]

/-- Settles O16: a held RESET_N defers the rise, and each instruction that releases it is effective as itself or as BYPASS. -/
theorem scanDefersReset : Obligations.ScanDefersReset := by
  refine ⟨fun s straps rails testEn hv hr hd hj => ?_, fun s code cells levels straps rails testEn hcode hd hc => ?_⟩
  · exact exec_resetRelease_deferred straps rails testEn hv hr hd ((scanHolds_iff _).2 hj)
  · have hj : scanHolds (jtagEffective s.pins.resetN (code.getD 0xF)) = false := by
      rcases hcode with rfl | rfl | rfl <;> cases s.pins.resetN <;> rfl
    have hoff : (afterScan s code cells levels).gbl.coreOn = false := hc
    obtain ⟨hpins, haon, -, htick, hcmp⟩ := latchStraps_coreOff straps rails testEn hoff
    exact ⟨_, exec_boundaryScan_latches cells levels straps rails testEn hd hj, by rw [hpins], by rw [hpins], by rw [haon], htick, hcmp⟩

/-- RESET_RELEASE for every state O15 speaks of, with the state that a missing rail leaves a parked device in. -/
theorem exec_resetRelease_result (s : State) (straps : BitVec 8) (rails : RailLevels) (testEn : Bool) (hv : s.pins.vaon = true)
    (hr : s.pins.resetN = false) (hd : s.pins.deferredRise = false) (hj : scanHolds s.pins.jtag = false)
    (hc : s.gbl.coreOn = false) :
    ∃ t, exec (.resetRelease straps rails testEn) s = .next t ∧ t.pins.resetN = true ∧ t.gbl.tick = 0 ∧
      t.gbl.strapsCompared = false ∧ t.aon.straps = straps ∧ t.aon.rails = classify straps rails ∧
      t.aon.setInForce = newestSlot s.aon.shadow ∧ t.prot = resetProt (settingsOf s.aon.shadow (newestSlot s.aon.shadow)) ∧
      (testEn = true → t.aon.testEnSeen = true) ∧
      (missingRail straps (classify straps rails) = none →
        t.gbl.state = .aonReady ∧ t.gbl.failed = s.gbl.failed ∧ t.gbl.halt = s.gbl.halt) ∧
      (∀ d : Nat, missingRail straps (classify straps rails) = some d → s.gbl.halt.cause = 0 →
        t.gbl.state = (if s.energy.parked = true then .aonReady else .failed) ∧ t.gbl.failed = true ∧
        t.gbl.halt = ⟨0x13, BitVec.ofNat 12 d⟩) := by
  obtain ⟨hpins, haon, hprot, htick, hcmp⟩ := latchStraps_coreOff straps rails testEn hc
  refine ⟨_, exec_resetRelease_latches straps rails testEn hv hr hd hj, ?_⟩
  rw [hpins, haon, hprot]
  refine ⟨rfl, htick, hcmp, rfl, rfl, rfl, rfl, fun ht => ?_, fun hm => ?_, fun d hm hz => ?_⟩
  · simp [ht]
  · rw [latchStraps_gbl_present straps rails testEn hm]
    exact ⟨rfl, rfl, rfl⟩
  · obtain ⟨hfailed, hhalt, hstate⟩ := latchStraps_gbl_missing straps rails testEn hc hm hz
    exact ⟨hstate, hfailed, hhalt⟩

/-- A device that is parked with its core off: the counterexample to O15 and O17. coreReset, which alone turns the core off, ends the park
too, so no run from the reset state comes here; the two statements do not leave it out. -/
def parkedCoreOff (resetN : Bool) : State :=
  { State.reset with pins := { resetPins with vaon := true, resetN := resetN }, gbl := { resetGbl with state := .aonReady }
                     energy := { resetEnergy with parked := true } }

/-- The board without any rail the classification looks at. -/
def noRails : RailLevels := ⟨0, 0, 0, 0, 0, 0, 0, 0, 0, 0⟩

/-- Refutes O15: with all rails absent a parked device enters FAILED (DETAIL 2) and still reports AON_READY. -/
theorem not_resetReleaseResult : ¬ Obligations.ResetReleaseResult := by
  intro h
  have hmiss : missingRail 0 (classify 0 noRails) = some 2 := by decide
  obtain ⟨t, ht, -, -, -, -, -, -, -, -, -, hstate⟩ := h (parkedCoreOff false) 0 noRails false rfl rfl rfl rfl rfl
  obtain ⟨u, hu, -, -, -, -, -, -, -, -, -, hparked⟩ :=
    exec_resetRelease_result (parkedCoreOff false) 0 noRails false rfl rfl rfl rfl rfl
  obtain rfl : t = u := Host.Outcome.next.inj (ht.symm.trans hu)
  have hfailed : t.gbl.state = .failed := (hstate 2 hmiss rfl).1
  have hready : t.gbl.state = .aonReady := (hparked 2 hmiss rfl).1
  exact absurd (hfailed.symm.trans hready) (by decide)

/-- STRAP_COMPARE on other straps, for every state O17 speaks of: the device fails with STRAP_UNSTABLE; with its core off it keeps what
the always-on logic latched, and reports FAILED unless it is parked. -/
theorem exec_strapCompare_fails {s : State} {levels : BitVec 8} (hv : s.pins.vaon = true) (hr : s.pins.resetN = true)
    (hc : s.gbl.strapsCompared = false) (hl : levels ≠ s.aon.straps) (hz : s.gbl.halt.cause = 0) :
    ∃ t, exec (.strapCompare levels) s = .next t ∧ t.gbl.failed = true ∧ t.gbl.halt = ⟨0x12, 0⟩ ∧
      (s.gbl.coreOn = false → t.gbl.state = (if s.energy.parked = true then s.gbl.state else .failed) ∧ t.aon = s.aon) := by
  obtain ⟨hfailed, hhalt⟩ := enterFailed_first (s := { s with gbl := { s.gbl with strapsCompared := true } }) hz
    (cause := causeStrapUnstable) (by decide) 0 true
  refine ⟨_, exec_strapCompare_differs hv hr hc hl, hfailed, hhalt, fun hoff => ⟨enterFailed_coreOff_state (by exact hoff) _ _ _, ?_⟩⟩
  rw [enterFailed_coreOff (by exact hoff)]
  simp

/-- A boundary-scan instruction with no rise deferred, as O17 says it. -/
theorem exec_boundaryScan_result {s : State} (code : BitVec 4) (cells : BitVec 1545) (levels : BitVec 515) (straps : BitVec 8)
    (rails : RailLevels) (testEn : Bool) (hd : s.pins.deferredRise = false) :
    let j : BitVec 4 := if code = 2 then 2 else if (code = 0 ∨ code = 4 ∨ code = 5) ∧ s.pins.resetN = false then code else 15
    exec (.boundaryScanInstruction (some code) cells levels straps rails testEn) s = .next { s with
      free := s.free + 1
      pins := { s.pins with
        irOut := 1, jtag := j
        cells := if j = 2 ∨ j = 0 then cells else s.pins.cells
        captured := if j = 2 ∨ j = 0 then s.capture levels else s.pins.captured } } := by
  rw [exec_boundaryScan_notDeferred cells levels straps rails testEn hd, afterScan, scanPins_eq, Option.getD_some, jtagEffective_eq]
  rfl

/-- Refutes O17: with other straps a parked device enters FAILED and still reports AON_READY. -/
theorem not_strapsAndScanResult : ¬ Obligations.StrapsAndScanResult := by
  rintro ⟨hcompare, -⟩
  have hlevels : (1 : BitVec 8) ≠ (parkedCoreOff true).aon.straps := by decide
  obtain ⟨t, ht, -, -, hstate⟩ := (hcompare (parkedCoreOff true) 1 rfl rfl rfl).2 hlevels rfl
  obtain ⟨u, hu, -, -, hparked⟩ := exec_strapCompare_fails (s := parkedCoreOff true) rfl rfl rfl hlevels rfl
  obtain rfl : t = u := Host.Outcome.next.inj (ht.symm.trans hu)
  have hfailed : t.gbl.state = .failed := (hstate rfl).1
  have hready : t.gbl.state = .aonReady := (hparked rfl).1
  exact absurd (hfailed.symm.trans hready) (by decide)

end Sys2Proof.Machine
end

section
/-! SUPPORT. The host-facing reset of Table 4-4 in terms of `Quiet`: which registers it resets, and what it leaves alone. -/

namespace Sys2Proof.Machine

theorem abandonCommands_quiet {ρ s : State} (hρ : Quiet ρ s) : Quiet ρ (abandonCommands s).1 := by
  unfold abandonCommands
  extract_lets own queues s0 s1
  have hs0 : Quiet ρ s0 := .upd hρ
  have hs1 : Quiet ρ s1 := .foldl _ _ hs0 fun _ j h => placeFetched_quiet h j
  exact .upd hs1

/-- The Block Mover after a host-facing reset: the PE_PERST_N column leaves the channels and resets MOV_SEL alone (Table 4-4, R748). -/
def moverAfterReset (m : Mover) (kind : Fin 3) : Mover := if kind = 0 then { m with sel := 0 } else resetMover

/-- `s` with the admin-queue registers, PROT_QPART_SEL and the Block Mover as a host-facing reset leaves them, all else as it is. -/
def hostColumn (s : State) (kind : Fin 3) : State :=
  { s with prot := { s.prot with qpartSel := 0 }, adm := resetAdm, mover := moverAfterReset s.mover kind }

/-- A host-facing reset sets what its column sets; the settling that follows is quiet (R106). -/
theorem hostReset_quiet (s : State) (kind : Fin 3) : Quiet (hostColumn s kind) (hostReset s kind) := by
  unfold hostReset
  extract_lets s1 p p1
  have hs1 : Quiet s s1 := by
    unfold s1
    split
    · exact .refl s
    · exact abandonCommands_quiet (.refl s)
  have hmover : (if kind == 0 then { s1.mover with sel := 0 } else resetMover) = moverAfterReset s.mover kind := by
    simp [moverAfterReset, hs1.mover]
  have hprot : { s1.prot with qpartSel := 0 } = { s.prot with qpartSel := 0 } := by rw [hs1.prot]
  exact settle_quiet (detachMap_quiet ⟨hs1.aon, hprot, rfl, hs1.pwr, hs1.doms, hmover⟩)

/-- No host-facing reset ends HALTED or FAILED (R123, R133). -/
theorem hostReset_stop (s : State) (kind : Fin 3) : StopStays s (hostReset s kind) := (hostReset_stays (.refl s) kind).stop

theorem writeIrqEn_quiet {ρ s : State} (hρ : Quiet ρ s) (v : Bool) : Quiet ρ (writeIrqEn s v) := by
  have hset : Quiet ρ { s with gbl := { s.gbl with irqEn := v } } := .upd hρ
  unfold writeIrqEn
  split
  · exact sendVector_quiet hset 0
  · exact hset

/-- A write of GBL_CTRL with SOFT_RESET and without HALT_REQ: the host-facing reset of a state that differs by RO_REQ and IRQ_EN. -/
theorem ctrlWrite_soft (s : State) {v : Nat} (hsoft : bitOf v 0 = true) (hhalt : bitOf v 1 = false) :
    ∃ r, ctrlWrite s v = hostReset r 2 ∧ Quiet s r := by
  simp only [ctrlWrite, hsoft, hhalt, Bool.and_false, Bool.false_and, Bool.false_eq_true, if_false, if_true]
  exact ⟨_, rfl, writeIrqEn_quiet (.ite (refresh_quiet (.upd (.refl s))) (.refl s)) _⟩

theorem ctrlValue_soft (ro irqEn : Bool) : bitOf (ctrlValue ro irqEn false true).toNat 0 = true ∧
    bitOf (ctrlValue ro irqEn false true).toNat 1 = false := by
  revert ro irqEn
  decide

theorem exec_softReset {s : State} (ro irqEn : Bool) (h : s.hostAccess = true) :
    ∃ r, exec (.softReset ro irqEn) s = .next (hostReset r 2) ∧ Quiet s r := by
  obtain ⟨hsoft, hhalt⟩ := ctrlValue_soft ro irqEn
  obtain ⟨r, hr, hq⟩ := ctrlWrite_soft s hsoft hhalt
  exact ⟨r, congrArg Host.Outcome.next ((regWrite_always h rfl).trans hr), hq⟩

end Sys2Proof.Machine
end

section
/-! SUPPORT. The PCIe link: what its events do outside the cases in which they are ignored (R105, R115, R116). -/

namespace Sys2Proof.Machine

theorem wakeDomain_pins (s : State) (d : Nat) : (wakeDomain s d).pins = s.pins := by
  unfold wakeDomain
  split
  · rfl
  · split <;> rfl

/-- After an access a domain is not gated: it is ON, or off until reset (R107, R110). -/
theorem wakeDomain_not_gated (s : State) (d : Fin 22) :
    (wakeDomain s d).doms[d].mode ≠ .clockGated ∧ (wakeDomain s d).doms[d].mode ≠ .powerGated := by
  have hd : s.doms[d.val]? = some s.doms[d] := by simp
  unfold wakeDomain
  rw [hd]
  dsimp only
  split
  · next hoff =>
    have hmode : s.doms[d].mode = .offUntilReset := by simpa using hoff
    rw [hmode]
    decide
  · simp [Domain.woken_mode]

section
variable {s : State}

theorem exec_perstAssert_ignored (h : s.phb = true) :
    exec .perstAssert s = .next { s with pins := { s.pins with perstN := false } } := if_pos (by simp [h])

theorem exec_perstRelease_ignored (h : s.phb = true) :
    exec .perstRelease s = .next { s with pins := { s.pins with perstN := true } } := congrArg Host.Outcome.next (if_pos h)

variable (hphb : s.phb = false)
include hphb

/-- PE_PERST_N low is link loss whatever the link's state; enterOrphan judges whether there is a link to lose (R116). -/
theorem exec_perstAssert_pcie (hcore : s.gbl.coreOn = true) :
    let r := enterOrphan { s with pins := { s.pins with perstN := false } }
    exec .perstAssert s = .next (hostReset { r with pcie := { r.pcie with link := .down, training := false } } 0) :=
  if_neg (by simp [hphb, hcore])

theorem trainPcie_released (hcore : s.gbl.coreOn = true) (hperst : s.pins.perstN = true) :
    trainPcie s = { s with pcie := { s.pcie with training := s.pcie.training || s.pcie.link == .down } } :=
  if_neg (by simp [hphb, hcore, hperst])

theorem exec_perstRelease_pcie (hcore : s.gbl.coreOn = true) :
    exec .perstRelease s = .next { s with
      pins := { s.pins with perstN := true, wake := false }
      pcie := { s.pcie with training := s.pcie.training || s.pcie.link == .down } } := by
  have htrain := trainPcie_released (s := releaseWake { s with pins := { s.pins with perstN := true } }) hphb hcore rfl
  exact congrArg Host.Outcome.next ((if_neg (by simp [hphb])).trans htrain)

theorem exec_linkUp_pcie (hcore : s.gbl.coreOn = true) (hperst : s.pins.perstN = true) (lanes gen : Fin 5) :
    exec (.linkUp lanes gen) s = .next
      (let r := wakeDomain (releaseWake (if s.pcie.orphan then leaveOrphan s else s)) 2
       { r with pcie := { r.pcie with link := .l0, training := false, lanes := lanes, gen := gen }
                pins := { r.pins with clkreq := true } }) :=
  if_neg (by simp [hphb, hcore, hperst])

theorem exec_flr_pcie (hcore : s.gbl.coreOn = true) (hlink : s.linkUp = true) : exec .flr s = .next (hostReset s 1) :=
  if_neg (by simp [hphb, hcore, hlink])

end

end Sys2Proof.Machine
end

section
/-! PROOFS. The obligations about the PCIe link and the host-facing resets (R105, R106, R115 to R118, R133, Table 4-4). -/

namespace Sys2Proof.Machine

/-- Settles O27: the reset sets its column, and what follows is quiet and ends no stop. -/
theorem hostResetScope : Obligations.HostResetScope := by
  intro s kind
  have hq := hostReset_quiet s kind
  obtain ⟨hfailed, hhalted, -⟩ := hostReset_stop s kind
  exact ⟨hq.adm, hq.prot, hq.aon, hq.pwr, hq.doms, fun h => hq.mover.trans (if_neg h), fun h => hq.mover.trans (if_pos h),
    hhalted, hfailed⟩

/-- Settles O25: in PHB mode both edges of the ball end at its level. -/
theorem phbIgnoresPerst : Obligations.PhbIgnoresPerst := fun _ h => ⟨exec_perstAssert_ignored h, exec_perstRelease_ignored h⟩

/-- Settles O26: each event of the link outside the cases in which it is ignored; at link up the access to HOST wakes the domain. -/
theorem linkResult : Obligations.LinkResult := by
  intro s hphb hcore
  refine ⟨exec_perstAssert_pcie hphb hcore, exec_perstRelease_pcie hphb hcore, fun _ _ => rfl, fun lanes gen hperst => ?_,
    exec_flr_pcie hphb hcore⟩
  exact ⟨_, exec_linkUp_pcie hphb hcore hperst lanes gen, rfl, rfl, rfl, rfl, rfl, congrArg Pins.wake (wakeDomain_pins _ 2), rfl,
    wakeDomain_not_gated _ 2⟩

/-- Settles O41: SOFT_RESET is the host-facing reset of a state in which only RO_REQ and IRQ_EN may have moved. -/
theorem softResetResult : Obligations.SoftResetResult := by
  intro s ro irqEn h
  obtain ⟨r, hexec, hr⟩ := exec_softReset ro irqEn h
  obtain ⟨hfailed, hhalted, -⟩ := (execSoftReset_stays ro irqEn s _ hexec).stop
  have hq := hostReset_quiet r 2
  have hprot : (hostReset r 2).prot = { s.prot with qpartSel := 0 } := by rw [hq.prot, hostColumn, hr.prot]
  exact ⟨_, hexec, hq.adm, hq.mover, by rw [hprot], by rw [hprot], by rw [hprot],
    hhalted, hfailed⟩

end Sys2Proof.Machine
end

section
/-! SUPPORT. One microsecond of an empty queue, and the pending bit that a ring sets (R141, R146). -/

namespace Sys2Proof.Machine

/-! ### Tables: the value under a key after it is changed in place -/

@[simp] theorem tget_tmod_self {α : Type} (t : Tbl α) (k : Nat) (f : α → α) : tget (tmod t k f) k = (tget t k).map f := by
  induction t with
  | nil => rfl
  | cons a r ih =>
    obtain ⟨a, x⟩ := a
    by_cases h : a = k
    · simp [tmod, tget, h]
    · simpa [tmod, tget, h] using ih

theorem tget_tmod_ne {α : Type} (t : Tbl α) (k j : Nat) (f : α → α) (h : j ≠ k) : tget (tmod t k f) j = tget t j := by
  induction t with
  | nil => rfl
  | cons a r ih =>
    obtain ⟨a, x⟩ := a
    by_cases ha : a = k
    · simpa [tmod, tget, ha, Ne.symm h] using ih
    · by_cases hj : a = j
      · simp [tmod, tget, hj, h]
      · simpa [tmod, tget, ha, hj] using ih

/-- A key that is absent has no value to change. -/
theorem tmod_absent {α : Type} {t : Tbl α} {k : Nat} (h : tget t k = none) (f : α → α) : tmod t k f = t := by
  induction t with
  | nil => rfl
  | cons a r ih =>
    obtain ⟨a, x⟩ := a
    rw [tget] at h
    split at h
    · cases h
    · next ha => simpa [tmod, ha] using ih h

/-! ### Queues: a ring and the acknowledgement of a signal -/

section
variable {s : State} {q : Nat}

theorem tget_modQueue_self {k : Queue} (h : tget s.queues.qs q = some k) (f : Queue → Queue) :
    tget (modQueue s q f).queues.qs q = some (f k) := by
  simp [modQueue, h]

theorem tget_modQueue_ne {m : Nat} (h : m ≠ q) (f : Queue → Queue) :
    tget (modQueue s q f).queues.qs m = tget s.queues.qs m := tget_tmod_ne _ _ _ _ h

theorem modQueue_absent (h : tget s.queues.qs q = none) (f : Queue → Queue) : modQueue s q f = s := by
  rw [modQueue, tmod_absent h]

/-- A ring sets the pending bit of an enabled queue, and of none while the device is limited (R146, R180, R237). -/
theorem tget_ringQueue_self {k : Queue} (h : tget s.queues.qs q = some k) :
    tget (ringQueue s q).queues.qs q = some { k with pend := if k.enabled = true ∧ s.limited = false then true else k.pend } := by
  unfold ringQueue
  cases hl : s.limited with
  | true => simp [h]
  | false =>
    rw [if_neg (by decide), tget_modQueue_self h]
    by_cases he : k.enabled = true
    · simp [he]
    · rw [if_neg he, if_neg (fun hboth => he hboth.1)]

theorem tget_ringQueue_ne {m : Nat} (h : m ≠ q) : tget (ringQueue s q).queues.qs m = tget s.queues.qs m := by
  unfold ringQueue
  split
  · rfl
  · exact tget_modQueue_ne h _

theorem ringQueue_absent (h : tget s.queues.qs q = none) : ringQueue s q = s := by
  unfold ringQueue
  split
  · rfl
  · exact modQueue_absent h _

/-- What a doorbell does before it rings: in PHB mode the host acknowledges the queue's signal (R250). -/
def ackSignal (s : State) (q : Nat) : State :=
  if s.phb then modQueue s q (fun k => { k with phbSignal := false }) else s

@[simp] theorem ackSignal_limited (s : State) (q : Nat) : (ackSignal s q).limited = s.limited := by
  unfold ackSignal
  split <;> rfl

theorem tget_ackSignal_self {k : Queue} (h : tget s.queues.qs q = some k) :
    tget (ackSignal s q).queues.qs q = some { k with phbSignal := if s.phb = true then false else k.phbSignal } := by
  unfold ackSignal
  split
  · exact tget_modQueue_self h _
  · exact h

theorem tget_ackSignal_ne {m : Nat} (h : m ≠ q) : tget (ackSignal s q).queues.qs m = tget s.queues.qs m := by
  unfold ackSignal
  split
  · exact tget_modQueue_ne h _
  · rfl

theorem ackSignal_absent (h : tget s.queues.qs q = none) : ackSignal s q = s := by
  unfold ackSignal
  split
  · exact modQueue_absent h _
  · rfl

end

section
variable {s : State}

/-- A write of all four bytes acknowledges, then rings (R164). -/
theorem exec_doorbell_whole (h : s.hostAccess = true) (n : Fin 4096) :
    exec (.doorbell n 0xF) s = .next (ringQueue (ackSignal s n.val) n.val) := if_neg (by simp [h])

/-- A write that is not an aligned 32-bit write rings nothing (R164). -/
theorem exec_doorbell_partial {be : BitVec 4} (h : be ≠ 0xF) (n : Fin 4096) : exec (.doorbell n be) s = .next s :=
  if_pos (by rw [bne_iff_ne.2 h, Bool.or_true])

/-! ### Time -/

theorem coreOnS_ite (c : Prop) [Decidable c] (h : Health) (n : Nat) :
    (if c then { h with coreOnS := n } else h) = { h with coreOnS := if c then n else h.coreOnS } := by
  split <;> rfl

theorem idleTick_notTicking (h : s.ticking = false) : idleTick s = s := if_neg (by simp [h])

/-- One microsecond; it completes a second of CORE_ON_S where the new GBL_TICK is a multiple of 1,000,000 (Table 21-5a). -/
theorem idleTick_ticking (h : s.ticking = true) : idleTick s = { s with
    gbl := { s.gbl with tick := s.gbl.tick + 1 }
    log := { s.log with health := { s.log.health with
      coreOnS := if s.gbl.coreOn = true ∧ s.pins.vddCore = true ∧ (s.gbl.tick + 1).toNat % 1000000 = 0
        then satTo 0xFFFFFFFFFFFFFFFF (s.log.health.coreOnS + 1) else s.log.health.coreOnS } } } := by
  rw [idleTick, if_pos h]
  simp only [coreOnS_ite, Bool.and_eq_true, beq_iff_eq, and_assoc]

theorem step_idle (h : s.pending = []) : step s = .next (idleTick s) := by
  unfold step
  rw [h]

end

end Sys2Proof.Machine
end

section
/-! PROOFS. The obligations about clock crossings: GBL_TICK and the doorbells (R141, R146, R164, R237). -/

namespace Sys2Proof.Machine

/-- Settles O2: an idle step is one `idleTick`, which does nothing unless GBL_TICK counts. -/
theorem idleStepCountsTick : Obligations.IdleStepCountsTick := by
  intro s hidle
  rw [step_idle hidle]
  exact ⟨fun h => congrArg Host.Outcome.next (idleTick_notTicking h), fun h => congrArg Host.Outcome.next (idleTick_ticking h)⟩

/-- Settles O43: the acknowledgement leaves the pending bit and the gate of the ring alone, so both reach the one queue. -/
theorem doorbellResult : Obligations.DoorbellResult := by
  intro s n k haccess
  refine ⟨fun hk => ⟨_, exec_doorbell_whole haccess n, ?_, fun m hm => ?_⟩, fun hk => ?_, fun be hbe => exec_doorbell_partial hbe n⟩
  · rw [tget_ringQueue_self (tget_ackSignal_self hk), ackSignal_limited]
  · rw [tget_ringQueue_ne hm, tget_ackSignal_ne hm]
  · rw [exec_doorbell_whole haccess, ackSignal_absent hk, ringQueue_absent hk]

end Sys2Proof.Machine
end

section
/-! SUPPORT. What every command keeps, in terms of the laws of the single commands: `Stays` outside the resets, `Quiet` for the commands of
entries, media work, calibration, packets and timers. -/

namespace Sys2Proof.Machine

/-- Outside the resets every command keeps what `Stays` lists. -/
theorem exec_stays {c : Instr} (h : Claims.isReset c = false) (s : State) : NextStays s (exec c s) := by
  cases c with
  | powerOn | vaonLoss | resetAssert | resetRelease | boundaryScanInstruction => cases h
  | strapCompare => exact execStrapCompare_stays _ s
  | coreRelease => exact execCoreRelease_stays _ s
  | pllLockTimeout => exact execPllLockTimeout_stays s
  | firmwareStart => exact execFirmwareStart_stays _ _ _ s
  | probe => exact execProbe_stays _ _ s
  | bootWindowEntry => exact execBootWindowEntry_stays s
  | recoveryStart => exact execRecoveryStart_stays s
  | footingCheck => exact execFootingCheck_stays _ _ s
  | recovered => exact execRecovered_stays _ _ s
  | fullService => exact execFullService_stays s
  | footingRebuild => exact execFootingRebuild_stays s
  | autoLock => exact execAutoLock_stays s
  | perstAssert => exact execPerstAssert_stays s
  | linkDown => exact execLinkDown_stays s
  | linkUp => exact execLinkUp_stays _ _ s
  | flr => exact execFlr_stays s
  | pfailAssert => exact execPfailAssert_stays s
  | vddCoreLow => exact execVddCoreLow_stays s
  | sysclkLoss => exact execSysclkLoss_stays s
  | thermalCritical => exact execThermalCritical_stays s
  | pfSafe => exact execPfSafe_stays s
  | railLoss => exact execRailLoss_stays _ s
  | adcSample => exact execAdcSample_stays _ s
  | ackRelease => exact execAckRelease_stays s
  | thermalSample => exact execThermalSample_stays _ _ _ _ s
  | domainGate => exact execDomainGate_stays _ _ _ s
  | domainWake => exact execDomainWake_stays _ _ s
  | tickCapture => exact execTickCapture_stays s
  | registerWrite => exact execRegisterWrite_stays _ _ _ s
  | roReq => exact execRoReq_stays _ s
  | haltReq => exact execHaltReq_stays _ _ _ s
  | softReset => exact execSoftReset_stays _ _ s
  | irqEnableWrite => exact execIrqEnableWrite_stays s
  | irqMaskWrite => exact execIrqMaskWrite_stays _ s
  | bootLockSet => exact execBootLockSet_stays s
  | admqEnable => exact execAdmqEnable_stays _ s
  | admqDisable => exact execAdmqDisable_stays _ s
  | qinvSlot => exact execQinvSlot_stays _ s
  | qinvAll => exact execQinvAll_stays s
  | doorbell => exact execDoorbell_stays _ _ s
  | queueScan => exact execQueueScan_stays _ s
  | scanResume => exact execScanResume_stays _ s
  | entryCrcReread => exact execEntryCrcReread_stays _ _ _ s
  | writeVisible => exact execWriteVisible_stays _ _ s
  | shadowWrite => exact execShadowWrite_stays _ s
  | coalTimeout => exact execCoalTimeout_stays _ s
  | read => exact execRead_stays _ _ _ _ s
  | write => exact execWrite_stays _ _ _ s
  | writeZeroes => exact execWriteZeroes_stays _ _ _ s
  | trim => exact execTrim_stays _ _ _ s
  | flush => exact execFlush_stays _ _ s
  | fence => exact execFence_stays _ _ s
  | streamOpen => exact execStreamOpen_stays _ _ s
  | streamAppend => exact execStreamAppend_stays _ _ _ s
  | streamMark => exact execStreamMark_stays _ _ s
  | streamClose => exact execStreamClose_stays _ _ s
  | streamRead => exact execStreamRead_stays _ _ _ _ s
  | rawRead => exact execRawRead_stays _ _ _ _ _ s
  | streamTransfer => exact execStreamTransfer_stays _ _ s
  | identify => exact execIdentify_stays _ _ s
  | attest => exact execAttest_stays _ _ s
  | createQueue => exact execCreateQueue_stays _ s
  | disableQueue => exact execDisableQueue_stays _ _ s
  | destroyQueue => exact execDestroyQueue_stays _ s
  | queryQueue => exact execQueryQueue_stays _ s
  | createPartition => exact execCreatePartition_stays _ _ s
  | deletePartition => exact execDeletePartition_stays _ s
  | setHold => exact execSetHold_stays _ s
  | setTime => exact execSetTime_stays _ s
  | getLog => exact execGetLog_stays _ _ s
  | setFeature => exact execSetFeature_stays _ s
  | getFeature => exact execGetFeature_stays _ s
  | loadProfile => exact execLoadProfile_stays _ _ s
  | loadMicrocode => exact execLoadMicrocode_stays _ _ s
  | commitFirmware => exact execCommitFirmware_stays _ _ s
  | startCalibration => exact execStartCalibration_stays _ s
  | attachMapStore => exact execAttachMapStore_stays _ _ s
  | detachMapStore => exact execDetachMapStore_stays _ s
  | cascadeEnumerate => exact execCascadeEnumerate_stays _ _ s
  | cascadeRoster => exact execCascadeRoster_stays _ _ s
  | adoptMedia => exact execAdoptMedia_stays _ _ s
  | sanitize => exact execSanitize_stays _ _ s
  | selfTest => exact execSelfTest_stays _ _ s
  | ashlarTimeout => exact execAshlarTimeout_stays _ _ s
  | capstoneSigned => exact execCapstoneSigned_stays s
  | retentionCheck => exact execRetentionCheck_stays s
  | flashStatusPoll => exact execFlashStatusPoll_stays _ _ s
  | flashResume => exact execFlashResume_stays _ _ s
  | gcReclaim => exact execGcReclaim_stays s
  | wearLevel => exact execWearLevel_stays s
  | refresh _ _ soft3 => exact execRefresh_stays _ _ soft3 s
  | footingFold => exact execFootingFold_stays s
  | dieRelocate => exact execDieRelocate_stays s
  | blockErase => exact execBlockErase_stays s
  | plinthWrite => exact execPlinthWrite_stays s
  | hmapScrub => exact execHmapScrub_stays _ s
  | overdrivePeriod => exact execOverdrivePeriod_stays _ _ _ s
  | healthCommit => exact execHealthCommit_stays s
  | calReqTrim => exact execCalReqTrim_stays _ s
  | calReqTrack => exact execCalReqTrack_stays _ s
  | calReqHoldup => exact execCalReqHoldup_stays _ s
  | calTrimRun => exact execCalTrimRun_stays _ s
  | calTrackRun => exact execCalTrackRun_stays _ s
  | calHoldupRun => exact execCalHoldupRun_stays s
  | holdupDischargeTimeout => exact execHoldupDischargeTimeout_stays s
  | holdupRechargeTimeout => exact execHoldupRechargeTimeout_stays s
  | holdupConditionTimeout => exact execHoldupConditionTimeout_stays s
  | calRepeat => exact execCalRepeat_stays _ s
  | mcSwitch => exact execMcSwitch_stays _ s
  | mcForce => exact execMcForce_stays _ s
  | switchTaken => exact execSwitchTaken_stays _ _ s
  | mcSwitchTimeout => exact execMcSwitchTimeout_stays _ s
  | machineCheck => exact execMachineCheck_stays _ _ _ _ s
  | mcScrub => exact execMcScrub_stays _ s
  | masonRoutinePost => exact execMasonRoutinePost_stays _ _ _ _ s
  | masonEvent => exact execMasonEvent_stays _ _ s
  | movStart => exact execMovStart_stays _ s
  | movAbort => exact execMovAbort_stays _ s
  | evtInEdge => exact execEvtInEdge_stays _ s
  | moverDescFetch => exact execMoverDescFetch_stays _ _ s
  | moverBurstStart => exact execMoverBurstStart_stays _ s
  | moverBurstDone => exact execMoverBurstDone_stays _ _ s
  | evtOutEnd => exact execEvtOutEnd_stays _ s
  | portTrain => exact execPortTrain_stays _ s
  | trainRetry => exact execTrainRetry_stays _ s
  | train => exact execTrain_stays _ _ _ _ s
  | ack => exact execAck_stays _ _ s
  | nak => exact execNak_stays _ _ s
  | credit => exact execCredit_stays _ _ _ _ s
  | replayTimeout => exact execReplayTimeout_stays _ s
  | creditTimer => exact execCreditTimer_stays _ s
  | leaveDetect => exact execLeaveDetect_stays _ s
  | entry => exact execEntry_stays _ _ s
  | pull => exact execPull_stays _ _ _ s
  | pulldata => exact execPulldata_stays _ _ s
  | rdata => exact execRdata_stays _ _ _ s
  | compl => exact execCompl_stays _ _ s
  | enum => exact execEnum_stays _ _ s
  | enumAck => exact execEnumAck_stays _ _ s
  | attestReq => exact execAttestReq_stays _ _ s
  | attestRsp => exact execAttestRsp_stays _ _ s
  | attestTimeout => exact execAttestTimeout_stays s
  | join => exact execJoin_stays _ _ s
  | leave => exact execLeave_stays _ _ s
  | keyq => exact execKeyq_stays _ _ s
  | keyrsp => exact execKeyrsp_stays _ _ s
  | mspReadStatus => exact execMspReadStatus_stays _ _ s
  | mspReadId => exact execMspReadId_stays _ _ s
  | readOtp => exact execReadOtp_stays _ _ s
  | readSnapshot => exact execReadSnapshot_stays _ _ s
  | orderSet => exact execOrderSet_stays _ _ _ s
  | orderClear => exact execOrderClear_stays _ _ _ s
  | burn => exact execBurn_stays _ _ _ s
  | mspBadOp => exact execMspBadOp_stays _ _ _ s
  | mspCsRise => exact execMspCsRise_stays _ _ s
  | orderApply => exact execOrderApply_stays s
  | disagreeTimeout => exact execDisagreeTimeout_stays s
  | thermometerBurn => exact execThermometerBurn_stays _ s
  | pfailDeassert => exact execPfailDeassert_stays s
  | perstRelease => exact execPerstRelease_stays s
  | presenceChange => exact execPresenceChange_stays _ s
  | blockLockAcquired => exact execBlockLockAcquired_stays _ s
  | blockLockLost => exact execBlockLockLost_stays _ s
  | configWrite => exact execConfigWrite_stays _ s
  | msixTableWrite => exact execMsixTableWrite_stays _ _ _ s
  | linkPowerState => exact execLinkPowerState_stays _ s

/-- The commands of entries, media work, calibration, packets and timers leave what `Quiet` lists alone. -/
theorem exec_quiet {c : Instr} (h : Claims.isQuiet c = true) (s : State) : NextQuiet s (exec c s) := by
  cases c with
  | recoveryStart => exact execRecoveryStart_quiet s
  | footingCheck => exact execFootingCheck_quiet _ _ s
  | recovered => exact execRecovered_quiet _ _ s
  | footingRebuild => exact execFootingRebuild_quiet s
  | autoLock => exact execAutoLock_quiet s
  | ackRelease => exact execAckRelease_quiet s
  | thermalSample => exact execThermalSample_quiet _ _ _ _ s
  | tickCapture => exact execTickCapture_quiet s
  | doorbell => exact execDoorbell_quiet _ _ s
  | scanResume => exact execScanResume_quiet _ s
  | writeVisible => exact execWriteVisible_quiet _ _ s
  | shadowWrite => exact execShadowWrite_quiet _ s
  | coalTimeout => exact execCoalTimeout_quiet _ s
  | read => exact execRead_quiet _ _ _ _ s
  | write => exact execWrite_quiet _ _ _ s
  | writeZeroes => exact execWriteZeroes_quiet _ _ _ s
  | trim => exact execTrim_quiet _ _ _ s
  | flush => exact execFlush_quiet _ _ s
  | fence => exact execFence_quiet _ _ s
  | streamOpen => exact execStreamOpen_quiet _ _ s
  | streamAppend => exact execStreamAppend_quiet _ _ _ s
  | streamMark => exact execStreamMark_quiet _ _ s
  | streamClose => exact execStreamClose_quiet _ _ s
  | streamRead => exact execStreamRead_quiet _ _ _ _ s
  | rawRead => exact execRawRead_quiet _ _ _ _ _ s
  | streamTransfer => exact execStreamTransfer_quiet _ _ s
  | identify => exact execIdentify_quiet _ _ s
  | attest => exact execAttest_quiet _ _ s
  | createQueue => exact execCreateQueue_quiet _ s
  | destroyQueue => exact execDestroyQueue_quiet _ s
  | queryQueue => exact execQueryQueue_quiet _ s
  | createPartition => exact execCreatePartition_quiet _ _ s
  | deletePartition => exact execDeletePartition_quiet _ s
  | setHold => exact execSetHold_quiet _ s
  | setTime => exact execSetTime_quiet _ s
  | getLog => exact execGetLog_quiet _ _ s
  | setFeature => exact execSetFeature_quiet _ s
  | getFeature => exact execGetFeature_quiet _ s
  | loadProfile => exact execLoadProfile_quiet _ _ s
  | loadMicrocode => exact execLoadMicrocode_quiet _ _ s
  | commitFirmware => exact execCommitFirmware_quiet _ _ s
  | startCalibration => exact execStartCalibration_quiet _ s
  | attachMapStore => exact execAttachMapStore_quiet _ _ s
  | detachMapStore => exact execDetachMapStore_quiet _ s
  | cascadeEnumerate => exact execCascadeEnumerate_quiet _ _ s
  | cascadeRoster => exact execCascadeRoster_quiet _ _ s
  | adoptMedia => exact execAdoptMedia_quiet _ _ s
  | sanitize => exact execSanitize_quiet _ _ s
  | ashlarTimeout => exact execAshlarTimeout_quiet _ _ s
  | capstoneSigned => exact execCapstoneSigned_quiet s
  | retentionCheck => exact execRetentionCheck_quiet s
  | flashResume => exact execFlashResume_quiet _ _ s
  | gcReclaim => exact execGcReclaim_quiet s
  | wearLevel => exact execWearLevel_quiet s
  | refresh _ _ soft3 => exact execRefresh_quiet _ _ soft3 s
  | footingFold => exact execFootingFold_quiet s
  | dieRelocate => exact execDieRelocate_quiet s
  | blockErase => exact execBlockErase_quiet s
  | plinthWrite => exact execPlinthWrite_quiet s
  | hmapScrub => exact execHmapScrub_quiet _ s
  | overdrivePeriod => exact execOverdrivePeriod_quiet _ _ _ s
  | healthCommit => exact execHealthCommit_quiet s
  | calReqTrim => exact execCalReqTrim_quiet _ s
  | calReqTrack => exact execCalReqTrack_quiet _ s
  | calReqHoldup => exact execCalReqHoldup_quiet _ s
  | calTrimRun => exact execCalTrimRun_quiet _ s
  | calTrackRun => exact execCalTrackRun_quiet _ s
  | calHoldupRun => exact execCalHoldupRun_quiet s
  | holdupDischargeTimeout => exact execHoldupDischargeTimeout_quiet s
  | holdupRechargeTimeout => exact execHoldupRechargeTimeout_quiet s
  | holdupConditionTimeout => exact execHoldupConditionTimeout_quiet s
  | calRepeat => exact execCalRepeat_quiet _ s
  | mcSwitchTimeout => exact execMcSwitchTimeout_quiet _ s
  | mcScrub => exact execMcScrub_quiet _ s
  | evtOutEnd => exact execEvtOutEnd_quiet _ s
  | train => exact execTrain_quiet _ _ _ _ s
  | ack => exact execAck_quiet _ _ s
  | credit => exact execCredit_quiet _ _ _ _ s
  | creditTimer => exact execCreditTimer_quiet _ s
  | entry => exact execEntry_quiet _ _ s
  | pull => exact execPull_quiet _ _ _ s
  | pulldata => exact execPulldata_quiet _ _ s
  | rdata => exact execRdata_quiet _ _ _ s
  | enum => exact execEnum_quiet _ _ s
  | enumAck => exact execEnumAck_quiet _ _ s
  | attestReq => exact execAttestReq_quiet _ _ s
  | join => exact execJoin_quiet _ _ s
  | keyq => exact execKeyq_quiet _ _ s
  | keyrsp => exact execKeyrsp_quiet _ _ s
  | pfailDeassert => exact execPfailDeassert_quiet s
  | perstRelease => exact execPerstRelease_quiet s
  | blockLockAcquired => exact execBlockLockAcquired_quiet _ s
  | blockLockLost => exact execBlockLockLost_quiet _ s
  | msixTableWrite => exact execMsixTableWrite_quiet _ _ _ s
  | _ => cases h

end Sys2Proof.Machine
end

section
/-! SUPPORT. The control registers: GBL_CTRL by its request bits, GBL_IRQ_MASK, BOOT_LOCK and PHB_WIN (R18, R168 to R170, R179, R187). -/

namespace Sys2Proof.Machine

/-! ### Gates -/

theorem limited_eq_false (s : State) :
    s.limited = false ↔ s.gbl.halted = false ∧ s.gbl.failed = false ∧ s.energy.parked = false := by
  simp [State.limited, State.stopped, and_assoc]

theorem hostAccess_up {s : State} (h : s.hostAccess = true) : s.gbl.up = true := by
  simp only [State.hostAccess, Bool.and_eq_true] at h
  exact h.1

theorem hostAccess_orphan {s : State} (h : s.hostAccess = true) (hphb : s.phb = false) : s.pcie.orphan = false := by
  simp only [State.hostAccess, State.linkUp, hphb, Bool.false_or, Bool.and_eq_true, Bool.not_eq_true'] at h
  tauto

/-! ### Messages of GBL_CTRL.IRQ_EN and GBL_IRQ_MASK (R169) -/

@[simp] theorem sendVector_gbl (s : State) (v : Nat) : (sendVector s v).gbl = s.gbl := by rw [sendVector_eq]

theorem sendVector_pcie {s : State} (hphb : s.phb = false) (horphan : s.pcie.orphan = false) (hpf : s.energy.pfSeq = false) (v : Nat) :
    (sendVector s v).pcie = s.pcie.send v := by
  simp [sendVector, hphb, horphan, hpf]

@[simp] theorem writeIrqEn_gbl (s : State) (v : Bool) : (writeIrqEn s v).gbl = { s.gbl with irqEn := v } := by
  unfold writeIrqEn
  dsimp only
  split
  · exact sendVector_gbl _ _
  · rfl

/-- IRQ_EN that was set already, or that exposes no status bit, signals nothing. -/
theorem writeIrqEn_true_silent {s : State} (h : s.gbl.irqEn = true ∨ s.gbl.irqStatus &&& ~~~s.gbl.irqMask = 0) :
    (writeIrqEn s true).pcie = s.pcie := by
  unfold writeIrqEn
  rw [if_neg]
  rcases h with h | h <;> simp [State.signals, h]

theorem writeIrqEn_true_sends {s : State} (hen : s.gbl.irqEn = false) (hbit : s.gbl.irqStatus &&& ~~~s.gbl.irqMask ≠ 0)
    (hphb : s.phb = false) (horphan : s.pcie.orphan = false) (hpf : s.energy.pfSeq = false) :
    (writeIrqEn s true).pcie = s.pcie.send 0 := by
  unfold writeIrqEn
  rw [if_pos (by simpa [State.signals, hen] using hbit)]
  exact sendVector_pcie (s := { s with gbl := { s.gbl with irqEn := true } }) hphb horphan hpf 0

@[simp] theorem writeIrqMask_gbl (s : State) (m : BitVec 13) : (writeIrqMask s m).gbl = { s.gbl with irqMask := m } := by
  unfold writeIrqMask
  dsimp only
  split
  · exact sendVector_gbl _ _
  · rfl

theorem writeIrqMask_sends {s : State} {m : BitVec 13} (hen : s.gbl.irqEn = true)
    (hbit : s.gbl.irqStatus &&& s.gbl.irqMask &&& ~~~m ≠ 0) (hphb : s.phb = false) (horphan : s.pcie.orphan = false)
    (hpf : s.energy.pfSeq = false) : (writeIrqMask s m).pcie = s.pcie.send 0 := by
  unfold writeIrqMask
  rw [if_pos (by simpa [hen] using hbit)]
  exact sendVector_pcie (s := { s with gbl := { s.gbl with irqMask := m } }) hphb horphan hpf 0

/-! ### GBL_CTRL by its request bits (Table 6-5) -/

section
variable (ro irq halt soft : Bool)

@[simp] theorem ctrlValue_softReset : bitOf (ctrlValue ro irq halt soft).toNat 0 = soft := by
  revert ro irq halt soft
  decide

@[simp] theorem ctrlValue_haltReq : bitOf (ctrlValue ro irq halt soft).toNat 1 = halt := by
  revert ro irq halt soft
  decide

@[simp] theorem ctrlValue_irqEn : bitOf (ctrlValue ro irq halt soft).toNat 2 = irq := by
  revert ro irq halt soft
  decide

@[simp] theorem ctrlValue_roReq : bitOf (ctrlValue ro irq halt soft).toNat 3 = ro := by
  revert ro irq halt soft
  decide

end

/-- What the RO_REQ bit of a write does first: the request, and the state it may change (R18). -/
def requestReadOnly (s : State) : State := refresh { s with gbl := { s.gbl with roReq := true } }

/-- The note in the always-on logic that a request for READ_ONLY came with HALT_REQ (R187, log 11). -/
def carryReadOnly (s : State) : State := { s with aon := { s.aon with roCarry := true } }

theorem ctrlWrite_roReq {s : State} (hl : s.limited = false) (irq : Bool) :
    ctrlWrite s (ctrlValue true irq false false).toNat = writeIrqEn (requestReadOnly s) irq := by
  simp [ctrlWrite, hl, requestReadOnly]

theorem ctrlWrite_irqEn (s : State) : ctrlWrite s (ctrlValue false true false false).toNat = writeIrqEn s true := by
  simp [ctrlWrite]

/-- The device as a write of HALT_REQ halts it: the note of a request for READ_ONLY comes last (R187). -/
def hostHalted (s : State) (ro irq : Bool) : State :=
  let h := enterHalted (writeIrqEn (if ro then requestReadOnly s else s) irq) causeHostHalt 0
  if ro then carryReadOnly h else h

theorem ctrlWrite_haltReq {s : State} (hl : s.limited = false) (ro irq : Bool) :
    ctrlWrite s (ctrlValue ro irq true false).toNat = hostHalted s ro irq := by
  simp [ctrlWrite, hl, requestReadOnly, carryReadOnly, hostHalted]

/-- HALT_REQ comes before SOFT_RESET (R187). -/
theorem ctrlWrite_haltReq_softReset {s : State} (hl : s.limited = false) (ro irq : Bool) :
    ctrlWrite s (ctrlValue ro irq true true).toNat = hostReset (hostHalted s ro irq) 2 := by
  simp [ctrlWrite, hl, requestReadOnly, carryReadOnly, hostHalted]

theorem requestReadOnly_roReq (s : State) : (requestReadOnly s).gbl.roReq = true := by
  rw [requestReadOnly, refresh_gbl]

theorem requestReadOnly_halt (s : State) : (requestReadOnly s).gbl.halt = s.gbl.halt := refresh_halt _

/-- The last conditions of R18 before DEGRADED: the register file answers, LOCK and RECOVERED are set, and a read-only condition holds. -/
theorem stateNow_readOnly {s : State} (hfailed : s.gbl.failed = false) (hhalted : s.gbl.halted = false) (hv : s.pins.vaon = true)
    (hr : s.pins.resetN = true) (hup : s.gbl.up = true) (hlock : s.gbl.lock = true) (hrec : s.gbl.recovered = true)
    (hro : s.readOnlyCond = true) : s.stateNow = .readOnly := by
  simp [State.stateNow, hfailed, hhalted, hv, hr, hup, hlock, hrec, hro]

theorem requestReadOnly_state {s : State} (hl : s.limited = false) (hv : s.pins.vaon = true) (hr : s.pins.resetN = true)
    (hup : s.gbl.up = true) (hlock : s.gbl.lock = true) (hrec : s.gbl.recovered = true) :
    (requestReadOnly s).gbl.state = .readOnly := by
  obtain ⟨hhalted, hfailed, hparked⟩ := (limited_eq_false s).1 hl
  rw [requestReadOnly, refresh_state, if_neg (by simp [hparked])]
  exact stateNow_readOnly hfailed hhalted hv hr hup hlock hrec (by simp [State.readOnlyCond])

/-! ### HALTED with the first cause, and the soft reset that follows it (R133, R168, R187) -/

/-- A device halted with the first cause keeps both whatever the stop does on top. -/
theorem enterHalted_first {s : State} (h : s.gbl.halt.cause = 0) {cause : BitVec 8} (hc : cause ≠ 0) (detail : Nat) :
    (enterHalted s cause detail).gbl.halted = true ∧ (enterHalted s cause detail).gbl.halt = ⟨cause, BitVec.ofNat 12 detail⟩ := by
  unfold enterHalted
  extract_lets s1 first _ s2
  have hhalted : s2.gbl.halted = true := by rw [show s2 = refresh _ from rfl, refresh_gbl]
  have hhalt : s2.gbl.halt = ⟨cause, BitVec.ofNat 12 detail⟩ := (refresh_halt _).trans (recordCause_first h cause detail)
  split
  · have k := stopBody_stays (.refl s2) afHalt cfHalt true true
    obtain ⟨-, khalted, -⟩ := k.stop
    obtain ⟨khalt, -⟩ := k.gbl
    exact ⟨khalted hhalted, (khalt (by rw [hhalt]; exact hc)).trans hhalt⟩
  · exact ⟨hhalted, hhalt⟩

/-- A soft reset leaves a halted device halted, with its cause. -/
theorem hostReset_halted {s : State} (kind : Fin 3) (h : s.gbl.halted = true) (hc : s.gbl.halt.cause ≠ 0) :
    (hostReset s kind).gbl.halted = true ∧ (hostReset s kind).gbl.halt = s.gbl.halt := by
  obtain ⟨-, khalted, -⟩ := hostReset_stop s kind
  obtain ⟨khalt, -⟩ := (hostReset_stays (.refl s) kind).gbl
  exact ⟨khalted h, khalt hc⟩

theorem hostHalted_halted {s : State} (h : s.gbl.halt.cause = 0) (ro irq : Bool) :
    (hostHalted s ro irq).gbl.halted = true ∧ (hostHalted s ro irq).gbl.halt = ⟨0x02, 0⟩ := by
  have hcause : (writeIrqEn (if ro then requestReadOnly s else s) irq).gbl.halt.cause = 0 := by
    cases ro <;> simp [requestReadOnly_halt, h]
  have k := enterHalted_first hcause (cause := causeHostHalt) (by decide) 0
  cases ro <;> exact k

theorem hostHalted_roCarry (s : State) (irq : Bool) : (hostHalted s true irq).aon.roCarry = true := rfl

theorem exec_haltReq {s : State} (h : s.hostAccess = true) (hl : s.limited = false) (ro irq : Bool) :
    exec (.haltReq ro false irq) s = .next (hostHalted s ro irq) :=
  congrArg Host.Outcome.next ((regWrite_always h rfl).trans (ctrlWrite_haltReq hl ro irq))

theorem exec_haltReq_softReset {s : State} (h : s.hostAccess = true) (hl : s.limited = false) (ro irq : Bool) :
    exec (.haltReq ro true irq) s = .next (hostReset (hostHalted s ro irq) 2) :=
  congrArg Host.Outcome.next ((regWrite_always h rfl).trans (ctrlWrite_haltReq_softReset hl ro irq))

/-! ### The request for READ_ONLY over one RESET_N (log 11) -/

@[simp] theorem syncDisagree_gbl (s : State) : (syncDisagree s).gbl = s.gbl := by
  unfold syncDisagree
  split <;> rfl

@[simp] theorem syncDisagree_roCarry (s : State) : (syncDisagree s).aon.roCarry = s.aon.roCarry := by
  unfold syncDisagree
  split <;> rfl

theorem exec_resetAssert {s : State} (hv : s.pins.vaon = true) :
    ∃ t, exec .resetAssert s = .next t ∧ t.gbl.halted = false ∧ t.aon.roCarry = s.aon.roCarry := by
  change ∃ t, execResetAssert s = .next t ∧ _
  rw [execResetAssert, if_neg (by simp [hv])]
  refine ⟨_, rfl, ?_, ?_⟩
  · rw [syncDisagree_gbl]
    rfl
  · rw [syncDisagree_roCarry]
    rfl

/-- The strap latch applies the request and drops the note, with every rail there or not. -/
theorem latchStraps_roReq {s : State} (h : s.gbl.coreOn = false) (straps : BitVec 8) (rails : RailLevels) (testEn : Bool) :
    (latchStraps s straps rails testEn).gbl.roReq = s.aon.roCarry := by
  unfold latchStraps
  dsimp only
  split
  · rw [enterFailed_coreOff (by exact h), portsDown_gbl, refresh_gbl]
    rfl
  · rfl

/-! ### BOOT_LOCK and PHB_WIN -/

@[simp] theorem setIrq_queues (s : State) (bits : BitVec 13) : (setIrq s bits).queues = s.queues := by
  rw [setIrq_eq]

@[simp] theorem refresh_queues (s : State) : (refresh s).queues = s.queues := by
  unfold refresh
  dsimp only
  repeat' split
  all_goals simp [noteGen]

/-- The admin queue, an I/O queue or a mover channel is enabled or running, so the window may not move (R179). -/
def State.windowInUse (s : State) : Prop :=
  s.adm.en = true ∨ (∃ k ∈ s.queues.qs, k.2.enabled = true) ∨ ∃ c : Fin 32, s.mover.chs[c].state ≠ .idle

theorem writePhbWin_unlocked {s : State} (h : s.gbl.lock = false) (v : Nat) :
    (s.windowInUse → writePhbWin s v = s) ∧
    (¬ s.windowInUse → writePhbWin s v = { s with prot := { s.prot with phbWin := BitVec.ofNat 13 v } }) := by
  have hany : (s.mover.chs.any (fun c => c.state != .idle)) = true ↔ ∃ c : Fin 32, s.mover.chs[c].state ≠ .idle := by
    simp [Vector.any_eq_true, Fin.exists_iff]
  have hguard : (s.adm.en || s.queues.qs.any (fun k => k.2.enabled) || s.mover.chs.any (fun c => c.state != .idle)) = true ↔
      s.windowInUse := by
    rw [Bool.or_eq_true, Bool.or_eq_true, hany, List.any_eq_true, or_assoc]
    rfl
  rw [writePhbWin, rwlWrite_unlocked h]
  exact ⟨fun hu => if_pos (hguard.2 hu), fun hu => if_neg (mt hguard.1 hu)⟩

end Sys2Proof.Machine
end

section
/-! SUPPORT. Fields of a written register, and the admin queue's registers: ADMQ_CFG and QINV (R175, R176, R191). -/

namespace Sys2Proof.Machine

/-! ### Fields of a register value -/

theorem bitOf_toNat (v : Word) (i : Nat) : bitOf v.toNat i = v.getLsbD i := by
  rw [bitOf, BitVec.getLsbD, Nat.testBit_eq_decide_div_mod_eq]
  rfl

theorem bitOf_or (v c : Word) (i : Nat) : bitOf (v ||| c).toNat i = (v.getLsbD i || c.getLsbD i) := by
  rw [bitOf_toNat, BitVec.getLsbD_or]

theorem bitOf_and (v c : Word) (i : Nat) : bitOf (v &&& c).toNat i = (v.getLsbD i && c.getLsbD i) := by
  rw [bitOf_toNat, BitVec.getLsbD_and]

theorem ofNat_bitsOf_toNat (v : Word) {hi lo n : Nat} (h : hi + 1 - lo = n) :
    BitVec.ofNat n (bitsOf v.toNat hi lo) = v.extractLsb' lo n := by
  apply BitVec.eq_of_toNat_eq
  simp [bitsOf, h, Nat.shiftRight_eq_div_pow]

/-! ### What the shadow's write leaves alone -/

@[simp] theorem shWrite_queues (s : State) (a : Nat) (bs : List Byte) : (shWrite s a bs).queues = s.queues := by
  unfold shWrite wakeDomain
  repeat' split
  all_goals rfl

theorem tget_writeShadow_self (s : State) (q : Nat) :
    tget (writeShadow s q).queues.qs q = (tget s.queues.qs q).map (fun k => { k with shadowDue := false }) := by
  unfold writeShadow
  split
  · rename_i h
    rw [h]
    rfl
  · simp [modQueue]

/-! ### ADMQ_CFG -/

/-- The fields of ADMQ_CFG beside EN, as a write with EN = 0 before puts them into the registers (Table 6-16). -/
def withAdmqFields (s : State) (v : Word) : State :=
  { s with adm := { s.adm with
    prefetch := BitVec.ofNat 8 (v.toNat / 256), crcReq := v.getLsbD 5, cacheMode := v.getLsbD 4, depthLog2 := v.truncate 4 } }

theorem admqEnable_prefetch (v : Word) :
    BitVec.ofNat 8 (bitsOf (v ||| 0x00010000).toNat 15 8) = BitVec.ofNat 8 (v.toNat / 256) := by
  have hen : BitVec.extractLsb' 8 8 (0x00010000 : Word) = 0#8 := rfl
  rw [ofNat_bitsOf_toNat (n := 8) _ rfl, BitVec.extractLsb'_or, hen, BitVec.or_zero, ← ofNat_bitsOf_toNat (hi := 15) _ rfl]
  apply BitVec.eq_of_toNat_eq
  simp [bitsOf]

theorem admqEnable_depthLog2 (v : Word) : BitVec.ofNat 4 ((v ||| 0x00010000).toNat % 16) = v.truncate 4 := by
  have hen : BitVec.setWidth 4 (0x00010000 : Word) = 0#4 := rfl
  have hlow : ∀ x : Word, BitVec.ofNat 4 (x.toNat % 16) = BitVec.setWidth 4 x := fun x => BitVec.eq_of_toNat_eq (by simp)
  rw [hlow, BitVec.setWidth_or, hen, BitVec.or_zero]

/-- A write of EN = 1 while disabled and idle: the fields first, then the judgment of R175. -/
theorem admqCfgWrite_enable {s : State} (hen : s.adm.en = false) (hidle : s.inflight 0 = 0) (v : Word) :
    admqCfgWrite s (v ||| 0x00010000).toNat =
      if (withAdmqFields s v).admOk = true then admEnable (withAdmqFields s v)
      else { withAdmqFields s v with adm := { (withAdmqFields s v).adm with cfgErr := true } } := by
  have hbit : bitOf (v ||| 0x00010000).toNat 16 = true := by rw [bitOf_or]; simp
  have hcrc : bitOf (v ||| 0x00010000).toNat 5 = v.getLsbD 5 := by rw [bitOf_or]; simp
  have hcache : bitOf (v ||| 0x00010000).toNat 4 = v.getLsbD 4 := by rw [bitOf_or]; simp
  unfold admqCfgWrite
  rw [if_neg (by simp [hen]), if_neg (by simp [hidle])]
  simp only [hbit, hcrc, hcache, admqEnable_prefetch, admqEnable_depthLog2, Bool.not_true, Bool.false_eq_true, if_false]
  rfl

/-- With EN = 1 a write counts by its EN alone. -/
theorem admqCfgWrite_enabled {s : State} (hen : s.adm.en = true) (v : Nat) :
    admqCfgWrite s v = if bitOf v 16 = true then s else disableQueue s 0 := if_pos hen

theorem exec_admqEnable {s : State} (h : s.hostAccess = true) (hl : s.limited = false) (v : Word) :
    exec (.admqEnable v) s = .next (admqCfgWrite s (v ||| 0x00010000).toNat) :=
  congrArg Host.Outcome.next (regWrite_running h hl rfl)

theorem exec_admqDisable {s : State} (h : s.hostAccess = true) (hl : s.limited = false) (v : Word) :
    exec (.admqDisable v) s = .next (admqCfgWrite s (v &&& 0xFFFEFFFF).toNat) :=
  congrArg Host.Outcome.next (regWrite_running h hl rfl)

theorem admEnable_en (s : State) : (admEnable s).adm.en = true := by
  rw [admEnable, (writeShadow_quiet (.refl _) 0).adm]

/-- The admin queue starts enabled at count 0 (R175). -/
theorem admEnable_queue {s : State} {k : Queue} (h : tget (admEnable s).queues.qs 0 = some k) :
    k.enabled = true ∧ k.head = 0 ∧ k.done = 0 := by
  rw [admEnable, tget_writeShadow_self] at h
  simp only [modQueue, tget_tmod_self, Option.map_map, Option.map_eq_some_iff] at h
  obtain ⟨k0, -, rfl⟩ := h
  exact ⟨rfl, rfl, rfl⟩

theorem disableQueue_queue {s : State} {q : Nat} {k : Queue} (h : tget (disableQueue s q).queues.qs q = some k) :
    k.enabled = false ∧ k.pend = false := by
  have hq : (disableQueue s q).queues = (modQueue s q (fun k => { k.endScan with enabled := false, pend := false })).queues := by
    unfold disableQueue
    dsimp only
    split <;> rfl
  rw [hq] at h
  simp only [modQueue, tget_tmod_self, Option.map_eq_some_iff] at h
  obtain ⟨k0, -, rfl⟩ := h
  exact ⟨rfl, rfl⟩

/-! ### QINV -/

theorem exec_qinvSlot {s : State} (h : s.hostAccess = true) (hl : s.limited = false) (slot : BitVec 12) :
    exec (.qinvSlot slot) s = .next (invalidate s false slot.toNat) := by
  have hslot : (slot.zeroExtend 32).toNat = slot.toNat := by simp; omega
  have hall : bitOf slot.toNat 12 = false := by simp [bitOf]; omega
  have hwrite := regWrite_running (s := s) (off := 0x064) (v := slot.zeroExtend 32) h hl rfl
  simp only [writeRunning, hslot, hall, Nat.mod_eq_of_lt slot.isLt] at hwrite
  exact congrArg Host.Outcome.next hwrite

theorem exec_qinvAll {s : State} (h : s.hostAccess = true) (hl : s.limited = false) :
    exec .qinvAll s = .next (invalidate s true 0) := congrArg Host.Outcome.next (regWrite_running h hl rfl)

/-- QINV leaves the placement and the counts of the queue; with no scan running it keeps exactly copies that it does not name. -/
theorem invalidate_queue {s : State} {all : Bool} {slot : Nat} {k k' : Queue} (hk : tget s.queues.qs s.adm.qsel.toNat = some k)
    (hk' : tget (invalidate s all slot).queues.qs s.adm.qsel.toNat = some k') :
    k'.p = k.p ∧ k'.head = k.head ∧ k'.done = k.done ∧
      (k.scan = .ended → ∀ c ∈ k'.cache, c ∈ k.cache ∧ all = false ∧ c.slot ≠ slot) := by
  rw [invalidate, tget_modQueue_self hk, Option.some_inj] at hk'
  subst hk'
  refine ⟨rfl, rfl, rfl, fun hscan c hc => ?_⟩
  simpa [hscan] using hc

end Sys2Proof.Machine
end

section
/-! SUPPORT. The Block Mover: what an access and a status bit leave alone of the channels, and what each operation of a channel does
(R583 to R604). -/

namespace Sys2Proof.Machine

/-! ### Operations that leave the channels alone -/

theorem mov_congr {s t : State} (h : t.mover = s.mover) (c : Fin 32) : t.mov c = s.mov c := congrArg (fun m : Mover => m.chs[c]) h

@[simp] theorem movIrq_mov (s : State) (c : Fin 32) : (movIrq s).mov c = s.mov c := mov_congr (setIrq_quiet (.refl s) irqMover).mover c

@[simp] theorem countBus_mov (s : State) (c : Fin 32) : (countBus s).mov c = s.mov c := rfl

@[simp] theorem writeBack_mov (s : State) (m : MovCh) (r : MovRun) (d : Nat) (c : Fin 32) : (writeBack s m r d).mov c = s.mov c :=
  mov_congr (shWrite_quiet (.refl s) _ _).mover c

/-! ### START of a channel (R583, R584) -/

section
variable {s : State} {c : Fin 32} (hidle : (s.mov c).state = .idle) (hl : s.limited = false) (hpf : s.energy.pfSeq = false)
include hidle hl hpf

theorem startCh_list (n : Nat) (hm : (s.mov c).mode = true) :
    startCh (n + 1) s c = setMov s c { s.mov c with state := .running, run := none, begun := 0, bursts := [] } := by
  simp [startCh, hidle, hl, hpf, hm]

theorem startCh_bytes (n : Nat) (hm : (s.mov c).mode = false) (hcount : (s.mov c).count ≠ 0) :
    startCh (n + 1) s c =
      setMov s c { s.mov c with state := .running, run := some (s.mov c).regRun, begun := 0, bursts := [] } := by
  unfold startCh
  rw [if_neg (by simp [hidle, hl, hpf]), if_neg (by simp [hm]), if_neg hcount]

/-- A transfer of no bytes that chooses no pulse (Table 6-19). -/
theorem startCh_empty (n : Nat) (hm : (s.mov c).mode = false) (hcount : (s.mov c).count = 0) (hkind : (s.mov c).evtKind = 0) :
    startCh (n + 1) s c = s := by
  simp [startCh, hidle, hl, hpf, hm, hcount, hkind]

end

/-! ### MOV_CTRL (R188, R602) -/

/-- The fields of MOV_CTRL beside START and ABORT, as a write puts them into the channel (Table 6-19). -/
def MovCh.withCtrl (m : MovCh) (v : Word) : MovCh :=
  { m with
    evtInSel := Fin.ofNat 4 (bitsOf v.toNat 22 21), evtInEn := bitOf v.toNat 20, evtArg := BitVec.ofNat 12 (bitsOf v.toNat 19 8)
    evtKind := BitVec.ofNat 2 (bitsOf v.toNat 7 6), dstDram := bitOf v.toNat 5, srcDram := bitOf v.toNat 4
    align := bitOf v.toNat 3, mode := bitOf v.toNat 2 }

@[simp] theorem MovCh.withCtrl_state (m : MovCh) (v : Word) : (m.withCtrl v).state = m.state := rfl
@[simp] theorem MovCh.withCtrl_count (m : MovCh) (v : Word) : (m.withCtrl v).count = m.count := rfl
@[simp] theorem MovCh.withCtrl_bursts (m : MovCh) (v : Word) : (m.withCtrl v).bursts = m.bursts := rfl
@[simp] theorem MovCh.withCtrl_aborted (m : MovCh) (v : Word) : (m.withCtrl v).aborted = m.aborted := rfl

/-- The state with those fields written to the selected channel. -/
def withMovCtrl (s : State) (v : Word) : State := setMov s s.mover.sel ((s.mov s.mover.sel).withCtrl v)

@[simp] theorem withMovCtrl_mov (s : State) (v : Word) :
    (withMovCtrl s v).mov s.mover.sel = (s.mov s.mover.sel).withCtrl v := setMov_mov_self _ _ _

theorem movCtrlWrite_start {s : State} {v : Word} (h1 : bitOf v.toNat 1 = false) (h0 : bitOf v.toNat 0 = true) :
    movCtrlWrite s v = startCh 33 (withMovCtrl s v) s.mover.sel :=
  (if_neg (Bool.eq_false_iff.1 h1)).trans (if_pos h0)

/-- ABORT of an idle channel is reported only where START is written with it (R188). -/
theorem movCtrlWrite_abort_idle {s : State} {v : Word} (h1 : bitOf v.toNat 1 = true) (hidle : (s.mov s.mover.sel).state = .idle) :
    movCtrlWrite s v = if bitOf v.toNat 0 = true
      then movIrq (setMov (withMovCtrl s v) s.mover.sel { (s.mov s.mover.sel).withCtrl v with aborted := true })
      else withMovCtrl s v :=
  (if_pos h1).trans (if_pos (beq_iff_eq.2 hidle))

theorem movCtrlWrite_abort_busy {s : State} {v : Word} (h1 : bitOf v.toNat 1 = true) (hbusy : (s.mov s.mover.sel).state ≠ .idle) :
    movCtrlWrite s v = movAbort (withMovCtrl s v) s.mover.sel :=
  (if_pos h1).trans (if_neg (mt beq_iff_eq.1 hbusy))

/-! ### ABORT of a running channel (R594, R595) -/

theorem movAbort_burst {s : State} {c : Fin 32} (hrun : (s.mov c).state = .running) {x : Burst} {xs : List Burst}
    (hb : (s.mov c).bursts = x :: xs) :
    movAbort s c = setMov s c { s.mov c with state := .aborting, bursts := [x] } := by
  simp [movAbort, hrun, hb]

theorem movAbort_noBurst {s : State} {c : Fin 32} (hrun : (s.mov c).state = .running) (hb : (s.mov c).bursts = []) :
    movAbort s c = movStop s c true := by
  simp [movAbort, hrun, hb]

theorem movStop_mov (s : State) (c : Fin 32) (wb : Bool) :
    ((movStop s c wb).mov c).state = .idle ∧ ((movStop s c wb).mov c).aborted = true := by
  unfold movStop
  dsimp only
  rw [movIrq_mov, setMov_mov_self]
  exact ⟨rfl, rfl⟩

/-! ### The host's commands: each is a write of MOV_CTRL, ignored where registers are limited (R180) -/

theorem exec_movStart {s : State} (h : s.hostAccess = true) (hl : s.limited = false) (v : Word) :
    exec (.movStart v) s = .next (movCtrlWrite s (v ||| 1)) := if_pos (by simp [h, hl])

theorem exec_movAbort {s : State} (h : s.hostAccess = true) (hl : s.limited = false) (v : Word) :
    exec (.movAbort v) s = .next (movCtrlWrite s (v ||| 2)) := if_pos (by simp [h, hl])

theorem exec_movStart_limited {s : State} (hl : s.limited = true) (v : Word) : exec (.movStart v) s = .next s :=
  if_neg (by simp [hl])

theorem exec_movAbort_limited {s : State} (hl : s.limited = true) (v : Word) : exec (.movAbort v) s = .next s :=
  if_neg (by simp [hl])

section
variable {s : State} {v : Word} (h : s.hostAccess = true) (hl : s.limited = false)
include h hl

/-- START alone starts the selected channel with the fields just written. -/
theorem exec_movStart_alone (h1 : v.getLsbD 1 = false) :
    exec (.movStart v) s = .next (startCh 33 (withMovCtrl s (v ||| 1)) s.mover.sel) := by
  have hstart : bitOf (v ||| 1).toNat 0 = true := by rw [bitOf_or]; simp
  have habort : bitOf (v ||| 1).toNat 1 = false := by rw [bitOf_or, h1]; rfl
  rw [exec_movStart h hl, movCtrlWrite_start habort hstart]

theorem exec_movAbort_busy (hbusy : (s.mov s.mover.sel).state ≠ .idle) :
    exec (.movAbort v) s = .next (movAbort (withMovCtrl s (v ||| 2)) s.mover.sel) := by
  have habort : bitOf (v ||| 2).toNat 1 = true := by rw [bitOf_or]; simp
  rw [exec_movAbort h hl, movCtrlWrite_abort_busy habort hbusy]

theorem exec_movAbort_idle (hidle : (s.mov s.mover.sel).state = .idle) :
    exec (.movAbort v) s = .next (if v.getLsbD 0 = true
      then movIrq (setMov (withMovCtrl s (v ||| 2)) s.mover.sel { (s.mov s.mover.sel).withCtrl (v ||| 2) with aborted := true })
      else withMovCtrl s (v ||| 2)) := by
  have habort : bitOf (v ||| 2).toNat 1 = true := by rw [bitOf_or]; simp
  have hstart : bitOf (v ||| 2).toNat 0 = v.getLsbD 0 := by rw [bitOf_or]; simp
  rw [exec_movAbort h hl, movCtrlWrite_abort_idle habort hidle, hstart]

end

/-! ### The fields that START reads, from the value written -/

theorem withMovCtrl_mode_start (s : State) (v : Word) :
    ((withMovCtrl s (v ||| 1)).mov s.mover.sel).mode = v.getLsbD 2 := by
  rw [withMovCtrl_mov]
  change bitOf (v ||| 1).toNat 2 = _
  rw [bitOf_or]
  simp

/-- EVT_KIND 0 chooses no pulse. -/
theorem withMovCtrl_evtKind_start (s : State) {v : Word} (h6 : v.getLsbD 6 = false) (h7 : v.getLsbD 7 = false) :
    ((withMovCtrl s (v ||| 1)).mov s.mover.sel).evtKind = 0 := by
  rw [withMovCtrl_mov]
  change BitVec.ofNat 2 (bitsOf (v ||| 1).toNat 7 6) = 0
  have hzero : BitVec.extractLsb' 6 2 (1 : Word) = 0#2 := rfl
  rw [ofNat_bitsOf_toNat (n := 2) _ rfl, BitVec.extractLsb'_or, hzero, BitVec.or_zero]
  apply BitVec.eq_of_getLsbD_eq
  intro i hi
  rw [BitVec.getLsbD_extractLsb']
  interval_cases i
  · simpa using h6
  · simpa using h7

/-! ### What START and ABORT leave of the selected channel -/

section
variable {s : State} {v : Word} (h : s.hostAccess = true) (hl : s.limited = false)
include h hl

section
variable (hpf : s.energy.pfSeq = false) (hidle : (s.mov s.mover.sel).state = .idle) (h1 : v.getLsbD 1 = false)
include hpf hidle h1

/-- START in list mode runs the channel, whose descriptor is still to be read (R584). -/
theorem movStart_list (h2 : v.getLsbD 2 = true) : ∃ t, exec (.movStart v) s = .next t ∧
    (t.mov s.mover.sel).state = .running ∧ (t.mov s.mover.sel).count = (s.mov s.mover.sel).count := by
  have hmode : ((withMovCtrl s (v ||| 1)).mov s.mover.sel).mode = true := by rw [withMovCtrl_mode_start, h2]
  rw [exec_movStart_alone h hl h1, startCh_list (s := withMovCtrl s (v ||| 1)) (by simp [hidle]) hl hpf 32 hmode]
  exact ⟨_, rfl, by simp, by simp⟩

/-- START in register mode with bytes to move runs what the registers say (R583). -/
theorem movStart_bytes (h2 : v.getLsbD 2 = false) (hcount : (s.mov s.mover.sel).count ≠ 0) : ∃ t, exec (.movStart v) s = .next t ∧
    (t.mov s.mover.sel).state = .running ∧ (t.mov s.mover.sel).run.isSome = true := by
  have hmode : ((withMovCtrl s (v ||| 1)).mov s.mover.sel).mode = false := by rw [withMovCtrl_mode_start, h2]
  rw [exec_movStart_alone h hl h1,
    startCh_bytes (s := withMovCtrl s (v ||| 1)) (by simp [hidle]) hl hpf 32 hmode (by simpa using hcount)]
  exact ⟨_, rfl, by simp, by simp⟩

/-- START with nothing to move and no pulse chosen leaves the channel idle. -/
theorem movStart_empty (h2 : v.getLsbD 2 = false) (hcount : (s.mov s.mover.sel).count = 0) (h6 : v.getLsbD 6 = false)
    (h7 : v.getLsbD 7 = false) : ∃ t, exec (.movStart v) s = .next t ∧ (t.mov s.mover.sel).state = .idle := by
  have hmode : ((withMovCtrl s (v ||| 1)).mov s.mover.sel).mode = false := by rw [withMovCtrl_mode_start, h2]
  rw [exec_movStart_alone h hl h1, startCh_empty (s := withMovCtrl s (v ||| 1)) (by simp [hidle]) hl hpf 32 hmode
    (by simpa using hcount) (withMovCtrl_evtKind_start s h6 h7)]
  exact ⟨_, rfl, by simp [hidle]⟩

end

/-- ABORT with START on an idle channel starts nothing and sets ABORTED (R188). -/
theorem movAbort_idle_start (hidle : (s.mov s.mover.sel).state = .idle) (h0 : v.getLsbD 0 = true) :
    ∃ t, exec (.movAbort v) s = .next t ∧ (t.mov s.mover.sel).state = .idle ∧ (t.mov s.mover.sel).aborted = true ∧
      (t.mov s.mover.sel).count = (s.mov s.mover.sel).count := by
  rw [exec_movAbort_idle h hl hidle, if_pos h0]
  exact ⟨_, rfl, by simp [hidle], by simp, by simp⟩

/-- ABORT alone on an idle channel changes no state. -/
theorem movAbort_idle_alone (hidle : (s.mov s.mover.sel).state = .idle) (h0 : v.getLsbD 0 = false) :
    ∃ t, exec (.movAbort v) s = .next t ∧ (t.mov s.mover.sel).state = .idle ∧
      (t.mov s.mover.sel).aborted = (s.mov s.mover.sel).aborted := by
  rw [exec_movAbort_idle h hl hidle, if_neg (Bool.eq_false_iff.1 h0)]
  exact ⟨_, rfl, by simp [hidle], by simp⟩

section
variable (hrun : (s.mov s.mover.sel).state = .running)
include hrun

/-- ABORT of a running channel keeps its oldest burst alone (R594). -/
theorem movAbort_running_burst {x : Burst} {xs : List Burst} (hb : (s.mov s.mover.sel).bursts = x :: xs) :
    ∃ t, exec (.movAbort v) s = .next t ∧ (t.mov s.mover.sel).state = .aborting ∧ (t.mov s.mover.sel).bursts = [x] := by
  rw [exec_movAbort_busy h hl (by simp [hrun]), movAbort_burst (by simp [hrun]) (by simpa using hb)]
  exact ⟨_, rfl, by simp, by simp⟩

/-- With no burst unfinished the channel stops as aborted (R595). -/
theorem movAbort_running_noBurst (hb : (s.mov s.mover.sel).bursts = []) :
    ∃ t, exec (.movAbort v) s = .next t ∧ (t.mov s.mover.sel).state = .idle ∧ (t.mov s.mover.sel).aborted = true := by
  rw [exec_movAbort_busy h hl (by simp [hrun]), movAbort_noBurst (by simp [hrun]) (by simpa using hb)]
  exact ⟨_, rfl, movStop_mov _ _ _⟩

end

end

/-! ### Descriptors and bursts -/

section
variable {s : State} {ch : Fin 32} (b : Bus)

section
variable (hrun : (s.mov ch).state = .running) (hmode : (s.mov ch).mode = true) (hnone : (s.mov ch).run = none)
include hrun hmode hnone

/-- A descriptor that cannot be read stops the channel (R596, Table 18-4). -/
theorem exec_moverDescFetch_failed (hd : movRead (absorbBus s b) b false (s.mov ch).next.toNat 32 = none) :
    exec (.moverDescFetch ch b) s = .next (movIrq (countBus (setMov (absorbBus s b) ch
      { s.mov ch with state := .idle, count := 0, badSeen := true }))) := by
  change execMoverDescFetch ch b s = _
  simp [execMoverDescFetch, hrun, hmode, hnone, hd]

theorem exec_moverDescFetch_read {d : List Byte} (hd : movRead (absorbBus s b) b false (s.mov ch).next.toNat 32 = some d) :
    let t := setMov (absorbBus s b) ch
      { s.mov ch with run := some (descRun d), count := BitVec.ofNat 32 (descRun d).count, begun := 0, bursts := [] }
    exec (.moverDescFetch ch b) s = .next (if (descRun d).count = 0 then movDone t ch (descRun d) false else t) := by
  change execMoverDescFetch ch b s = _
  simp [execMoverDescFetch, hrun, hmode, hnone, hd, apply_ite Host.Outcome.next]

end

theorem exec_moverBurstStart {r : MovRun} (hr : (s.mov ch).run = some r) (hrun : (s.mov ch).state = .running)
    (hfew : (s.mov ch).bursts.length < 4) (hleft : (s.mov ch).begun < r.count) :
    let p := r.dst + (s.mov ch).begun
    let n := burstLen r.edge (s.mov ch).burstSize p (r.dst + r.count)
    exec (.moverBurstStart ch) s =
      .next (setMov s ch { s.mov ch with begun := (s.mov ch).begun + n, bursts := (s.mov ch).bursts ++ [⟨p, n⟩] }) := by
  change execMoverBurstStart ch s = _
  simp [execMoverBurstStart, hr, hrun, hfew, hleft]

section
variable {r : MovRun} {x : Burst} {xs : List Burst} (hr : (s.mov ch).run = some r) (hb : (s.mov ch).bursts = x :: xs)
include hr hb

theorem exec_moverBurstDone_noData (hd : burstData (absorbBus s b) b r x = none) :
    exec (.moverBurstDone ch b) s = .next (movBad (absorbBus s b) ch r) := by
  change execMoverBurstDone ch b s = _
  simp only [execMoverBurstDone, hr, hb, hd]

variable {d : List Byte} {t : State} (hd : burstData (absorbBus s b) b r x = some d)
include hd

theorem exec_moverBurstDone_notWritten (hw : movWrite (absorbBus s b) r.dstDram x.dst d = (t, false)) :
    exec (.moverBurstDone ch b) s = .next (movBad (absorbBus s b) ch r) := by
  change execMoverBurstDone ch b s = _
  simp [execMoverBurstDone, hr, hb, hd, hw]

/-- The state after a burst's write: its bytes are moved, and MOV_COUNT holds what remains (R583). -/
theorem exec_moverBurstDone_written (hw : movWrite (absorbBus s b) r.dstDram x.dst d = (t, true)) :
    let r1 : MovRun := { r with moved := r.moved + x.len }
    let u := setMov t ch { s.mov ch with run := some r1, bursts := xs, count := BitVec.ofNat 32 (r.count - (r.moved + x.len)) }
    exec (.moverBurstDone ch b) s = .next (
      if r.count ≤ r.moved + x.len then movDone u ch r1 ((s.mov ch).state == .aborting)
      else if (s.mov ch).state = .aborting then movStop u ch true else u) := by
  change execMoverBurstDone ch b s = _
  simp [execMoverBurstDone, hr, hb, hd, hw, MovCh.residue, apply_ite Host.Outcome.next]

end

end

/-! ### Pins (R592, R593) -/

/-- The starts of an edge, one idle channel after another; a chain of pulses is followed 33 starts deep (log 9). -/
theorem exec_evtInEdge {s : State} (hcore : s.gbl.coreOn = true) (hl : s.limited = false) (hpf : s.energy.pfSeq = false)
    (pin : Fin 4) : exec (.evtInEdge pin) s = .next (eachMov (fun s c =>
      if (s.mov c).evtInEn = true ∧ (s.mov c).evtInSel = pin then startCh 33 s c else s) s) := by
  change execEvtInEdge pin s = _
  rw [execEvtInEdge, if_neg (by simp [hcore, hl, hpf])]
  simp only [Bool.and_eq_true, beq_iff_eq]

theorem exec_evtOutEnd {s : State} {pin : Fin 4} (h : s.calPin ≠ some pin) :
    exec (.evtOutEnd pin) s = .next { s with pins := { s.pins with evtOut := putBit s.pins.evtOut pin.val false } } :=
  if_neg (by simpa using h)

end Sys2Proof.Machine
end

section
/-! PROOFS. The obligations about the register file (chapter 6): what survives outside the resets, the frame of the commands that are no
register writes, and the writes of GBL_CTRL, the masks, BOOT_LOCK, PHB_WIN, ADMQ_CFG, QINV and the Block Mover. -/

namespace Sys2Proof.Machine

theorem rwlSame_of_rwl {s t : State} (h : t.prot.rwl = s.prot.rwl) : Claims.RwlSame s t := by
  simp only [Prot.rwl, Prod.mk.injEq] at h
  exact h

/-- Settles O7: every command outside the resets keeps what `Stays` says of the global and the protection registers. -/
theorem firstCauseAndLockLast : Obligations.FirstCauseAndLockLast := by
  intro c s t hc hexec
  have k := exec_stays hc s t hexec
  obtain ⟨hhalt, hlock⟩ := k.gbl
  exact ⟨hhalt, fun h => ⟨hlock h, rwlSame_of_rwl (k.prot h)⟩⟩

/-- Settles O10: the frame of the command lists is `Quiet`, which each of them keeps. -/
theorem entryAndMediaFrame : Obligations.EntryAndMediaFrame := by
  intro c s t hc hexec
  have k := exec_quiet hc s t hexec
  exact ⟨k.aon, k.prot, k.adm, k.pwr, k.doms, k.mover⟩

/-- Settles O38: LOCK decides first, then whether the window is in use. -/
theorem phbWinIgnoredWhileInUse : Obligations.PhbWinIgnoredWhileInUse := by
  intro s v h hl
  have hexec : exec (.registerWrite 0x0D0 v 0xF) s = .next (writePhbWin s v.toNat) := exec_registerWrite_running h hl rfl rfl
  rw [hexec]
  refine ⟨fun hk huse => ?_, fun hk => ?_, fun hk hadm hqs hmov => ?_⟩
  · rw [(writePhbWin_unlocked hk _).1 huse]
  · have hp : (writePhbWin s v.toNat).prot = _ := (congrArg State.prot (rwlWrite_locked hk _ _)).trans (violation_prot _ _)
    exact ⟨_, rfl, by rw [hp], by rw [hp]; rfl, by rw [hp]⟩
  · have hfree : ¬ s.windowInUse := by
      rintro (he | ⟨k, hmem, he⟩ | ⟨c, he⟩)
      · simp [hadm] at he
      · simp [hqs k hmem] at he
      · exact he (hmov c)
    rw [(writePhbWin_unlocked hk _).2 hfree, BitVec.ofNat_toNat]

/-- Settles O39: each write is its register's operation, whose message depends on the bits it exposes. -/
theorem controlRegisterResult : Obligations.ControlRegisterResult := by
  intro s h
  refine ⟨congrArg Host.Outcome.next (if_pos h), fun hl => ?_, fun hl hk => ?_, ?_, fun m => ?_⟩
  · refine ⟨_, congrArg Host.Outcome.next ((regWrite_always h rfl).trans (ctrlWrite_roReq hl _)), ?_, ?_, fun hv hr hk hrec => ?_⟩
    · simp [requestReadOnly_roReq]
    · simp
    · simp [requestReadOnly_state hl hv hr (hostAccess_up h) hk hrec]
  · refine ⟨_, exec_bootLockSet h hl, ?_⟩
    rw [writeBootLock_unlocked hk]
    exact ⟨refresh_lock _, by rw [refresh_gbl], refresh_prot _, refresh_aon _, refresh_queues _⟩
  · refine ⟨_, congrArg Host.Outcome.next ((regWrite_always h rfl).trans (ctrlWrite_irqEn s)), writeIrqEn_gbl _ _,
      writeIrqEn_true_silent, fun hen hbit hphb hpf => ?_⟩
    exact writeIrqEn_true_sends hen hbit hphb (hostAccess_orphan h hphb) hpf
  · refine ⟨_, congrArg Host.Outcome.next (regWrite_always h rfl), writeIrqMask_gbl _ _, fun hen hbit hphb hpf => ?_⟩
    exact writeIrqMask_sends hen hbit hphb (hostAccess_orphan h hphb) hpf

/-- Settles O40: the soft reset finds the device halted and ends no stop; the note of a request for READ_ONLY stands in the always-on
logic, which outlives RESET_N (log 11). -/
theorem haltThenSoftReset : Obligations.HaltThenSoftReset := by
  refine ⟨fun s ro irq h hl hc => ⟨?_, ?_⟩, fun s hv => exec_resetAssert hv, fun s straps rails testEn hv hr hd hj hcore => ?_⟩
  · obtain ⟨hhalted, hhalt⟩ := hostHalted_halted hc ro irq
    obtain ⟨khalted, khalt⟩ := hostReset_halted 2 hhalted (by rw [hhalt]; decide)
    have k := hostReset_quiet (hostHalted s ro irq) 2
    refine ⟨_, exec_haltReq_softReset h hl ro irq, khalted, khalt.trans hhalt, k.adm, k.mover, ?_⟩
    rintro rfl
    exact (congrArg Aon.roCarry k.aon).trans (hostHalted_roCarry s irq)
  · obtain ⟨hhalted, hhalt⟩ := hostHalted_halted hc ro irq
    refine ⟨_, exec_haltReq h hl ro irq, hhalted, hhalt, ?_⟩
    rintro rfl
    exact hostHalted_roCarry s irq
  · obtain ⟨-, haon, -⟩ := latchStraps_coreOff straps rails testEn hcore
    exact ⟨_, exec_resetRelease_latches straps rails testEn hv hr hd hj, latchStraps_roReq hcore _ _ _,
      congrArg Aon.roCarry haon⟩

/-- Settles O42: the judgment of R175 on the fields written, EN alone once the queue is enabled, and the cached copies QINV drops. -/
theorem adminQueueRegisterResult : Obligations.AdminQueueRegisterResult := by
  intro s h hl
  refine ⟨fun v hen hidle => ⟨fun hok => ?_, fun hok => ?_⟩, fun v hen => ⟨?_, ?_⟩, exec_qinvSlot h hl, exec_qinvAll h hl,
    fun all slot k k' => invalidate_queue⟩
  · rw [exec_admqEnable h hl, admqCfgWrite_enable hen hidle, if_pos (show (withAdmqFields s v).admOk = true from hok)]
    exact ⟨rfl, admEnable_en _, fun k => admEnable_queue⟩
  · have hbad : ¬ (withAdmqFields s v).admOk = true := by
      intro hgood
      exact absurd (hgood.symm.trans hok) (by decide)
    rw [exec_admqEnable h hl, admqCfgWrite_enable hen hidle, if_neg hbad]
    rfl
  · have hbit : bitOf (v ||| 0x00010000).toNat 16 = true := by rw [bitOf_or]; simp
    rw [exec_admqEnable h hl, admqCfgWrite_enabled hen, if_pos hbit]
  · have hbit : bitOf (v &&& 0xFFFEFFFF).toNat 16 = false := by rw [bitOf_and]; simp
    rw [exec_admqDisable h hl, admqCfgWrite_enabled hen, if_neg (Bool.eq_false_iff.1 hbit)]
    exact ⟨_, rfl, rfl, fun k => disableQueue_queue, rfl⟩

/-- Settles O57: what a write of MOV_CTRL leaves of an idle and of a running channel, then each command of the Block Mover by its cases. -/
theorem moverResult : Obligations.MoverResult := by
  refine ⟨fun s v h => ⟨fun hl => ⟨exec_movStart h hl v, exec_movAbort h hl v⟩,
      fun hl => ⟨exec_movStart_limited hl v, exec_movAbort_limited hl v⟩⟩,
    fun s v h hl hpf hidle => ⟨movStart_list h hl hpf hidle, movStart_bytes h hl hpf hidle, movStart_empty h hl hpf hidle,
      movAbort_idle_start h hl hidle, movAbort_idle_alone h hl hidle⟩,
    fun s v h hl hrun => ⟨fun _ _ => movAbort_running_burst h hl hrun, movAbort_running_noBurst h hl hrun⟩,
    fun s pin hcore hl hpf => exec_evtInEdge hcore hl hpf pin,
    fun s ch b hrun hmode hnone => ⟨fun hd => ?_, fun d => exec_moverDescFetch_read b hrun hmode hnone⟩,
    fun s ch r => exec_moverBurstStart,
    fun s ch b r x xs hr hb => ⟨exec_moverBurstDone_noData b hr hb, fun d t => exec_moverBurstDone_written b hr hb,
      fun d t => exec_moverBurstDone_notWritten b hr hb⟩,
    fun s pin => exec_evtOutEnd⟩
  exact ⟨_, exec_moverDescFetch_failed b hrun hmode hnone hd, by simp, by simp, by simp⟩

end Sys2Proof.Machine
end

section
/-! SUPPORT. Runs of bytes in memory, and what a delivery of read data leaves alone (R216, R749). -/

namespace Sys2Proof.Machine

/-! ### Runs of bytes -/

theorem memWriteL_append (m : Mem) (a : Nat) (xs ys : List Byte) :
    memWriteL m a (xs ++ ys) = memWriteL (memWriteL m a xs) (a + xs.length) ys := by
  induction xs generalizing m a with
  | nil => rfl
  | cons x xs ih => rw [List.cons_append, memWriteL, memWriteL, ih, List.length_cons, Nat.add_right_comm, Nat.add_assoc]

/-- A run of bytes is read from the bytes in it alone. -/
theorem memReadN_congr {m m' : Mem} {a n : Nat} (h : ∀ x, a ≤ x → x < a + n → memRead m x = memRead m' x) :
    memReadN m a n = memReadN m' a n := by
  induction n generalizing a with
  | zero => rfl
  | succ n ih =>
    rw [memReadN, memReadN, h a (by omega) (by omega), ih (fun x hlo hhi => h x (by omega) (by omega))]

/-- The first part of a run written at once reads back. -/
theorem memReadN_memWriteL_append (m : Mem) (a : Nat) (xs ys : List Byte) :
    memReadN (memWriteL m a (xs ++ ys)) a xs.length = xs := by
  rw [memWriteL_append, memReadN_congr (fun x _ hx => memRead_memWriteL_ne _ _ _ x (.inl hx)), memReadN_memWriteL]

/-- A byte within zeros that were written reads zero. -/
theorem memRead_memWriteL_zeros (m : Mem) (a n : Nat) {i : Nat} (h : i < n) :
    memRead (memWriteL m a (List.replicate n 0)) (a + i) = 0 := by
  induction n generalizing m a i with
  | zero => omega
  | succ n ih =>
    rw [List.replicate_succ, memWriteL]
    cases i with
    | zero => rw [memRead_memWriteL_ne _ _ _ _ (by omega), Nat.add_zero, memRead_memWrite_self]
    | succ i => rw [← Nat.add_assoc, Nat.add_right_comm, ih _ _ (by omega)]

@[simp] theorem length_leBytes (n v : Nat) : (leBytes n v).length = n := by
  induction n generalizing v with
  | zero => rfl
  | succ n ih => rw [leBytes, List.length_cons, ih]

theorem leBytes_zero (n : Nat) : leBytes n 0 = List.replicate n 0 := by
  induction n with
  | zero => rfl
  | succ n ih => rw [leBytes, List.replicate_succ, Nat.zero_div, ih]; rfl

@[simp] theorem length_bytesAt (bs : List Byte) (off n : Nat) : (bytesAt bs off n).length = n := by
  simp [bytesAt]

/-! ### Device stores: to one of the two memories, at the bytes stored -/

@[simp] theorem wakeDomain_host (s : State) (d : Nat) : (wakeDomain s d).host = s.host :=
  (wakeDomain_silent (.refl s) d).host

/-- A posted write of PCIe mode (R165). -/
theorem shWrite_pcie {s : State} (hphb : s.phb = false) (hw : s.mayWriteShared = true) (a : Nat) (bs : List Byte) :
    shWrite s a bs = { s with host := memWriteL s.host a bs } := by
  simp [shWrite, hphb, hw]

/-- What is stored in PCIe mode reads back. -/
theorem memReadN_shWrite {s : State} (hphb : s.phb = false) (hw : s.mayWriteShared = true) (a : Nat) {bs : List Byte} {n : Nat}
    (hn : bs.length = n) : memReadN (shWrite s a bs).host a n = bs := by
  rw [shWrite_pcie hphb hw, ← hn, memReadN_memWriteL]

/-- Two parts of a run stored one after the other. -/
theorem shWrite_append {s : State} (hphb : s.phb = false) (hw : s.mayWriteShared = true) (a : Nat) (xs ys : List Byte) :
    shWrite (shWrite s a xs) (a + xs.length) ys = shWrite s a (xs ++ ys) := by
  rw [shWrite_pcie hphb hw a xs, shWrite_pcie (s := { s with host := memWriteL s.host a xs }) hphb hw, shWrite_pcie hphb hw,
    memWriteL_append]

@[simp] theorem shWrite_phb (s : State) (a : Nat) (bs : List Byte) : (shWrite s a bs).phb = s.phb :=
  congrArg Aon.phb (shWrite_quiet (.refl s) a bs).aon

theorem shWrite_dram {s : State} (hphb : s.phb = false) (a : Nat) (bs : List Byte) : (shWrite s a bs).dram = s.dram := by
  cases hw : s.mayWriteShared with
  | false => simp [shWrite, hw]
  | true => rw [shWrite_pcie hphb hw]

/-- A device write changes no byte of shared memory outside its run. -/
theorem shWrite_host_outside (s : State) {a x : Nat} {bs : List Byte} (h : x < a ∨ a + bs.length ≤ x) :
    memRead (shWrite s a bs).host x = memRead s.host x := by
  unfold shWrite
  split
  · rfl
  · split
    · split
      · exact congrArg (memRead · x) (wakeDomain_host s 3)
      · rfl
    · exact memRead_memWriteL_ne _ _ _ _ h

@[simp] theorem dramWriteL_phb (s : State) (a : Nat) (bs : List Byte) : (dramWriteL s a bs).1.phb = s.phb :=
  congrArg Aon.phb (dramWriteL_quiet (.refl s) a bs).aon

@[simp] theorem dramWriteL_host (s : State) (a : Nat) (bs : List Byte) : (dramWriteL s a bs).1.host = s.host := by
  unfold dramWriteL
  split
  · exact wakeDomain_host s 3
  · rfl

/-- A device write changes no byte of attached DRAM outside its run. -/
theorem dramWriteL_dram_outside (s : State) {a x : Nat} {bs : List Byte} (h : x < a ∨ a + bs.length ≤ x) :
    memRead (dramWriteL s a bs).1.dram x = memRead s.dram x := by
  unfold dramWriteL
  split
  · exact memRead_memWriteL_ne _ _ _ _ h
  · rfl

/-! ### Delivery -/

/-- A delivery in PCIe mode, buffer by buffer. -/
theorem scatter_cons {s : State} (hphb : s.phb = false) (g : Seg) (gs : List Seg) (bs : List Byte) :
    scatter s (g :: gs) bs =
      if (bs.take g.len).isEmpty then (s, true)
      else if g.discard then scatter s gs (bs.drop g.len)
      else if g.dram then
        if (dramWriteL s g.addr (bs.take g.len)).2 then scatter (dramWriteL s g.addr (bs.take g.len)).1 gs (bs.drop g.len)
        else ((dramWriteL s g.addr (bs.take g.len)).1, false)
      else scatter (shWrite s g.addr (bs.take g.len)) gs (bs.drop g.len) := by
  simp only [scatter, hphb, Bool.false_and, Bool.false_eq_true, if_false]

/-- What each store into a buffer of its list leaves alone, a delivery leaves alone. -/
theorem scatter_keeps {α : Type} (v : State → α) {s : State} (hphb : s.phb = false) {segs : List Seg} (bs : List Byte)
    (hdram : ∀ g ∈ segs, g.dram = true → ∀ (t : State) (d : List Byte), d.length ≤ g.len → v (dramWriteL t g.addr d).1 = v t)
    (hshared : ∀ g ∈ segs, g.dram = false → ∀ (t : State) (d : List Byte), t.phb = false → d.length ≤ g.len →
      v (shWrite t g.addr d) = v t) :
    v (scatter s segs bs).1 = v s := by
  induction segs generalizing s bs with
  | nil => rfl
  | cons g gs ih =>
    obtain ⟨hg, hgs⟩ := List.forall_mem_cons.1 hdram
    obtain ⟨hg', hgs'⟩ := List.forall_mem_cons.1 hshared
    have hlen : (bs.take g.len).length ≤ g.len := List.length_take_le _ _
    rw [scatter_cons hphb]
    split
    · rfl
    · split
      · exact ih hphb _ hgs hgs'
      · split
        · next hd =>
          have hkept := hg hd s _ hlen
          have hmode := dramWriteL_phb s g.addr (bs.take g.len)
          rcases e : dramWriteL s g.addr (bs.take g.len) with ⟨t, ok⟩
          rw [e] at hkept hmode
          cases ok with
          | false => exact hkept
          | true => exact (ih (hmode.trans hphb) _ hgs hgs').trans hkept
        · next hd =>
          exact (ih ((shWrite_phb s _ _).trans hphb) _ hgs hgs').trans (hg' (Bool.eq_false_iff.2 hd) s _ hphb hlen)

/-- One buffer of shared memory takes all the data. -/
theorem scatter_one_buffer {s : State} (hphb : s.phb = false) (hw : s.mayWriteShared = true) {g : Seg} {bs : List Byte}
    (hdram : g.dram = false) (hdiscard : g.discard = false) (hlen : g.len = bs.length) :
    (scatter s [g] bs).2 = true ∧ memReadN (scatter s [g] bs).1.host g.addr bs.length = bs := by
  have htake : bs.take g.len = bs := by rw [hlen, List.take_length]
  rw [scatter_cons hphb, htake]
  split
  · next hempty =>
    rw [List.isEmpty_iff.1 hempty]
    exact ⟨rfl, rfl⟩
  · rw [hdiscard, hdram]
    exact ⟨rfl, memReadN_shWrite hphb hw _ rfl⟩

end Sys2Proof.Machine
end

section
/-! SUPPORT. What the Queue Engine writes of a queue: its shadow, its signal, and the records of its completions (R197, R199, R212, R247). -/

namespace Sys2Proof.Machine

/-! ### The gates of a device write, and what signals leave alone -/

theorem mayWriteShared_pcie {s : State} (hpf : s.energy.pfSeq = false) (horphan : s.pcie.orphan = false) : s.mayWriteShared = true := by
  simp [State.mayWriteShared, hpf, horphan]

theorem mayWriteShared_send (s : State) (v : Nat) : State.mayWriteShared { s with pcie := s.pcie.send v } = s.mayWriteShared := by
  rw [Pcie.send_eq]
  rfl

@[simp] theorem sendVector_mayWriteShared (s : State) (v : Nat) : (sendVector s v).mayWriteShared = s.mayWriteShared := by
  rcases sendVector_cases s v with h | h
  · rw [h]
  · rw [h, mayWriteShared_send]

@[simp] theorem sendVector_queues (s : State) (v : Nat) : (sendVector s v).queues = s.queues := by rw [sendVector_eq]

@[simp] theorem setIrq_mayWriteShared (s : State) (bits : BitVec 13) : (setIrq s bits).mayWriteShared = s.mayWriteShared := by
  unfold setIrq
  dsimp only
  split
  · exact sendVector_mayWriteShared _ _
  · rfl

/-- An error-log entry leaves the queues, the clock and the gate of device writes. -/
theorem logEvent_gates (s : State) (type : Nat) (fs : List (Nat × Nat × Nat)) :
    (logEvent s type fs).queues = s.queues ∧ (logEvent s type fs).gbl.tick = s.gbl.tick ∧
    (logEvent s type fs).mayWriteShared = s.mayWriteShared := by
  unfold logEvent
  dsimp only
  split
  · exact ⟨rfl, rfl, rfl⟩
  · split
    · exact ⟨rfl, rfl, rfl⟩
    · exact ⟨setIrq_queues _ _, by rw [setIrq_gbl], setIrq_mayWriteShared _ _⟩

theorem logCmd_gates (s : State) (j : Job) (c : Compl) (detail : Nat) :
    (logCmd s j c detail).queues = s.queues ∧ (logCmd s j c detail).gbl.tick = s.gbl.tick ∧
    (logCmd s j c detail).mayWriteShared = s.mayWriteShared := logEvent_gates s _ _

/-! ### The shadow and the signal -/

section
variable {s : State} {q : Nat} {k : Queue}

/-- The shadow's device half: HEAD, DONE, and zeros (Table 7-1). -/
theorem writeShadow_host (hphb : s.phb = false) (hw : s.mayWriteShared = true) (hk : tget s.queues.qs q = some k) :
    (writeShadow s q).host =
      memWriteL s.host (k.p.shadow + 32) (leBytes 4 k.head.toNat ++ leBytes 4 k.done.toNat ++ List.replicate 24 0) := by
  rw [writeShadow, hk]
  dsimp only
  rw [modQueue_host, shWrite_pcie hphb hw, leBytes_zero]

theorem tget_signalQueue_self (hk : tget s.queues.qs q = some k) :
    tget (signalQueue s q).queues.qs q =
      some { k with shadowDue := false, unsignalled := 0, phbSignal := (writeShadow s q).phb } := by
  have hshadow : tget (writeShadow s q).queues.qs q = some { k with shadowDue := false } := by rw [tget_writeShadow_self, hk]; rfl
  rw [signalQueue, hk]
  dsimp only
  rw [sendVector_queues, tget_modQueue_self hshadow]

end

/-! ### What the bookkeeping of a completed record reaches -/

/-- From `s` to `t`, in PCIe mode, shared memory has changed at most in the device half of the shadow at `a`, and of the queues at most
`q`; DRAM and the entries in flight are as they were. -/
structure ShadowOnly (a q : Nat) (s t : State) : Prop where
  host : ∀ x, x < a + 32 ∨ a + 64 ≤ x → memRead t.host x = memRead s.host x
  dram : t.dram = s.dram
  jobs : t.queues.jobs = s.queues.jobs
  other : ∀ m, m ≠ q → tget t.queues.qs m = tget s.queues.qs m

section
variable {a q : Nat} {s : State}

theorem ShadowOnly.trans {t u : State} (h : ShadowOnly a q s t) (h' : ShadowOnly a q t u) : ShadowOnly a q s u :=
  ⟨fun x hx => (h'.host x hx).trans (h.host x hx), h'.dram.trans h.dram, h'.jobs.trans h.jobs,
    fun m hm => (h'.other m hm).trans (h.other m hm)⟩

/-- A change that stores nothing and leaves the queues. -/
theorem ShadowOnly.of_silent {t : State} (h : Silent s t) (hq : t.queues = s.queues) : ShadowOnly a q s t :=
  ⟨fun x _ => congrArg (memRead · x) h.host, h.dram, congrArg Queues.jobs hq, fun m _ => by rw [hq]⟩

theorem modQueue_shadowOnly (f : Queue → Queue) : ShadowOnly a q s (modQueue s q f) :=
  ⟨fun _ _ => rfl, rfl, rfl, fun _ hm => tget_modQueue_ne hm f⟩

theorem sendVector_shadowOnly (v : Nat) : ShadowOnly a q s (sendVector s v) :=
  .of_silent (sendVector_silent (.refl s) v) (sendVector_queues s v)

theorem setIrq_shadowOnly (bits : BitVec 13) : ShadowOnly a q s (setIrq s bits) :=
  .of_silent (setIrq_silent (.refl s) bits) (setIrq_queues s bits)

section
variable {k : Queue} (hphb : s.phb = false) (hk : tget s.queues.qs q = some k)
include hphb hk

theorem writeShadow_shadowOnly : ShadowOnly k.p.shadow q s (writeShadow s q) := by
  rw [writeShadow, hk]
  refine .trans ⟨fun x hx => shWrite_host_outside s ?_, shWrite_dram hphb _ _, ?_, fun m _ => ?_⟩ (modQueue_shadowOnly _)
  · simpa [Nat.add_assoc] using hx
  · rw [shWrite_queues]
  · rw [shWrite_queues]

theorem signalQueue_shadowOnly : ShadowOnly k.p.shadow q s (signalQueue s q) := by
  rw [signalQueue, hk]
  exact ((writeShadow_shadowOnly hphb hk).trans (modQueue_shadowOnly _)).trans (sendVector_shadowOnly _)

/-- A record counted in DONE, and what follows from it, reaches no more than the queue and its shadow (R199, R247). -/
theorem markDone_shadowOnly (c : Word) (status : Nat) : ShadowOnly k.p.shadow q s (markDone s q c status) := by
  unfold markDone
  extract_lets s1
  have hcounted : ShadowOnly k.p.shadow q s s1 := modQueue_shadowOnly _
  obtain ⟨k1, hk1, hp⟩ : ∃ k1, tget s1.queues.qs q = some k1 ∧ k1.p = k.p := ⟨_, tget_modQueue_self hk _, rfl⟩
  have hphb1 : s1.phb = false := hphb
  clear_value s1
  rw [← hp] at hcounted ⊢
  split
  · next h =>
    subst h
    exact (hcounted.trans (writeShadow_shadowOnly hphb1 hk1)).trans (setIrq_shadowOnly _)
  · rw [hk1]
    dsimp only
    split
    · exact hcounted.trans (signalQueue_shadowOnly hphb1 hk1)
    · exact hcounted

end
end

/-! ### Records -/

@[simp] theorem length_recordBytes (j : Job) (tick : DWord) (c : Compl) (logged : Bool) : (recordBytes j tick c logged).length = 64 := by
  simp [recordBytes]

/-- Bit 9 of STATUS tells a record with LOGGED from one without (Table 7-4). -/
theorem recordBytes_logged_ne (j : Job) (tick : DWord) (c : Compl) : recordBytes j tick c true ≠ recordBytes j tick c false := by
  intro h
  have hbyte := congrArg (fun l => l[1]?.map BitVec.toNat) h
  simp [recordBytes, leBytes, b2n] at hbyte
  omega

/-- The state with an entry no longer in flight. -/
def endEntry (s : State) (j : Job) : State :=
  { s with queues := { s.queues with jobs := s.queues.jobs.filter (fun x => x.order != j.order) } }

/-- Address of the slot of an entry's record (R212). -/
def Queue.recordAddr (k : Queue) (j : Job) : Nat := k.p.base + 64 * (j.count.toNat % k.depth)

section
variable {s : State} {j : Job} {k : Queue} (hphb : s.phb = false) (hw : s.mayWriteShared = true) (horigin : j.origin = none)
  (hdet : j.detached = false) (hk : tget s.queues.qs j.q = some k)
include hphb hw horigin hdet hk

/-- The record of an entry of this device in PCIe mode: byte 63 is stored last, and then it counts as done (R212). -/
theorem postRecord_pcie (c : Compl) (logged : Bool) :
    postRecord s j c logged =
      markDone (shWrite (endEntry s j) (k.recordAddr j) (recordBytes j s.gbl.tick c logged)) j.q j.count c.status := by
  have hgate : (endEntry s j).mayWriteShared = true := hw
  have hqueue : tget (endEntry s j).queues.qs j.q = some k := hk
  have htwo := shWrite_append (s := endEntry s j) hphb hgate (k.recordAddr j) ((recordBytes j s.gbl.tick c logged).take 63)
    ((recordBytes j s.gbl.tick c logged).drop 63)
  rw [List.take_append_drop, List.length_take, length_recordBytes] at htwo
  rw [← htwo]
  unfold postRecord
  extract_lets _ s1
  have hs1 : s1 = endEntry s j := rfl
  clear_value s1
  subst hs1
  rw [horigin]
  dsimp only
  rw [hqueue]
  dsimp only
  rw [hgate, hdet]
  rfl

/-- A completion in PCIe mode: its error-log entry stores nothing; then the record is stored, its LOGGED as the log takes entries now; then
it counts as done. -/
theorem complete_pcie (c : Compl) : ∃ t, Silent s t ∧ t.queues = (endEntry s j).queues ∧ t.phb = false ∧ t.mayWriteShared = true ∧
    ShadowOnly k.p.shadow j.q (shWrite t (k.recordAddr j)
      (recordBytes j s.gbl.tick c ((scLogged c.status || c.logged) && s.logsNow))) (complete s j c) := by
  obtain ⟨s', hsilent, hqueues, htick, hphb', hw', e⟩ : ∃ s', Silent s s' ∧ s'.queues = s.queues ∧ s'.gbl.tick = s.gbl.tick ∧
      s'.phb = false ∧ s'.mayWriteShared = true ∧
      complete s j c = postRecord s' j c ((scLogged c.status || c.logged) && s.logsNow) := by
    unfold complete
    split
    · obtain ⟨hqueues, htick, hgate⟩ := logCmd_gates s j c c.cr0
      exact ⟨_, logEvent_silent (.refl s) _ _, hqueues, htick,
        (congrArg Aon.phb (logCmd_quiet (.refl s) j c c.cr0).aon).trans hphb, hgate.trans hw, rfl⟩
    · exact ⟨s, .refl s, rfl, rfl, hphb, hw, rfl⟩
  have hk' : tget s'.queues.qs j.q = some k := by rw [hqueues, hk]
  refine ⟨endEntry s' j, ⟨hsilent.host, hsilent.dram⟩, by simp only [endEntry, hqueues], hphb', hw', ?_⟩
  rw [e, postRecord_pcie hphb' hw' horigin hdet hk', htick]
  exact markDone_shadowOnly ((shWrite_phb (endEntry s' j) _ _).trans hphb') (by rw [shWrite_queues]; exact hk') _ _

/-- A completion changes the slot of its record, the device half of the queue's shadow, its own queue and the entries in flight alone. -/
theorem complete_frame (c : Compl) :
    (∀ x, x < k.recordAddr j ∨ k.recordAddr j + 64 ≤ x → x < k.p.shadow + 32 ∨ k.p.shadow + 64 ≤ x →
      memRead (complete s j c).host x = memRead s.host x) ∧
    (complete s j c).dram = s.dram ∧ (∀ x ∈ (complete s j c).queues.jobs, x.order ≠ j.order) ∧
    (∀ m, m ≠ j.q → tget (complete s j c).queues.qs m = tget s.queues.qs m) := by
  obtain ⟨t, hsilent, hqueues, hphb', -, hdone⟩ := complete_pcie hphb hw horigin hdet hk c
  refine ⟨fun x hslot hshadow => ?_, ?_, fun x hx => ?_, fun m hm => ?_⟩
  · rw [hdone.host x hshadow, shWrite_host_outside _ (by rwa [length_recordBytes]), hsilent.host]
  · rw [hdone.dram, shWrite_dram hphb', hsilent.dram]
  · rw [hdone.jobs, shWrite_queues, hqueues] at hx
    simpa using (List.mem_filter.1 hx).2
  · rw [hdone.other m hm, shWrite_queues, hqueues]
    rfl

/-- The record lies at its slot, with LOGGED 1 only where the log takes entries when it is written (R294, log 13). -/
theorem complete_record (c : Compl) (hapart : k.recordAddr j + 64 ≤ k.p.shadow + 32 ∨ k.p.shadow + 64 ≤ k.recordAddr j) :
    memReadN (complete s j c).host (k.recordAddr j) 64 =
      recordBytes j s.gbl.tick c ((scLogged c.status || c.logged) && s.logsNow) := by
  obtain ⟨t, -, -, hphb', hw', hdone⟩ := complete_pcie hphb hw horigin hdet hk c
  rw [memReadN_congr (fun x hlo hhi => hdone.host x (by omega))]
  exact memReadN_shWrite hphb' hw' _ (length_recordBytes _ _ _ _)

end

/-! ### FLUSH and FENCE in the pass of conditions (R245, Table 9-3) -/

section
variable {s : State} {j : Job} (hrun : j.phase = .running)
include hrun

theorem settleJob_flush (hop : j.op = opFlush) :
    settleJob s j = if flushDone s j then complete s j { status := scOk, onMedia := true } else s := by
  unfold settleJob
  rw [hrun, hop]
  rfl

theorem settleJob_fence (hop : j.op = opFence) :
    settleJob s j = if fenceDone s j then releaseFence (complete s j { status := scOk }) j.q else s := by
  unfold settleJob
  rw [hrun, hop]
  rfl

end

end Sys2Proof.Machine
end

section
/-! SUPPORT. The commands of the Queue Engine, case by case: QUEUE_SCAN, SCAN_RESUME, ENTRY_CRC_REREAD, WRITE_VISIBLE, SHADOW_WRITE and
COAL_TIMEOUT (R197 to R203, R211, R240, R247). -/

namespace Sys2Proof.Machine

/-! ### The next visit -/

section
variable {s : State} (b : Bus) (hup : s.gbl.up = true) (hl : s.limited = false) (hpf : s.energy.pfSeq = false)
include hup hl hpf

theorem exec_queueScan : exec (.queueScan b) s =
    .next (settle (if adminDue (absorbBus s b) then beginScan b 0 100000 (absorbBus s b) else visitIo b (absorbBus s b))) :=
  if_neg (by simp [hup, hl, hpf])

theorem exec_queueScan_admin (h : adminDue (absorbBus s b) = true) :
    exec (.queueScan b) s = .next (settle (beginScan b 0 100000 (absorbBus s b))) := by
  rw [exec_queueScan b hup hl hpf, if_pos h]

theorem exec_queueScan_io (h : adminDue (absorbBus s b) = false) :
    exec (.queueScan b) s = .next (settle (visitIo b (absorbBus s b))) := by
  rw [exec_queueScan b hup hl hpf, if_neg (Bool.eq_false_iff.1 h)]

end

/-- A scan paused at a slot goes on once no entry in flight holds that slot (R203). -/
theorem exec_scanResume {s : State} {q : Fin 4096} {k : Queue} (hk : tget s.queues.qs q.val = some k) (hpaused : k.scan = .paused)
    (hen : k.enabled = true) (hfree : slotInFlight s q.val k.depth (k.head.toNat % k.depth) = false) :
    exec (.scanResume q) s = .next (setScan s q.val .turn) := by
  change execScanResume q s = _
  simp [execScanResume, hk, hpaused, hen, hfree]

/-! ### The second read of an entry (R211) -/

/-- An entry that awaits its second read is read while its rings may be. -/
theorem crcReread_gate {s : State} {j : Job} (hphase : j.phase = .crcWait) (hdet : j.detached = false) (hpf : s.energy.pfSeq = false)
    (hrings : s.ringsOn = true) : (j.phase != .crcWait || j.detached || s.energy.pfSeq || !s.ringsOn) = false := by
  simp [hphase, hdet, hpf, hrings]

section
variable {s : State} {q : Fin 4096} {c : Word} (b : Bus) {j : Job} {k : Queue} (hj : s.job? q.val c = some j)
  (hk : tget s.queues.qs q.val = some k) (hphase : j.phase = .crcWait) (hdet : j.detached = false) (hpf : s.energy.pfSeq = false)
  (hrings : s.ringsOn = true)
include hj hk hphase hdet hpf hrings

theorem exec_entryCrcReread_failed (hread : shReadN (absorbBus s b) b (k.slotAddr (c.toNat % k.depth)) 64 = none) :
    exec (.entryCrcReread q c b) s = .next (settle (queueFault (complete (countBus (absorbBus s b)) j { status := scBusError }) q.val 1
      (k.slotAddr (c.toNat % k.depth)))) := by
  change execEntryCrcReread q c b s = _
  simp [execEntryCrcReread, hj, hk, hphase, hdet, hpf, hrings, hread]

variable {e : List Byte} (hread : shReadN (absorbBus s b) b (k.slotAddr (c.toNat % k.depth)) 64 = some e) (hown : eOwn e = 0x80)
include hread hown

theorem exec_entryCrcReread_mismatch (hcrc : eCrc e ≠ (crc16 (bytesAt e 0 60)).toNat) :
    exec (.entryCrcReread q c b) s = .next (settle (malformed (absorbBus s b) j scCrcMismatch 0)) := by
  change execEntryCrcReread q c b s = _
  simp [execEntryCrcReread, hj, hk, hphase, hdet, hpf, hrings, hread, hown, hcrc]

section
variable (hcrc : eCrc e = (crc16 (bytesAt e 0 60)).toNat)
include hcrc

/-- An entry whose second read is good, and that the judgement finds ready, waits for the room that read needs. -/
theorem exec_entryCrcReread_ready {x : Job}
    (hx : (judge b (setJob (absorbBus s b) { j with bytes := e }) { j with bytes := e }).queues.jobs.find?
      (fun x => x.order == j.order && x.phase == .ready) = some x) :
    exec (.entryCrcReread q c b) s =
      .next (settle (settleRoom (judge b (setJob (absorbBus s b) { j with bytes := e }) { j with bytes := e }) x)) := by
  change execEntryCrcReread q c b s = _
  simp only [execEntryCrcReread, hj, hk, crcReread_gate hphase hdet hpf hrings, hread, hown, hcrc, hx, Bool.false_eq_true, if_false,
    bne_self_eq_false, Bool.and_false, Bool.or_false]

/-- One that is not ready after the judgement is done with, or is a FENCE, which pauses the scan of its queue (R245). -/
theorem exec_entryCrcReread_notReady
    (hx : (judge b (setJob (absorbBus s b) { j with bytes := e }) { j with bytes := e }).queues.jobs.find?
      (fun x => x.order == j.order && x.phase == .ready) = none) :
    let s1 := judge b (setJob (absorbBus s b) { j with bytes := e }) { j with bytes := e }
    exec (.entryCrcReread q c b) s =
      .next (settle (if fenceHolds s1 q.val && k.scan != .ended then setScan s1 q.val (.fenced c) else s1)) := by
  change execEntryCrcReread q c b s = _
  simp only [execEntryCrcReread, hj, hk, crcReread_gate hphase hdet hpf hrings, hread, hown, hcrc, hx, Bool.false_eq_true, if_false,
    bne_self_eq_false, Bool.and_false, Bool.or_false]

end
end

/-! ### Visibility, shadow, coalescing -/

theorem exec_writeVisible {s : State} {q : Fin 4097} {c : Word} {j : Job} (hj : s.job? q.val c = some j) (hphase : j.phase = .fetched)
    (hfirst : waits s j = false) (hpf : s.energy.pfSeq = false) : exec (.writeVisible q c) s = .next (settle (placeFetched s j)) := by
  change execWriteVisible q c s = _
  simp [execWriteVisible, hj, hphase, hfirst, hpf]

theorem exec_shadowWrite {s : State} {q : Fin 4096} {k : Queue} (hk : tget s.queues.qs q.val = some k) (hdue : k.shadowDue = true)
    (hw : s.mayWriteShared = true) : exec (.shadowWrite q) s = .next (writeShadow s q.val) := by
  change execShadowWrite q s = _
  simp [execShadowWrite, hk, hdue, hw]

theorem exec_coalTimeout {s : State} {q : Fin 4096} {k : Queue} (hk : tget s.queues.qs q.val = some k) (hen : k.p.irqEn = true)
    (hdue : 0 < k.unsignalled) (hw : s.mayWriteShared = true) : exec (.coalTimeout q) s = .next (signalQueue s q.val) := by
  change execCoalTimeout q s = _
  simp [execCoalTimeout, hk, hen, hdue, hw]

end Sys2Proof.Machine
end

section
/-! PROOFS. The obligations about the queue structures: delivery (R216, R749), scans and second reads (R202, R203, R211), visibility, the
shadow and coalescing (R197, R199, R247), and the completion record (R212, Table 7-4). -/

namespace Sys2Proof.Machine

/-- Settles O48: each buffer takes its own part of the data, in its own memory. -/
theorem deliveryStoresOnlyBuffers : Obligations.DeliveryStoresOnlyBuffers := by
  intro s segs bs hphb
  refine ⟨fun x h => ?_, fun x h => ?_, ?_⟩
  · exact scatter_keeps (fun t => memRead t.host x) hphb bs (fun g _ _ t d _ => congrArg (memRead · x) (dramWriteL_host t g.addr d))
      (fun g hg hd t d _ hlen => shWrite_host_outside t (by have := h g hg hd; omega))
  · exact scatter_keeps (fun t => memRead t.dram x) hphb bs
      (fun g hg hd t d hlen => dramWriteL_dram_outside t (by have := h g hg hd; omega))
      (fun g _ _ t d ht _ => congrArg (memRead · x) (shWrite_dram ht g.addr d))
  · rintro g rfl hdram hdiscard hlen hw
    exact scatter_one_buffer hphb hw hdram hdiscard hlen

/-- Settles O44: each command of the scan by its cases. -/
theorem queueScanResult : Obligations.QueueScanResult := by
  refine ⟨fun s b hup hl hpf => ⟨exec_queueScan_admin b hup hl hpf, exec_queueScan_io b hup hl hpf⟩,
    fun s q k hk hpaused hen hfree => ⟨_, exec_scanResume hk hpaused hen hfree, tget_modQueue_self hk _, fun m hm => tget_modQueue_ne hm _⟩,
    fun s q c b j k hj hk hphase hdet hpf hrings => ⟨exec_entryCrcReread_failed b hj hk hphase hdet hpf hrings, fun e hread =>
      ⟨fun hown hcrc => ?_, exec_entryCrcReread_mismatch b hj hk hphase hdet hpf hrings hread⟩⟩⟩
  intro s1
  cases hx : s1.queues.jobs.find? (fun x => x.order == j.order && x.phase == .ready) with
  | some x => exact exec_entryCrcReread_ready b hj hk hphase hdet hpf hrings hread hown hcrc hx
  | none => exact exec_entryCrcReread_notReady b hj hk hphase hdet hpf hrings hread hown hcrc hx

/-- Settles O45: WRITE_VISIBLE by its gate, then the shadow's 32 bytes as one store, then the count that a signal clears. -/
theorem visibilityAndShadowResult : Obligations.VisibilityAndShadowResult := by
  refine ⟨fun s q c j => exec_writeVisible, fun s q k hk hdue hphb horphan hpf => ?_, fun s q k hk hen hdue hw =>
    ⟨_, exec_coalTimeout hk hen hdue hw, rfl, fun k' hk' => ?_⟩⟩
  · have hw := mayWriteShared_pcie hpf horphan
    have hhost := writeShadow_host hphb hw hk
    refine ⟨_, exec_shadowWrite hk hdue hw, ?_, fun i hi => ?_, (writeShadow_shadowOnly hphb hk).host, ?_⟩
    · rw [hhost]
      exact memReadN_memWriteL_append _ _ (leBytes 4 k.head.toNat ++ leBytes 4 k.done.toNat) _
    · rw [hhost, memWriteL_append]
      exact memRead_memWriteL_zeros _ (k.p.shadow + 40) 24 hi
    · rw [tget_writeShadow_self, hk]
      rfl
  · rw [tget_signalQueue_self hk] at hk'
    rw [← Option.some.inj hk']

/-- What holds of O47: its statement, but with LOGGED 1 only where the log takes entries when the record is written (log 13). -/
theorem completionRecordWritten_logsNow :
    (∀ (s : State) (j : Job) (c : Compl) (k : Queue), s.phb = false → s.mayWriteShared = true → j.origin = none → j.detached = false →
      tget s.queues.qs j.q = some k →
      (k.recordAddr j + 64 ≤ k.p.shadow + 32 ∨ k.p.shadow + 64 ≤ k.recordAddr j →
        memReadN (complete s j c).host (k.recordAddr j) 64 =
          recordBytes j s.gbl.tick c ((scLogged c.status || c.logged) && s.logsNow)) ∧
      (∀ x, x < k.recordAddr j ∨ k.recordAddr j + 64 ≤ x → x < k.p.shadow + 32 ∨ k.p.shadow + 64 ≤ x →
        memRead (complete s j c).host x = memRead s.host x) ∧
      (complete s j c).dram = s.dram ∧ (∀ x ∈ (complete s j c).queues.jobs, x.order ≠ j.order) ∧
      (∀ m, m ≠ j.q → tget (complete s j c).queues.qs m = tget s.queues.qs m)) ∧
    (∀ (s : State) (j : Job), j.phase = .running →
      (j.op = opFlush → settleJob s j = if flushDone s j then complete s j { status := scOk, onMedia := true } else s) ∧
      (j.op = opFence → settleJob s j = if fenceDone s j then releaseFence (complete s j { status := scOk }) j.q else s)) :=
  ⟨fun _ _ c _ hphb hw horigin hdet hk =>
    ⟨complete_record hphb hw horigin hdet hk c, complete_frame hphb hw horigin hdet hk c⟩,
    fun _ _ hrun => ⟨settleJob_flush hrun, settleJob_fence hrun⟩⟩

/-- The admin queue, enabled, with its shadow behind the 16 slots of its ring. -/
def shadowedAdmq : Queue := { resetAdmq with p := { resetAdmq.p with shadow := 0x1000 }, enabled := true }

/-- The boot window before t6: the core is on, and the log still only holds its entries (R686). -/
def beforeT6 : State :=
  { State.reset with gbl := { resetGbl with coreOn := true, up := true }, queues := { resetQueues with qs := [(0, shadowedAdmq)] } }

/-- The first entry of the admin queue, malformed by its byte 63 (Table 8-3). -/
def malformedJob : Job := newJob beforeT6 0 0 (List.replicate 63 0 ++ [0x81])

/-- Refutes O47: before t6 of Table 13-3 the error-log entry of a malformed command is only held, so its record carries LOGGED 0 (log 13),
where the statement asks for 1. -/
theorem not_completionRecordWritten : ¬ Obligations.CompletionRecordWritten := by
  rintro ⟨hclaim, -⟩
  have hapart : shadowedAdmq.recordAddr malformedJob + 64 ≤ shadowedAdmq.p.shadow + 32 ∨
      shadowedAdmq.p.shadow + 64 ≤ shadowedAdmq.recordAddr malformedJob := .inl (by decide)
  have hclaimed := (hclaim beforeT6 malformedJob { status := scMalformed } shadowedAdmq rfl rfl rfl rfl rfl).1 hapart
  have hstored := (completionRecordWritten_logsNow.1 beforeT6 malformedJob { status := scMalformed } shadowedAdmq rfl rfl rfl rfl
    rfl).1 hapart
  exact recordBytes_logged_ne malformedJob beforeT6.gbl.tick { status := scMalformed } (hclaimed.symm.trans hstored)

end Sys2Proof.Machine
end

section
/-! SUPPORT. The PCIe function: messages leave its set-up alone, and each command that sets it up past the gate that ignores it (R115,
R166, R248, R249). -/

namespace Sys2Proof.Machine

/-! ### Messages leave the set-up of the function alone -/

/-- From `p` to `q` messages were sent or held back: nothing but the pending bits and the messages sent may differ. -/
def Pcie.MessagesOnly (p q : Pcie) : Prop := q = { p with pba := q.pba, msiPending := q.msiPending, sent := q.sent }

theorem Pcie.MessagesOnly.trans {p q r : Pcie} (h : p.MessagesOnly q) (k : q.MessagesOnly r) : p.MessagesOnly r :=
  Eq.trans k (congrArg (fun x : Pcie => { x with pba := r.pba, msiPending := r.msiPending, sent := r.sent }) h)

theorem Pcie.MessagesOnly.eq {p q : Pcie} (h : p.MessagesOnly q) :
    q = { p with pba := q.pba, msiPending := q.msiPending, sent := q.sent } := h

theorem Pcie.messagesOnly_send (p : Pcie) (v : Nat) : p.MessagesOnly (p.send v) := p.send_eq v

theorem Pcie.messagesOnly_sends (p : Pcie) (vs : List Nat) : p.MessagesOnly (vs.foldl (fun p v => p.send v) p) := by
  induction vs generalizing p with
  | nil => rfl
  | cons v vs ih => exact .trans (p.messagesOnly_send v) (ih _)

theorem Pcie.messagesOnly_flush (p : Pcie) : p.MessagesOnly p.flush := by
  unfold Pcie.flush
  split
  · rfl
  · have hpba : p.MessagesOnly { p with pba := p.pba.filter (fun v => (msixEntry p v).masked) } := rfl
    exact hpba.trans (messagesOnly_sends _ _)

theorem Pcie.messagesOnly_flushMsi (p : Pcie) : p.MessagesOnly p.flushMsi := by
  unfold Pcie.flushMsi
  split
  · rfl
  · have hpending : p.MessagesOnly { p with msiPending := p.msiPending &&& p.msiMask } := rfl
    exact hpending.trans (messagesOnly_sends _ _)

theorem sendVector_messagesOnly (s : State) (v : Nat) : s.pcie.MessagesOnly (sendVector s v).pcie := by
  rcases sendVector_cases s v with h | h
  · rw [h]
    rfl
  · rw [h]
    exact Pcie.messagesOnly_send _ _

/-- An access to a domain changes the domains alone. -/
theorem wakeDomain_eq (s : State) (d : Nat) : wakeDomain s d = { s with doms := (wakeDomain s d).doms } := by
  unfold wakeDomain
  split
  · rfl
  · split <;> rfl

/-! ### Configuration writes -/

section
variable {s : State} (hphb : s.phb = false)
include hphb

/-- Past its gate a configuration write leaves the function configured, but for the messages it sets free (R166, R249). -/
theorem exec_configWrite (hcore : s.gbl.coreOn = true) (hlink : s.linkUp = true) (hcrs : s.pcie.crs = false) (c : ConfigChange) :
    ∃ t, exec (.configWrite c) s = .next t ∧ t.gbl = s.gbl ∧ (s.pcie.configure c).MessagesOnly t.pcie := by
  have hflush := (s.pcie.configure c).messagesOnly_flush.trans (Pcie.messagesOnly_flushMsi _)
  change ∃ t, execConfigWrite c s = .next t ∧ _
  rw [execConfigWrite, if_neg (by simp [hphb, hcore, hlink, hcrs])]
  lift_lets
  extract_lets s1 s2
  refine ⟨_, rfl, ?_⟩
  have hs2 : s2.gbl = s.gbl ∧ (s.pcie.configure c).MessagesOnly s2.pcie := by
    unfold s2
    split
    · exact ⟨sendVector_gbl s1 0, hflush.trans (sendVector_messagesOnly s1 0)⟩
    · exact ⟨rfl, hflush⟩
  split
  · rw [wakeDomain_eq]
    exact hs2
  · exact hs2

/-! ### The MSI-X table -/

section
variable {off : BitVec 15} (v : DWord) (haccess : s.hostAccess = true)
include haccess

theorem exec_msixTableWrite_narrow (hrange : off.toNat < 0x4000) (halign : off.toNat % 4 = 0) : exec (.msixTableWrite off v false) s =
    .next { s with pcie := (msixPut s.pcie off.toNat (v.toNat % 2 ^ 32)).flush } :=
  if_neg (by simp [hphb, haccess, hrange, halign])

theorem exec_msixTableWrite_wide (hrange : off.toNat < 0x4000) (halign : off.toNat % 8 = 0) : exec (.msixTableWrite off v true) s =
    .next { s with pcie := (msixPut (msixPut s.pcie off.toNat (v.toNat % 2 ^ 32)) (off.toNat + 4) (v.toNat / 2 ^ 32)).flush } :=
  if_neg (by simp [hphb, haccess, hrange, halign])

end

/-! ### Link power states -/

/-- In PCIe mode PE_WAKE_N asserts unless RESET_N holds the ball (R73, R115). -/
theorem assertWake_pcie : assertWake s = { s with pins := { s.pins with wake := s.pins.resetN || s.pins.wake } } := by
  unfold assertWake
  split
  · next h =>
    have hreset : s.pins.resetN = false := by simpa [hphb] using h
    rw [show (s.pins.resetN || s.pins.wake) = s.pins.wake by simp [hreset]]
  · next h =>
    have hreset : s.pins.resetN = true := by simpa [hphb] using h
    rw [show (s.pins.resetN || s.pins.wake) = true by simp [hreset]]

/-- With a link there is, L0 is an access to the HOST domain; the other states gate it, PE_CLKREQ_N released in the L1
substates (R115, log 17). -/
theorem exec_linkPowerState (hcore : s.gbl.coreOn = true) (horphan : s.pcie.orphan = false) (hlink : s.pcie.link ≠ .down) :
    let held := { s with pins := { s.pins with clkreq := true } }
    let released := { s with pins := { s.pins with clkreq := false } }
    exec (.linkPowerState .l0) s = .next (wakeDomain { held with pcie := { s.pcie with link := .l0 } } 2) ∧
    exec (.linkPowerState .l1) s = .next (gateHost held .l1 .clockGated) ∧
    exec (.linkPowerState .l11) s = .next (gateHost released .l11 .clockGated) ∧
    exec (.linkPowerState .l12) s = .next (gateHost released .l12 .powerGated) ∧
    exec (.linkPowerState .l2) s = .next (assertWake (gateHost held .l2 .powerGated)) := by
  have hopen : ¬ (s.phb || !s.gbl.coreOn || s.pcie.orphan || s.pcie.link == .down) = true := by simp [hphb, hcore, horphan, hlink]
  exact ⟨if_neg hopen, if_neg hopen, if_neg hopen, if_neg hopen, if_neg hopen⟩

end

/-- A write to the MSI-X table that is not aligned is ignored (R166). -/
theorem exec_msixTableWrite_unaligned {off : BitVec 15} (h : off.toNat % 4 ≠ 0) (s : State) (v : DWord) :
    exec (.msixTableWrite off v false) s = .next s := if_pos (by simp [h])

end Sys2Proof.Machine
end

section
/-! PROOFS. The obligations about the stops that only a reset ends and about the PCIe function (R18, R115, R166, R248,
R249, R257, R396). -/

namespace Sys2Proof.Machine

/-- Settles O8: every command outside the resets keeps what `Stays` says of the stops (R18, R257, R396). -/
theorem stopsLastUntilReset : Obligations.StopsLastUntilReset := by
  intro c s t hc hexec
  obtain ⟨hfailed, hhalted, hpfSeq⟩ := (exec_stays hc s t hexec).stop
  exact ⟨hhalted, hfailed, hpfSeq⟩

/-- Settles O28: past its gate a configuration write leaves the function configured but for messages; the table takes the aligned writes;
and each power state of the link gates or wakes HOST. -/
theorem pcieFunctionResult : Obligations.PcieFunctionResult := by
  intro s hphb
  refine ⟨fun c hcore hlink hcrs => ?_, fun off v haccess hrange => ?_, fun hcore horphan hlink => ?_⟩
  · obtain ⟨t, hexec, hgbl, hset⟩ := exec_configWrite hphb hcore hlink hcrs c
    refine ⟨t, hexec, hgbl, ?_⟩
    cases c with
    | msix => exact ⟨congrArg Pcie.msixEn hset.eq, congrArg Pcie.msixFuncMask hset.eq⟩
    | msi => exact ⟨congrArg Pcie.msiEn hset.eq, congrArg Pcie.msiCount hset.eq, congrArg Pcie.msiAddr hset.eq,
        congrArg Pcie.msiData hset.eq⟩
    | msiMask => exact congrArg Pcie.msiMask hset.eq
    | dstate => exact congrArg Pcie.d3hot hset.eq
    | memSpace => exact congrArg Pcie.mse hset.eq
    | dword => exact (congrArg Pcie.config hset.eq).trans rfl
  · exact ⟨exec_msixTableWrite_narrow hphb v haccess hrange, exec_msixTableWrite_wide hphb v haccess hrange,
      fun h => exec_msixTableWrite_unaligned h s v⟩
  · obtain ⟨hl0, hl1, hl11, hl12, hl2⟩ := exec_linkPowerState hphb hcore horphan hlink
    exact ⟨hl0, hl1, hl11, hl12, hl2.trans (congrArg Host.Outcome.next (assertWake_pcie hphb))⟩

end Sys2Proof.Machine
end

section
/-! SUPPORT. Every command answers a next state (R180, R294): each definition is a tree of gates, and each of its ways ends in `.next`. -/

namespace Sys2Proof.Machine

/-! ### Gates: an outcome is safe where each way through the gate is -/

section
variable {α β ε : Type} {c : Prop} [Decidable c] {s t : State} {x : Option α} {y : Option β} {xs : List α} {r : Except ε α}
  {o p : Host.Outcome State Fault Refusal} {f : α → Host.Outcome State Fault Refusal}

theorem safe_next (t : State) : Safe (.next t) := ⟨t, rfl⟩

theorem safe_ite (ho : Safe o) (hp : Safe p) : Safe (if c then o else p) := by
  split
  · exact ho
  · exact hp

theorem safe_ite_next : Safe (if c then .next s else .next t) := safe_ite (safe_next s) (safe_next t)

/-- The usual gate: a command that does not apply, or is turned away, has its state; the rest decides. -/
theorem safe_gate (ho : Safe o) : Safe (if c then .next t else o) := safe_ite (safe_next t) ho

theorem safe_opt (ho : Safe o) (hf : ∀ a, Safe (f a)) : Safe (match x with | none => o | some a => f a) := by
  cases x with
  | none => exact ho
  | some a => exact hf a

/-- The gate of what a command looks up: its entry, a queue, a partition, a stream. -/
theorem safe_some (hf : ∀ a, Safe (f a)) : Safe (match x with | none => .next t | some a => f a) := safe_opt (safe_next t) hf

theorem safe_both {f : α → β → Host.Outcome State Fault Refusal} (ho : Safe o) (hf : ∀ a b, Safe (f a b)) :
    Safe (match x, y with | some a, some b => f a b | _, _ => o) := by
  split
  · exact hf _ _
  · exact ho

theorem safe_list {f : α → List α → Host.Outcome State Fault Refusal} (ho : Safe o) (hf : ∀ a as, Safe (f a as)) :
    Safe (match xs with | [] => o | a :: as => f a as) := by
  cases xs with
  | nil => exact ho
  | cons a as => exact hf a as

theorem safe_except {f : ε → State} {g : α → State} : Safe (match r with | .error e => .next (f e) | .ok a => .next (g a)) := by
  cases r with
  | error e => exact safe_next _
  | ok a => exact safe_next _

end

/-! ### The commands, by the gates of their definitions -/

set_option smartUnfolding false in -- so that a lemma about a `match` applies to the `match` inside a command's definition
/-- Every command answers a next state in every state: commands with the same gates in the same order share one line. -/
theorem exec_safe (c : Instr) (s : State) : Safe (exec c s) := by
  cases c with
  | linkDown | tickCapture | roReq | haltReq | softReset | irqEnableWrite | irqMaskWrite | bootLockSet | admqEnable | admqDisable
  | qinvSlot | qinvAll | calReqTrim | calReqTrack | calReqHoldup | portTrain | trainRetry | pull | pulldata | rdata | compl | enum
  | enumAck | attestReq | attestRsp | join | leave | keyq | keyrsp | pfailDeassert | perstRelease =>
    exact safe_next _
  | powerOn | vaonLoss | resetAssert | coreRelease | pllLockTimeout | bootWindowEntry | recovered | fullService | footingRebuild
  | autoLock | perstAssert | linkUp | flr | pfailAssert | vddCoreLow | sysclkLoss | thermalCritical | pfSafe | railLoss | adcSample
  | ackRelease | thermalSample | domainGate | registerWrite | doorbell | queueScan | retentionCheck | flashStatusPoll | blockErase
  | plinthWrite | overdrivePeriod | healthCommit | calTrimRun | calTrackRun | mcSwitch | mcForce | switchTaken | mcSwitchTimeout
  | mcScrub | masonEvent | movStart | movAbort | evtInEdge | evtOutEnd | ack | nak | credit | replayTimeout | creditTimer | leaveDetect
  | orderSet | orderClear | orderApply | disagreeTimeout | thermometerBurn | presenceChange | blockLockAcquired | blockLockLost
  | configWrite | msixTableWrite | boundaryScanInstruction =>
    exact safe_ite_next
  | resetRelease | strapCompare | footingCheck | domainWake | mspBadOp => exact safe_gate safe_ite_next
  | probe | recoveryStart | machineCheck | mspReadStatus | mspReadId | readOtp => exact safe_gate (safe_gate safe_ite_next)
  | calRepeat | train | entry => exact safe_gate (safe_gate (safe_gate safe_ite_next))
  | readSnapshot | burn => exact safe_gate (safe_gate (safe_gate (safe_gate safe_ite_next)))
  | writeZeroes | trim | streamMark | setTime | startCalibration => exact safe_some fun _ => safe_next _
  | scanResume | writeVisible | shadowWrite | coalTimeout | fence | createQueue | getLog | detachMapStore | flashResume
  | moverBurstStart =>
    exact safe_some fun _ => safe_ite_next
  | flush | streamTransfer | destroyQueue | selfTest => exact safe_some fun _ => safe_gate safe_ite_next
  | wearLevel | refresh | footingFold | masonRoutinePost => exact safe_gate (safe_some fun _ => safe_next _)
  | moverDescFetch => exact safe_gate (safe_some fun _ => safe_ite_next)
  | attestTimeout => exact safe_list (safe_next _) fun _ _ => safe_next _
  | hmapScrub => exact safe_list (safe_next _) fun _ _ => safe_ite_next
  | queryQueue | getFeature => exact safe_some fun _ => safe_some fun _ => safe_next _
  | identify | ashlarTimeout => exact safe_some fun _ => safe_some fun _ => safe_ite_next
  | read | write => exact safe_some fun _ => safe_gate (safe_gate safe_ite_next)
  | attest => exact safe_some fun _ => safe_gate (safe_some fun _ => safe_next _)
  | gcReclaim => exact safe_gate (safe_some fun _ => safe_some fun _ => safe_next _)
  | streamClose | disableQueue => exact safe_some fun _ => safe_gate (safe_some fun _ => safe_gate safe_ite_next)
  | streamRead => exact safe_some fun _ => safe_gate (safe_gate (safe_some fun _ => safe_ite_next))
  | dieRelocate => exact safe_list (safe_next _) fun _ _ => safe_gate (safe_some fun _ => safe_next _)
  | setFeature => exact safe_some fun _ => safe_gate (safe_gate (safe_some fun _ => safe_gate safe_ite_next))
  | rawRead => exact safe_some fun _ => safe_gate (safe_gate (safe_gate (safe_gate (safe_gate safe_ite_next))))
  | loadProfile => exact safe_some fun _ => safe_gate (safe_some fun _ => safe_opt safe_ite_next fun _ => safe_next _)
  | streamAppend => exact safe_some fun _ => safe_gate (safe_gate (safe_gate (safe_some fun _ => safe_gate safe_ite_next)))
  | attachMapStore => exact safe_some fun _ => safe_gate (safe_gate (safe_some fun _ => safe_gate (safe_gate safe_ite_next)))
  | loadMicrocode => exact safe_some fun _ => safe_gate (safe_gate (safe_gate (safe_some fun _ => safe_some fun _ => safe_next _)))
  | commitFirmware => exact safe_some fun _ => safe_gate (safe_gate (safe_gate (safe_some fun _ => safe_gate (safe_gate safe_ite_next))))
  | sanitize => exact safe_some fun _ => safe_gate (safe_gate (safe_gate (safe_gate (safe_gate (safe_some fun _ => safe_next _)))))
  | deletePartition => exact safe_some fun _ => safe_gate (safe_gate (safe_opt (safe_gate safe_ite_next) fun _ => safe_gate safe_ite_next))
  | createPartition =>
    exact safe_some fun _ => safe_gate (safe_gate (safe_gate (safe_gate (safe_gate (safe_gate (safe_some fun _ => safe_next _))))))
  | cascadeRoster =>
    exact safe_some fun _ => safe_gate (safe_gate (safe_ite safe_ite_next (safe_some fun _ => safe_ite safe_ite_next safe_ite_next)))
  | entryCrcReread =>
    exact safe_both (safe_next _) fun _ _ => safe_gate (safe_some fun _ => safe_gate (safe_gate (safe_some fun _ => safe_next _)))
  | cascadeEnumerate =>
    exact safe_both (safe_some fun _ => safe_gate (safe_gate (safe_gate (safe_some fun _ => safe_next _)))) fun _ _ => safe_ite_next
  | setHold =>
    exact safe_some fun _ => safe_gate (safe_gate (safe_some fun _ => safe_ite safe_except (safe_some fun _ => safe_except)))
  | adoptMedia => exact safe_some fun _ => safe_gate (safe_gate (safe_gate (safe_gate (safe_some fun _ => safe_except))))
  | streamOpen =>
    refine safe_some fun _ => safe_gate (safe_some fun _ => safe_gate (safe_ite (safe_gate ?_) (safe_some fun _ => safe_gate ?_)))
    · split
      · exact safe_next _
      · exact safe_next _
    · split
      · exact safe_next _
      · exact safe_next _
  | capstoneSigned =>
    refine safe_list (safe_next _) fun _ _ => safe_gate (safe_some fun _ => ?_)
    split
    · exact safe_next _
    · exact safe_next _
  | mspCsRise =>
    refine safe_gate ?_
    split
    · exact safe_next _
    · exact safe_next _
  | firmwareStart =>
    refine safe_gate ?_
    dsimp only
    split
    · exact safe_next _
    · exact safe_ite_next
  | linkPowerState pm =>
    refine safe_gate ?_
    cases pm with
    | l0 | l1 | l11 | l12 | l2 => exact safe_next _
  | calHoldupRun =>
    simp only [exec, execCalHoldupRun]
    split
    · exact safe_ite_next
    · exact safe_next _
  | holdupDischargeTimeout | holdupRechargeTimeout | holdupConditionTimeout =>
    simp only [exec, execHoldupDischargeTimeout, execHoldupRechargeTimeout, execHoldupConditionTimeout]
    split
    · exact safe_next _
    · exact safe_next _
  | moverBurstDone =>
    simp only [exec, execMoverBurstDone]
    split
    · exact safe_some fun _ => safe_gate (safe_gate safe_ite_next)
    · exact safe_next _

/-! ### Steps -/

theorem step_safe (s : State) : Safe (step s) := by
  cases h : s.pending with
  | nil => exact ⟨_, step_idle h⟩
  | cons c cs =>
    rw [step_of_pending h]
    exact exec_safe c _

theorem safeRun (n : Nat) : ∀ s : State, SafeRun n s := by
  induction n with
  | zero => exact fun _ => trivial
  | succ n ih =>
    intro s
    obtain ⟨t, ht⟩ := step_safe s
    exact ⟨t, ht, ih t⟩

end Sys2Proof.Machine
end

section
/-! SUPPORT. The stream commands, RAW_READ and STREAM_TRANSFER past their gates, case by case (R279 to R284, R302, R309, R750). -/

namespace Sys2Proof.Machine

/-- What an entry that is ready has passed (R243, R392). -/
theorem readyJob_some {s : State} {q : Nat} {c : Word} {op : Nat} {j : Job} (h : readyJob s q c op = some j) :
    s.job? q c = some j ∧ j.phase = .ready ∧ j.op = op ∧ s.energy.pfSeq = false ∧ waits s j = false := by
  unfold readyJob at h
  cases hj : s.job? q c with
  | none => simp [hj] at h
  | some k =>
    simp only [hj, Option.ite_none_left_eq_some, Option.some.injEq] at h
    obtain ⟨hgate, rfl⟩ := h
    simpa [and_assoc] using hgate

/-! ### STREAM_OPEN (R280, R351, R750) -/

section
variable {s : State} {q : Fin 4097} {c : Word} {j : Job} (hj : readyJob s q.val c opStreamOpen = some j)
include hj

theorem exec_streamOpen_span (hspan : isSpanJob s j = true) : exec (.streamOpen q c) s = .next (spanStart s noBus j) := by
  change execStreamOpen q c s = _
  simp only [execStreamOpen, hj, hspan, if_true]

variable (hspan : isSpanJob s j = false) {part : Part} (hpart : tget s.parts (ePart j.bytes) = some part) (hstream : part.isStream = true)
  (hlen : eLen j.bytes ≤ 65535) (hlost : part.lostNums.contains (eStream j.bytes) = false)
  (hassigned : unassigned s (ePart j.bytes) (eStream j.bytes) = false)
include hspan hpart hstream hlen hlost hassigned

theorem exec_streamOpen_new {h : Nat} (hn : eStream j.bytes = 0) (hnext : part.nextStream ≠ 65536) (hopen : s.openStreams < 1024)
    (hroom : s.usedUnits (ePart j.bytes) + s.openIn (ePart j.bytes) + 2 ≤ part.capUnits) (hfree : freeHandle s = some h) :
    exec (.streamOpen q c) s = .next (createStream s j (ePart j.bytes) h) := by
  change execStreamOpen q c s = _
  rw [hn] at hassigned
  have hmem : 0 ∉ part.lostNums := by simpa [hn] using hlost
  simp [execStreamOpen, hj, hspan, hpart, hstream, hlen.not_gt, hmem, hassigned, hn, hnext, hopen.not_ge, hroom.not_gt, hfree]

variable (hmax : eStream j.bytes ≤ part.maxStream) (hn : eStream j.bytes ≠ 0) {t : Strm}
  (ht : s.strm? (sKey (ePart j.bytes) (eStream j.bytes)) = some t)
include hmax hn ht

theorem exec_streamOpen_opened {h : Nat} (hcond : t.cond = .opened) (hh : t.handle = some h) : exec (.streamOpen q c) s =
    .next (finish (setStream s (sKey (ePart j.bytes) (eStream j.bytes)) { t with handle := some h }) j
      { status := 0x00, onMedia := true, result := openResult (eStream j.bytes) h, cr0 := t.endOff, cr1 := t.newestAshlar }) := by
  change execStreamOpen q c s = _
  have hmem : eStream j.bytes ∉ part.lostNums := by simpa using hlost
  simp [execStreamOpen, hj, hspan, hpart, hstream, hlen.not_gt, hmax.not_gt, hmem, hassigned, hn, ht, hcond, hh, scOk]

theorem exec_streamOpen_closed (hcond : t.cond ≠ .opened) : exec (.streamOpen q c) s = .next (finishWith s j scStreamClosed) := by
  change execStreamOpen q c s = _
  have hmem : eStream j.bytes ∉ part.lostNums := by simpa using hlost
  simp [execStreamOpen, hj, hspan, hpart, hstream, hlen.not_gt, hmax.not_gt, hmem, hassigned, hn, ht, hcond]

end

/-! ### STREAM_APPEND (R33, R279, R750) -/

theorem fetchData_pulled {j : Job} (h : j.origin.isSome = true) (s : State) (b : Bus) (n : Nat) :
    fetchData s b j n = sendPulls (setJob s { j with phase := .running, data := [] }) j n := if_pos h

theorem fetchData_gathered {s : State} {b : Bus} {j : Job} {d : List Byte} (horigin : j.origin = none) (hsgl : j.sglErr = false)
    (hd : gather s b j.segs = some d) (n : Nat) :
    fetchData s b j n = settle (setJob s { j with phase := .fetched, data := d }) := by
  simp [fetchData, horigin, hsgl, hd]

/-- Units that the partition of an append's stream takes with it, with the appends admitted before it, and with its reserve (R750). -/
def unitsWithAppend (s : State) (j : Job) (t : Strm) : Nat :=
  appendGrowth { t with endOff := pendingEnd s j.mark t } (eLen j.bytes) + pendingUnits s (sPart j.mark) + s.usedUnits (sPart j.mark) +
    s.openIn (sPart j.mark)

section
variable {s : State} {q : Fin 4097} {c : Word} (b : Bus) {j : Job} (hj : readyJob s q.val c opStreamAppend = some j)
include hj

theorem exec_streamAppend_span (hspan : isSpanJob s j = true) : exec (.streamAppend q c b) s = .next (spanStart s b j) := by
  obtain ⟨hjob, hphase, hop, hpf, hwaits⟩ := readyJob_some hj
  change execStreamAppend q c b s = _
  simp [execStreamAppend, hjob, hphase, hop, hpf, hwaits, hspan]

variable (hspan : isSpanJob s j = false) (hlen0 : eLen j.bytes ≠ 0) (hlen : eLen j.bytes ≤ maxXfer) (hmark : j.mark ≠ 0) {t : Strm}
  (ht : s.strm? j.mark = some t) (hcond : t.cond = .opened)
include hspan hlen0 hlen hmark ht hcond

theorem exec_streamAppend : exec (.streamAppend q c b) s = if s.capOf (sPart j.mark) < unitsWithAppend s j t
    then .next (finishWith s j scNoSpace) else .next (fetchData (absorbBus s b) b j (eLen j.bytes)) := by
  obtain ⟨hjob, hphase, hop, hpf, -⟩ := readyJob_some hj
  change execStreamAppend q c b s = _
  simp [execStreamAppend, unitsWithAppend, hjob, hphase, hop, hpf, hspan, hlen0, hlen, hmark, ht, hcond]

theorem exec_streamAppend_full (hfull : s.capOf (sPart j.mark) < unitsWithAppend s j t) :
    exec (.streamAppend q c b) s = .next (finishWith s j scNoSpace) := by
  rw [exec_streamAppend b hj hspan hlen0 hlen hmark ht hcond, if_pos hfull]

variable (hroom : unitsWithAppend s j t ≤ s.capOf (sPart j.mark))
include hroom

theorem exec_streamAppend_pulled (horigin : j.origin.isSome = true) : exec (.streamAppend q c b) s =
    .next (sendPulls (setJob (absorbBus s b) { j with phase := .running, data := [] }) j (eLen j.bytes)) := by
  rw [exec_streamAppend b hj hspan hlen0 hlen hmark ht hcond, if_neg hroom.not_gt, fetchData_pulled horigin]

theorem exec_streamAppend_gathered {d : List Byte} (horigin : j.origin = none) (hsgl : j.sglErr = false)
    (hd : gather (absorbBus s b) b j.segs = some d) :
    exec (.streamAppend q c b) s = .next (settle (setJob (absorbBus s b) { j with phase := .fetched, data := d })) := by
  rw [exec_streamAppend b hj hspan hlen0 hlen hmark ht hcond, if_neg hroom.not_gt, fetchData_gathered horigin hsgl hd]

end

/-! ### STREAM_MARK and STREAM_CLOSE (R281, R302, R353) -/

section
variable {s : State} {q : Fin 4097} {c : Word} {j : Job} (hj : readyJob s q.val c opStreamMark = some j)
include hj

theorem exec_streamMark_span (hspan : isSpanJob s j = true) : exec (.streamMark q c) s = .next (spanStart s noBus j) := by
  change execStreamMark q c s = _
  simp only [execStreamMark, hj, hspan, if_true]

theorem exec_streamMark (hspan : isSpanJob s j = false) :
    exec (.streamMark q c) s = .next (if j.mark = 0 then finishWith s j scStreamClosed else settle (placeMark s j)) := by
  change execStreamMark q c s = _
  simp [execStreamMark, hj, hspan]

end

section
variable {s : State} {q : Fin 4097} {c : Word} {j : Job} (hj : readyJob s q.val c opStreamClose = some j)
include hj

theorem exec_streamClose_span (hspan : isSpanJob s j = true) : exec (.streamClose q c) s = .next (spanStart s noBus j) := by
  change execStreamClose q c s = _
  simp only [execStreamClose, hj, hspan, if_true]

variable (hspan : isSpanJob s j = false) {t : Strm} (ht : s.strm? j.mark = some t)
include hspan ht

theorem exec_streamClose_closed (h : j.mark = 0 ∨ t.cond ≠ .opened) :
    exec (.streamClose q c) s = .next (finishWith s j scStreamClosed) := by
  change execStreamClose q c s = _
  simp [execStreamClose, hj, hspan, ht, h]

variable (hmark : j.mark ≠ 0) (hcond : t.cond = .opened)
include hmark hcond

theorem exec_streamClose_waits (hwaits : closeWaits s j = true) : exec (.streamClose q c) s = .next s := by
  change execStreamClose q c s = _
  simp [execStreamClose, hj, hspan, ht, hmark, hcond, hwaits]

theorem exec_streamClose_ends (hwaits : closeWaits s j = false) {t1 : Strm}
    (ht1 : (endOrEmpty s j.mark t afClose 0 cfClose (eTime j.bytes)).strm? j.mark = some t1) : exec (.streamClose q c) s =
    .next (settle (setJob
      (setStream (endOrEmpty s j.mark t afClose 0 cfClose (eTime j.bytes)) j.mark { t1 with cond := .closed, handle := none })
      { j with phase := .record (t.endedSeq + 1), result := t.endOff, ashlar := t.endedSeq })) := by
  change execStreamClose q c s = _
  simp [execStreamClose, hj, hspan, ht, hmark, hcond, hwaits, ht1]

end

/-! ### STREAM_READ (R282) -/

section
variable {s : State} {q : Fin 4097} {c : Word} (b : Bus) (fl : FlashRead) {j : Job} (hj : readyJob s q.val c opStreamRead = some j)
include hj

theorem exec_streamRead_span (hspan : isSpanJob s j = true) :
    exec (.streamRead q c b fl) s = .next (spanStart (absorbBus s b) b j) := by
  change execStreamRead q c b fl s = _
  simp only [execStreamRead, hj, hspan, if_true]

theorem exec_streamRead (hspan : isSpanJob s j = false) (hlen0 : eLen j.bytes ≠ 0) (hlen : eLen j.bytes ≤ maxXfer)
    (hsgl : j.sglErr = false) {part : Part} {t : Strm} (hpart : tget s.parts (ePart j.bytes) = some part) (hstream : part.isStream = true)
    (ht : s.strm? (sKey (ePart j.bytes) (eStream j.bytes)) = some t) : exec (.streamRead q c b fl) s =
      .next (if fOpt j.bytes then readRecords (absorbBus s b) j (sKey (ePart j.bytes) (eStream j.bytes)) t fl
        else readStream (absorbBus s b) j (sKey (ePart j.bytes) (eStream j.bytes)) t fl) := by
  change execStreamRead q c b fl s = _
  simp [execStreamRead, hj, hspan, hlen0, hlen, hsgl, hpart, hstream, ht]

end

/-! ### RAW_READ (R49, R283, R309) -/

section
variable {s : State} {q : Fin 4097} {c : Word} (b : Bus) (cws : List CwResult) (retry : Option FlashPage) {j : Job}
  (hj : readyJob s q.val c opRawRead = some j) (hpart : (tget s.parts (ePart j.bytes)).isSome = true)
include hj hpart

theorem exec_rawRead_denied (hblock : rawBlock s (eLba j.bytes) = true)
    (howned : rawOwned s (paBlock (eLba j.bytes)) (ePart j.bytes) = false) :
    exec (.rawRead q c b cws retry) s = .next (finishWith s j scAccessDenied) := by
  change execRawRead q c b cws retry s = _
  simp [execRawRead, hj, Option.isNone_eq_false_iff.2 hpart, hblock, howned]

variable (hok : rawOk s (eLba j.bytes) (eLen j.bytes) = true) (hsize : eLen j.bytes * (if fOpt j.bytes then 4128 else 4096) ≤ maxXfer)
  (howned : rawOwned s (paBlock (eLba j.bytes)) (ePart j.bytes) = true)
include hok hsize howned

theorem exec_rawRead_offline (hoff : s.media.offline.getLsbD (keyCh (paLun (eLba j.bytes))) = true) :
    exec (.rawRead q c b cws retry) s = .next (finishWith s j scChannelFault) := by
  change execRawRead q c b cws retry s = _
  simp [execRawRead, hj, Option.isNone_eq_false_iff.2 hpart, hok, hsize.not_gt, howned, hoff, -mul_ite]

theorem exec_rawRead (hon : s.media.offline.getLsbD (keyCh (paLun (eLba j.bytes))) = false)
    (hdom : s.domMode (6 + keyCh (paLun (eLba j.bytes))) ≠ .offUntilReset) (hsgl : j.sglErr = false)
    (hbusy : rawBusy s (paBlock (eLba j.bytes)) (paPage (eLba j.bytes))
      ((paPage (eLba j.bytes) * cwPerPage (s.profOf (paLun (eLba j.bytes))) + paCw (eLba j.bytes) + eLen j.bytes - 1) /
        max 1 (cwPerPage (s.profOf (paLun (eLba j.bytes))))) = false) :
    exec (.rawRead q c b cws retry) s = .next (readRaw (absorbBus s b) j cws retry) := by
  change execRawRead q c b cws retry s = _
  simp [execRawRead, hj, Option.isNone_eq_false_iff.2 hpart, hok, hsize.not_gt, howned, hon, hdom, hsgl, hbusy, -mul_ite]

end

/-- Page and codeword of the `i`-th codeword that an entry names (R283). -/
def rawPlace (s : State) (e : List Byte) (i : Nat) : Nat × Nat :=
  let cw := max 1 (cwPerPage (s.profOf (paLun (eLba e))))
  ((paPage (eLba e) * cw + paCw (eLba e) + i) / cw, (paPage (eLba e) * cw + paCw (eLba e) + i) % cw)

/-- Physical address of that codeword. -/
def rawAddr (s : State) (e : List Byte) (i : Nat) : Nat := physAddr (paBlock (eLba e)) (rawPlace s e i).1 (rawPlace s e i).2

/-- The flash access of a RAW_READ: the pages of its codewords. -/
def rawFlash (s : State) (j : Job) (retry : Option FlashPage) : State ⊕ (State × List (Nat × Nat × List Ref)) :=
  reachFlash s j (((List.range (eLen j.bytes)).map (fun i => (paBlock (eLba j.bytes), (rawPlace s j.bytes i).1))).eraseDups) retry

/-- What the codewords return, in order: bytes, torn, failed. -/
def rawWords (s r : State) (j : Job) (cws : List CwResult) (taken : List (Nat × Nat × List Ref)) : List (List Byte × Bool × Bool) :=
  ((List.range (eLen j.bytes)).map (fun i => rawOutcome r taken (paBlock (eLba j.bytes)) (rawPlace s j.bytes i).1
    (rawPlace s j.bytes i).2 ((cws[i]?).getD .good))).mapIdx (fun i x => rawCw r j i x)

/-- The state that delivers them: the retries the read waited for are over (R519), and its free values are used (log 2). -/
def rawEnd (s r : State) (j : Job) (ws : List (List Byte × Bool × Bool)) : State :=
  let failed := (List.range (eLen j.bytes)).filter (fun i => ((ws[i]?).map (·.2.2)).getD false)
  let r1 := (ownRetries r j).foldl (fun t x => endRetry t x.1 x.2
    (fun y => failed.any (fun i => refCovers r y (rawAddr s j.bytes i))) false) r
  { r1 with free := r1.free + 4128 * eLen j.bytes }

/-- The delivery, up to the first codeword that is torn or fails. -/
def rawDeliver (s r : State) (j : Job) (cws : List CwResult) (taken : List (Nat × Nat × List Ref)) : State :=
  let ws := rawWords s r j cws taken
  let size := if fOpt j.bytes then 4128 else 4096
  let data := ws.flatMap (·.1)
  match ws.findIdx? (fun x => x.2.1 || x.2.2) with
  | none => deliver (rawEnd s r j ws) j data data.length { status := scOk, result := data.length }
  | some i => deliver (rawEnd s r j ws) j data (size * i) (if ((ws[i]?).map (·.2.1)).getD false
      then { status := scTorn, result := size * i }
      else { status := scUncorrectable, result := size * i, cr0 := rawAddr s j.bytes i })

theorem readRaw_eq (s : State) (j : Job) (cws : List CwResult) (retry : Option FlashPage) : readRaw s j cws retry =
    match rawFlash s j retry with
    | .inl r => r
    | .inr (r, taken) => rawDeliver s r j cws taken := rfl

section
variable {s r : State} {j : Job} {cws : List CwResult} {taken : List (Nat × Nat × List Ref)}

theorem readRaw_waits {retry : Option FlashPage} (h : rawFlash s j retry = .inl r) (cws : List CwResult) :
    readRaw s j cws retry = r := by
  rw [readRaw_eq, h]

theorem readRaw_delivers {retry : Option FlashPage} (h : rawFlash s j retry = .inr (r, taken)) (cws : List CwResult) :
    readRaw s j cws retry = rawDeliver s r j cws taken := by
  rw [readRaw_eq, h]

theorem rawDeliver_whole (h : (rawWords s r j cws taken).findIdx? (fun x => x.2.1 || x.2.2) = none) : rawDeliver s r j cws taken =
    deliver (rawEnd s r j (rawWords s r j cws taken)) j ((rawWords s r j cws taken).flatMap (·.1))
      ((rawWords s r j cws taken).flatMap (·.1)).length
      { status := 0x00, result := ((rawWords s r j cws taken).flatMap (·.1)).length } := by
  simp only [rawDeliver, h, scOk]

variable {i : Nat} {x : List Byte × Bool × Bool}
  (h : (rawWords s r j cws taken).findIdx? (fun x => x.2.1 || x.2.2) = some i) (hx : (rawWords s r j cws taken)[i]? = some x)
include h hx

theorem rawDeliver_torn (htorn : x.2.1 = true) : rawDeliver s r j cws taken =
    deliver (rawEnd s r j (rawWords s r j cws taken)) j ((rawWords s r j cws taken).flatMap (·.1))
      ((if fOpt j.bytes then 4128 else 4096) * i)
      { status := scTorn, result := (if fOpt j.bytes then 4128 else 4096) * i } := by
  simp only [rawDeliver, h, hx, htorn, Option.map_some, Option.getD_some, if_true]

theorem rawDeliver_failed (hwhole : x.2.1 = false) : rawDeliver s r j cws taken =
    deliver (rawEnd s r j (rawWords s r j cws taken)) j ((rawWords s r j cws taken).flatMap (·.1))
      ((if fOpt j.bytes then 4128 else 4096) * i)
      { status := 0x04, result := (if fOpt j.bytes then 4128 else 4096) * i, cr0 := rawAddr s j.bytes i } := by
  simp only [rawDeliver, h, hx, hwhole, Option.map_some, Option.getD_some, Bool.false_eq_true, if_false, scUncorrectable]

end

/-! ### STREAM_TRANSFER (R284, R627) -/

/-- The transfer that an entry starts: nothing of the source is known or received yet. -/
def newTransfer (s : State) (j : Job) : Transfer :=
  { q := j.q, count := j.count, txn := s.ownTxn, source := eLba j.bytes % 4096, srcPart := bitsOf (eAttr j.bytes) 20 16
    srcStream := eStream j.bytes, cert := none, dest := 0, rec_ := none, buf := [], got := 0, firstSeq := 0 }

/-- The state in which it runs. -/
def withTransfer (s : State) (j : Job) : State :=
  let s1 := setJob (takeTxn s) { j with phase := .running }
  { s1 with cas := { s1.cas with transfers := s1.cas.transfers ++ [newTransfer s j] } }

section
variable {s : State} {q : Fin 4097} {c : Word} {j : Job} (hj : readyJob s q.val c opStreamTransfer = some j) {part : Part}
  (hpart : tget s.parts (ePart j.bytes) = some part) (hstream : part.isStream = true)
include hj hpart hstream

theorem exec_streamTransfer_alone (h : s.cas.enumerated = false) :
    exec (.streamTransfer q c) s = .next (finishWith s j scMemberGone) := by
  change execStreamTransfer q c s = _
  simp [execStreamTransfer, hj, hpart, hstream, h]

theorem exec_streamTransfer_own (henum : s.cas.enumerated = true) (h : eLba j.bytes % 4096 = s.cas.memberId) :
    exec (.streamTransfer q c) s = .next (finishWith s j scOutOfRange) := by
  change execStreamTransfer q c s = _
  simp [execStreamTransfer, hj, hpart, hstream, henum, h]

theorem exec_streamTransfer_starts (henum : s.cas.enumerated = true) (h : eLba j.bytes % 4096 ≠ s.cas.memberId) :
    exec (.streamTransfer q c) s = .next (if s.keystone = true
      then transferCert (withTransfer s j) (newTransfer s j) (s.rosterCert (eLba j.bytes % 4096))
      else sendPkt (withTransfer s j) ⟨0x16, 1, true, 0, s.srcId, s.ownTxn, 0, leBytes 2 (eLba j.bytes % 4096)⟩) := by
  change execStreamTransfer q c s = _
  simp [execStreamTransfer, withTransfer, newTransfer, hj, hpart, hstream, henum, h]

end

end Sys2Proof.Machine
end

section
/-! SUPPORT. The admin commands of identity, queues, logs, time and features past the gate of a ready entry (R235 to R238, R286, R289
to R293). -/

namespace Sys2Proof.Machine

/-! ### IDENTIFY and ATTEST (R289, R292) -/

section
variable {s : State} {c : Word} (b : Bus) {j : Job} (hj : adminJob s c opIdentify = some j) (hlen0 : eLen j.bytes ≠ 0)
  (hlen : eLen j.bytes ≤ 4096) (hsgl : j.sglErr = false)
include hj hlen0 hlen hsgl

theorem exec_identify_device (hcns : eAttr j.bytes % 4 = 0) : exec (.identify c b) s =
    .next (deliver (absorbBus { s with free := s.free + 24 } b) j (bytesAt s.identDevice 0 (eLen j.bytes)) (eLen j.bytes)
      { status := 0x00, result := 4096 }) := by
  change execIdentify c b s = _
  simp [execIdentify, hj, hcns, hlen0, hlen.not_gt, hsgl, scOk]

theorem exec_identify_cert (hcns : eAttr j.bytes % 4 = 2) : exec (.identify c b) s =
    .next (deliver (absorbBus { s with free := s.free + 24 } b) j (bytesAt s.cert 0 (eLen j.bytes)) (eLen j.bytes)
      { status := 0x00, result := 256 }) := by
  change execIdentify c b s = _
  simp [execIdentify, hj, hcns, hlen0, hlen.not_gt, hsgl, scOk]

variable (hcns : eAttr j.bytes % 4 = 1)
include hcns

theorem exec_identify_part {part : Part} (hpart : tget s.parts (ePart j.bytes) = some part) : exec (.identify c b) s =
    .next (deliver (absorbBus { s with free := s.free + 24 } b) j (bytesAt (s.identPart (ePart j.bytes) part) 0 (eLen j.bytes))
      (eLen j.bytes) { status := 0x00, result := 64 }) := by
  change execIdentify c b s = _
  simp [execIdentify, hj, hcns, hpart, hlen0, hlen.not_gt, hsgl, scOk]

theorem exec_identify_span {x : Span} (hpart : tget s.parts (ePart j.bytes) = none) (hx : tget s.cas.spans (ePart j.bytes) = some x) :
    exec (.identify c b) s =
      .next (deliver (absorbBus { s with free := s.free + 24 } b) j (bytesAt (s.identSpan (ePart j.bytes) x) 0 (eLen j.bytes))
        (eLen j.bytes) { status := 0x00, result := 64 }) := by
  change execIdentify c b s = _
  simp [execIdentify, hj, hcns, hpart, hx, hlen0, hlen.not_gt, hsgl, scOk]

end

section
variable {s : State} {c : Word} {j : Job}

theorem exec_attest (b : Bus) {d : List Byte} (hj : adminJob s c opAttest = some j) (hsgl : j.sglErr = false)
    (hd : gather (absorbBus s b) b j.segs = some d) : exec (.attest c b) s =
      .next (deliver (wakeDomain (absorbBus s b) 4) j ((absorbBus s b).attestation d) 128 { status := 0x00, result := 128 }) := by
  change execAttest c b s = _
  simp [execAttest, hj, hsgl, hd, scOk]

/-! ### Queues (R195, R235 to R238) -/

theorem exec_createQueue_refused (hj : adminJob s c opCreateQueue = some j)
    (h : ePs j.bytes = 0 ∨ (tget s.queues.qs (ePs j.bytes)).isSome = true ∨ queueParamsOk s (queueParams j.bytes) = false) :
    exec (.createQueue c) s = .next (finishWith s j scOutOfRange) := by
  change execCreateQueue c s = _
  simp only [execCreateQueue, hj]
  rw [if_pos]
  rcases h with h | h | h
  · simp [h]
  · simp [h]
  · simp [h]

theorem exec_createQueue_new (hj : adminJob s c opCreateQueue = some j) (hq0 : ePs j.bytes ≠ 0) (hq : ePs j.bytes ≤ 4095)
    (hnew : tget s.queues.qs (ePs j.bytes) = none) (hok : queueParamsOk s (queueParams j.bytes) = true)
    (hplace : placementOk s (ePs j.bytes) (queueParams j.bytes).base (64 * 2 ^ (queueParams j.bytes).depthLog2)
      (queueParams j.bytes).shadow = true) : exec (.createQueue c) s =
      .next (finishOk (writeShadow { s with queues := { s.queues with
        qs := tput s.queues.qs (ePs j.bytes) (newQueue (queueParams j.bytes)) } } (ePs j.bytes)) j 0) := by
  change execCreateQueue c s = _
  simp [execCreateQueue, hj, hq0, hq.not_gt, hnew, hok, hplace]

theorem exec_destroyQueue (hj : adminJob s c opDestroyQueue = some j) (hq0 : ePs j.bytes ≠ 0) (hq : ePs j.bytes ≤ 4095)
    (hk : (tget s.queues.qs (ePs j.bytes)).isSome = true) : exec (.destroyQueue c) s = .next (if s.qIdle (ePs j.bytes)
      then finishOk { s with queues := { s.queues with qs := tdel s.queues.qs (ePs j.bytes) } } j 0 else finishWith s j scNotReady) := by
  change execDestroyQueue c s = _
  cases hidle : s.qIdle (ePs j.bytes) with
  | true => simp [execDestroyQueue, hj, hq0, hq.not_gt, Option.isNone_eq_false_iff.2 hk, hidle]
  | false => simp [execDestroyQueue, hj, hq0, hq.not_gt, Option.isNone_eq_false_iff.2 hk, hidle]

theorem exec_queryQueue (hj : adminJob s c opQueryQueue = some j) (hq : ePs j.bytes ≤ 4095) {k : Queue}
    (hk : tget s.queues.qs (ePs j.bytes) = some k) : exec (.queryQueue c) s = .next (finish s j {
      status := 0x00, result := k.p.lengthWord.toNat + k.p.attrWord.toNat * 2 ^ 32, cr0 := k.head.toNat + k.done.toNat * 2 ^ 32,
      cr1 := s.regQstat (ePs j.bytes) + s.inflight (ePs j.bytes) * 2 ^ 32 }) := by
  change execQueryQueue c s = _
  simp [execQueryQueue, hj, hq.not_gt, hk, scOk]

end

/-- A queue that is enabled, or whose reclaiming waits, has its entry act on it (R236, R264). -/
theorem disableQueue_acts {k : Queue} {j : Job} (h : k.enabled = true ∨ j.mark ≠ 0) : (!k.enabled && j.mark == 0) = false := by
  rcases h with h | h
  · simp [h]
  · simp [h]

section
variable {s : State} {c : Word} (b : Bus) {j : Job} (hj : adminJob s c opDisableQueue = some j) (hq0 : ePs j.bytes ≠ 0)
  (hq : ePs j.bytes ≤ 4095) {k : Queue} (hk : tget s.queues.qs (ePs j.bytes) = some k)
include hj hq0 hq hk

theorem exec_disableQueue_disabled (hen : k.enabled = false) (hmark : j.mark = 0) :
    exec (.disableQueue c b) s = .next (finishOk s j 0) := by
  change execDisableQueue c b s = _
  simp [execDisableQueue, hj, hq0, hq.not_gt, hk, hen, hmark]

variable (h : k.enabled = true ∨ j.mark ≠ 0)
include h

theorem exec_disableQueue_stop (hstop : bitOf (eAttr j.bytes) 0 = false) : exec (.disableQueue c b) s =
    .next (finishOk (if j.mark = 0 then disableQueue (absorbBus s b) (ePs j.bytes) else absorbBus s b) j 0) := by
  change execDisableQueue c b s = _
  simp [execDisableQueue, hj, hq0, hq.not_gt, hk, disableQueue_acts h, hstop]

theorem exec_disableQueue_reclaim (hreclaim : bitOf (eAttr j.bytes) 0 = true) {r : State} {n : Nat} {fin : Bool}
    (hr : reclaim b (ePs j.bytes) (k.depth + 1) (if j.mark = 0 then disableQueue (absorbBus s b) (ePs j.bytes) else absorbBus s b)
      j.result = (r, n, fin)) : exec (.disableQueue c b) s =
      .next (if fin then finishOk r j n else settle (setJob r { j with mark := 1, result := n })) := by
  change execDisableQueue c b s = _
  simp [execDisableQueue, hj, hq0, hq.not_gt, hk, disableQueue_acts h, hreclaim, hr]

end

/-! ### SET_TIME and GET_LOG (R290, R293) -/

section
variable {s : State} {c : Word} {j : Job}

theorem exec_setTime (hj : adminJob s c opSetTime = some j) :
    exec (.setTime c) s = .next (finishOk (if s.mayRelease then releaseExpired s else s) j j.result) := by
  change execSetTime c s = _
  simp only [execSetTime, hj]

theorem exec_getLog (b : Bus) (hj : adminJob s c opGetLog = some j) (hlen0 : eLen j.bytes ≠ 0) (hlen : eLen j.bytes ≤ maxXfer)
    (hstart : eLba j.bytes < (s.logPage (eAttr j.bytes) (ePart j.bytes)).length)
    (hpart : eAttr j.bytes ≠ 3 ∧ eAttr j.bytes ≠ 4 ∨ (tget s.parts (ePart j.bytes)).isSome = true) (hsgl : j.sglErr = false) :
    let d := ((s.logPage (eAttr j.bytes) (ePart j.bytes)).drop (eLba j.bytes)).take (eLen j.bytes)
    exec (.getLog c b) s = .next (deliver (notePage (absorbBus s b) (eAttr j.bytes) (ePart j.bytes)) j d d.length {
      status := 0x00, result := d.length, cr0 := (s.logPage (eAttr j.bytes) (ePart j.bytes)).length
      cr1 := (notePage (absorbBus s b) (eAttr j.bytes) (ePart j.bytes)).pageGen (eAttr j.bytes) (ePart j.bytes) }) := by
  have hnamed : ((eAttr j.bytes == 3 || eAttr j.bytes == 4) && (tget s.parts (ePart j.bytes)).isNone) = false := by
    rcases hpart with ⟨h3, h4⟩ | h
    · simp [h3, h4]
    · simp [Option.isNone_eq_false_iff.2 h]
  change execGetLog c b s = _
  simp only [execGetLog, hj, hnamed]
  simp [hlen0, hlen.not_gt, hstart.not_ge, hsgl, scOk]

/-! ### Features (R291, Table 9-10) -/

theorem exec_getFeature (hj : adminJob s c opGetFeature = some j) {r : Option Nat} (hr : s.feature (eAttr j.bytes) (ePart j.bytes) = r) :
    exec (.getFeature c) s = .next (r.elim (finishWith s j scOutOfRange) (finishOk s j)) := by
  change execGetFeature c s = _
  cases r with
  | none => simp only [execGetFeature, hj, hr, Option.elim]
  | some v => simp only [execGetFeature, hj, hr, Option.elim]

theorem exec_setFeature {old : Nat} (hj : adminJob s c opSetFeature = some j) (hown : s.media.foreign = false)
    (hmax : eAttr j.bytes = 6 → s.sys.fMax ≠ 0 ∧ eLba j.bytes ≤ s.sys.fMax)
    (hold : s.feature (eAttr j.bytes) (ePart j.bytes) = some old) (hok : featureOk (eAttr j.bytes) (eLba j.bytes) = true) :
    exec (.setFeature c) s = .next (finishSaved (putFeature s (eAttr j.bytes) (ePart j.bytes) (eLba j.bytes)) j old) := by
  have hfooting : (eAttr j.bytes == 6 && s.sys.fMax == 0) = false := by simpa using fun h => (hmax h).1
  have hfits : (eAttr j.bytes == 6 && decide (s.sys.fMax < eLba j.bytes)) = false := by simpa using fun h => (hmax h).2
  change execSetFeature c s = _
  simp [execSetFeature, State.foreignPart, hj, hown, hold, hok, hfooting, hfits]

/-- The features of a stream have values in stream partitions alone. -/
theorem isStream_of_feature {id p old : Nat} (hid : id ≤ 3) {part : Part} (hpart : tget s.parts p = some part)
    (hold : s.feature id p = some old) : part.isStream = true := by
  have h4 : id ≠ 4 ∧ id ≠ 5 ∧ id ≠ 6 ∧ id ≠ 7 := by omega
  by_contra hblock
  simp [State.feature, hpart, hblock, h4] at hold

/-- A feature with a value reads back as written. -/
theorem feature_putFeature {id p old : Nat} (hlow : 1 ≤ id) (hhigh : id ≤ 7) (hmax : id = 6 → s.sys.fMax ≠ 0)
    (hold : s.feature id p = some old) (v : Nat) : (putFeature s id p v).feature id p = some v := by
  rcases Nat.lt_or_ge 4 id with hdevice | hpartition
  · interval_cases id
    · rfl
    · simp [putFeature, State.feature, hmax rfl]
    · rfl
  · cases hpart : tget s.parts p with
    | none => interval_cases id <;> simp [State.feature, hpart] at hold
    | some part =>
      rcases Nat.lt_or_ge 3 id with hack | hstream
      · obtain rfl : id = 4 := by omega
        simp [State.feature, putFeature, hpart]
      · have htype := isStream_of_feature hstream hpart hold
        interval_cases id <;> simp [State.feature, putFeature, hpart, htype]

end

end Sys2Proof.Machine
end

section
/-! PROOFS. The obligations about the command set (chapter 9): every command completes (R180, R294), the stream commands (R280 to R284),
and the admin commands of identity, queues, logs, time and features (R289 to R293). -/

namespace Sys2Proof.Machine

/-- Settles O3: every way through a command's gates ends in a next state, and so does every step (R180, R294). -/
theorem noCommandStops : Obligations.NoCommandStops := ⟨exec_safe, safeRun⟩

/-- Settles O49: each command by its cases past the gate of a ready entry; a RAW_READ that reached the flash delivers by the first codeword
that is torn or failed. -/
theorem streamCommandsResult : Obligations.StreamCommandsResult := by
  intro s q c b fl j p s0
  refine ⟨fun hj hspan part hpart hstream hlen hmax hlost hassigned => ⟨?_, ?_, ?_⟩,
    fun hj hspan hlen0 hlen hmark t ht hcond => ⟨?_, fun hroom => ⟨?_, ?_⟩⟩,
    exec_streamMark,
    fun hspan => ⟨fun hj => exec_streamOpen_span hj hspan, fun hj => exec_streamAppend_span b hj hspan,
      fun hj => exec_streamMark_span hj hspan, fun hj => exec_streamClose_span hj hspan, fun hj => exec_streamRead_span b fl hj hspan⟩,
    fun hj hspan t ht => ⟨exec_streamClose_closed hj hspan ht, fun hmark hcond =>
      ⟨exec_streamClose_waits hj hspan ht hmark hcond, fun hwaits t1 => exec_streamClose_ends hj hspan ht hmark hcond hwaits⟩⟩,
    fun hj hspan hlen0 hlen hsgl part t => exec_streamRead b fl hj hspan hlen0 hlen hsgl,
    fun cws retry hj hpart => ⟨exec_rawRead_denied b cws retry hj hpart, fun hok hsize howned =>
      ⟨exec_rawRead_offline b cws retry hj hpart hok hsize howned, exec_rawRead b cws retry hj hpart hok hsize howned⟩⟩,
    fun cws retry => ⟨fun r h => readRaw_waits h cws, fun r taken h => ⟨fun hnone => ?_, fun i x hi hx => ⟨?_, ?_⟩⟩⟩,
    fun hj part hpart hstream => ⟨exec_streamTransfer_alone hj hpart hstream, exec_streamTransfer_own hj hpart hstream,
      exec_streamTransfer_starts hj hpart hstream⟩⟩
  · exact fun h => exec_streamOpen_new hj hspan hpart hstream hlen hlost hassigned
  · exact fun t h hn ht => exec_streamOpen_opened hj hspan hpart hstream hlen hlost hassigned hmax hn ht
  · exact fun t hn ht => exec_streamOpen_closed hj hspan hpart hstream hlen hlost hassigned hmax hn ht
  · exact exec_streamAppend_full b hj hspan hlen0 hlen hmark ht hcond
  · exact exec_streamAppend_pulled b hj hspan hlen0 hlen hmark ht hcond hroom
  · exact fun d => exec_streamAppend_gathered b hj hspan hlen0 hlen hmark ht hcond hroom
  · exact (readRaw_delivers h cws).trans (rawDeliver_whole hnone)
  · exact fun htorn => (readRaw_delivers h cws).trans (rawDeliver_torn hi hx htorn)
  · exact fun hwhole => (readRaw_delivers h cws).trans (rawDeliver_failed hi hx hwhole)

/-- Settles O51: each command by its cases past the gate of a ready entry, and a feature that reads back as written. -/
theorem adminReadAndQueueResult : Obligations.AdminReadAndQueueResult := by
  intro s c b j s0 si q id p
  refine ⟨fun hj hlen0 hlen hsgl => ⟨exec_identify_device b hj hlen0 hlen hsgl, exec_identify_cert b hj hlen0 hlen hsgl,
      fun part hcns => exec_identify_part b hj hlen0 hlen hsgl hcns, fun x hcns => exec_identify_span b hj hlen0 hlen hsgl hcns⟩,
    fun d => exec_attest b,
    fun hj => ⟨exec_createQueue_refused hj, exec_createQueue_new hj⟩,
    fun hj hq0 hq k hk => ⟨exec_disableQueue_disabled b hj hq0 hq hk, fun hen hmark hstop => ?_, fun hmark hstop => ?_,
      fun h hreclaim r n fin => exec_disableQueue_reclaim b hj hq0 hq hk h hreclaim⟩,
    exec_destroyQueue,
    fun hj hq k => exec_queryQueue hj hq,
    exec_setTime,
    exec_getLog b,
    fun hj => ?_,
    fun old => exec_setFeature,
    fun v old hlow hhigh hmax hold => feature_putFeature hlow hhigh hmax hold v⟩
  · rw [exec_disableQueue_stop b hj hq0 hq hk (.inl hen) hstop, if_pos hmark]
  · rw [exec_disableQueue_stop b hj hq0 hq hk (.inr hmark) hstop, if_neg hmark]
  · cases hr : s.feature id p with
    | none => exact exec_getFeature hj hr
    | some v => exact exec_getFeature hj hr

end Sys2Proof.Machine
end

section
/-! SUPPORT. READ, WRITE, WRITE_ZEROES, TRIM, FLUSH and FENCE past their gates, case by case (R33, R216, R245, R334, R460). -/

namespace Sys2Proof.Machine

/-! ### The range of a block command (R323, R345) -/

@[simp] theorem absorbBus_parts (s : State) (b : Bus) : (absorbBus s b).parts = s.parts := by
  have hwake : (wakeDomain s 3).parts = s.parts := by rw [wakeDomain_eq]
  simp only [absorbBus]
  split
  · exact hwake
  · exact hwake

theorem rangeLeaves_absorbBus (s : State) (b : Bus) (e : List Byte) : rangeLeaves (absorbBus s b) b e =
    takeLeaves (absorbBus s b) b (ePart e) (eLba e * s.lbsOf (ePart e)) (eLen e * s.lbsOf (ePart e)) := by
  simp [rangeLeaves, State.lbsOf]

/-- The check of step 4 of R295 that READ and WRITE share fails exactly outside the partition or beyond MAX_XFER. -/
theorem blockRange_refused {s : State} {e : List Byte} {n : Nat} (h : rangeOk s e = false ∨ maxXfer < n) :
    (!rangeOk s e || decide (maxXfer < n)) = true := by
  rcases h with h | h
  · simp [h]
  · simp [h]

/-! ### READ (R334, R457, R460) -/

section
variable {s r : State} {j : Job} {fl : FlashRead} {p lbs first len : Nat}

/-- What the flash gives READ of the units it serves. -/
def blockFlash (s : State) (j : Job) (fl : FlashRead) (p first len : Nat) : State ⊕ (State × List (Nat × Ref × Nat)) :=
  readFlash s j fl (unitIn p fl.lost) (unitIn p fl.rebuilt) (rangeRefs s p first len)

theorem readBlocks_waits (h : blockFlash s j fl p first len = .inl r) : readBlocks s j fl p lbs first len = r := by
  unfold blockFlash at h
  simp [readBlocks, h]

theorem readBlocks_whole (h : blockFlash s j fl p first len = .inr (r, [])) : readBlocks s j fl p lbs first len =
    deliver r j (rangeBytes s p first len) len { status := 0x00, result := len } := by
  unfold blockFlash at h
  simp [readBlocks, h, scOk]

variable {u k : Nat} {x : Ref} {rest : List (Nat × Ref × Nat)} (h : blockFlash s j fl p first len = .inr (r, (u, x, k) :: rest))
include h

theorem readBlocks_channelFault (hk : k = scChannelFault) : readBlocks s j fl p lbs first len =
    finishWith (logLostUnits r p lbs (((u, x, k) :: rest).map (fun y => (y.1, y.2.1)))) j scChannelFault := by
  unfold blockFlash at h
  simp [readBlocks, h, hk]

theorem readBlocks_uncorrectable (hk : k ≠ scChannelFault) : readBlocks s j fl p lbs first len =
    deliver (logLostUnits r p lbs (((u, x, k) :: rest).map (fun y => (y.1, y.2.1)))) j
      ((rangeBytes s p first len).take (max first (u * 4096) - first)) (max first (u * 4096) - first)
      { status := 0x04, result := max first (u * 4096) - first, cr0 := (first + (max first (u * 4096) - first)) / lbs } := by
  unfold blockFlash at h
  simp [readBlocks, h, hk, scUncorrectable]

end

section
variable {s : State} {q : Fin 4097} {c : Word} (b : Bus) (fl : FlashRead) {j : Job} (hj : readyJob s q.val c opRead = some j)
include hj

theorem exec_read_span (hspan : isSpanJob s j = true) : exec (.read q c b fl) s = .next (spanStart (absorbBus s b) b j) := by
  change execRead q c b fl s = _
  simp only [execRead, hj, hspan, if_true]

variable (hspan : isSpanJob s j = false)
include hspan

theorem exec_read_refused (h : rangeOk s j.bytes = false ∨ maxXfer < eLen j.bytes * s.lbsOf (ePart j.bytes)) :
    exec (.read q c b fl) s = .next (finishWith s j scOutOfRange) := by
  change execRead q c b fl s = _
  simp [execRead, hj, hspan, -Bool.or_eq_true, blockRange_refused h]

variable (hrange : rangeOk s j.bytes = true) (hlen : eLen j.bytes * s.lbsOf (ePart j.bytes) ≤ maxXfer)
include hrange hlen

theorem exec_read_noList (hsgl : j.sglErr = true) : exec (.read q c b fl) s = .next (finishBus (absorbBus s b) j) := by
  change execRead q c b fl s = _
  simp [execRead, hj, hspan, hrange, hlen.not_gt, hsgl]

theorem exec_read_blocks (hsgl : j.sglErr = false) : exec (.read q c b fl) s =
    .next (readBlocks (rangeLeaves (absorbBus s b) b j.bytes) j fl (ePart j.bytes) (s.lbsOf (ePart j.bytes))
      (eLba j.bytes * s.lbsOf (ePart j.bytes)) (eLen j.bytes * s.lbsOf (ePart j.bytes))) := by
  change execRead q c b fl s = _
  rw [rangeLeaves_absorbBus]
  simp [execRead, hj, hspan, hrange, hlen.not_gt, hsgl]

end

/-! ### WRITE (R33, R216, R624) -/

theorem fetchData_failed {s : State} {b : Bus} {j : Job} (horigin : j.origin = none) (hsgl : j.sglErr = false)
    (hd : gather s b j.segs = none) (n : Nat) : fetchData s b j n = finishBus s j := by
  simp [fetchData, horigin, hsgl, hd]

section
variable {s : State} {q : Fin 4097} {c : Word} (b : Bus) {j : Job} (hj : readyJob s q.val c opWrite = some j)
include hj

theorem exec_write_span (hspan : isSpanJob s j = true) : exec (.write q c b) s = .next (spanStart s b j) := by
  obtain ⟨hjob, hphase, hop, hpf, hwaits⟩ := readyJob_some hj
  change execWrite q c b s = _
  simp [execWrite, hjob, hphase, hop, hpf, hwaits, hspan]

variable (hspan : isSpanJob s j = false)
include hspan

theorem exec_write_refused (h : rangeOk s j.bytes = false ∨ maxXfer < eLen j.bytes * s.lbsOf (ePart j.bytes)) :
    exec (.write q c b) s = .next (finishWith s j scOutOfRange) := by
  obtain ⟨hjob, hphase, hop, hpf, -⟩ := readyJob_some hj
  change execWrite q c b s = _
  simp [execWrite, hjob, hphase, hop, hpf, hspan, -Bool.or_eq_true, blockRange_refused h]

theorem exec_write_fetches (hrange : rangeOk s j.bytes = true) (hlen : eLen j.bytes * s.lbsOf (ePart j.bytes) ≤ maxXfer) :
    exec (.write q c b) s =
      .next (fetchData (rangeLeaves (absorbBus s b) b j.bytes) b j (eLen j.bytes * s.lbsOf (ePart j.bytes))) := by
  obtain ⟨hjob, hphase, hop, hpf, -⟩ := readyJob_some hj
  change execWrite q c b s = _
  simp [execWrite, hjob, hphase, hop, hpf, hspan, hrange, hlen.not_gt]

end

/-! ### WRITE_ZEROES, TRIM, FLUSH and FENCE (R245, R337) -/

section
variable {s : State} {q : Fin 4097} {c : Word} {j : Job}

theorem exec_writeZeroes (b : Bus) (hj : readyJob s q.val c opWriteZeroes = some j) : exec (.writeZeroes q c b) s = .next (
    if isSpanJob s j then spanStart (absorbBus s b) b j
    else if rangeOk s j.bytes then settle (placeZero (rangeLeaves (absorbBus s b) b j.bytes) j false)
    else finishWith s j scOutOfRange) := by
  change execWriteZeroes q c b s = _
  simp only [execWriteZeroes, hj]

theorem exec_trim (b : Bus) (hj : readyJob s q.val c opTrim = some j) : exec (.trim q c b) s = .next (
    if isSpanJob s j then spanStart (absorbBus s b) b j
    else if rangeOk s j.bytes then settle (placeZero (rangeLeaves (absorbBus s b) b j.bytes) j true)
    else finishWith s j scOutOfRange) := by
  change execTrim q c b s = _
  simp only [execTrim, hj]

variable (hj : s.job? q.val c = some j)
include hj

theorem exec_flush_running (hop : j.op = opFlush) (hpf : s.energy.pfSeq = false) (hphase : j.phase = .running) :
    exec (.flush q c) s = .next (settle s) := by
  change execFlush q c s = _
  simp [execFlush, hj, hop, hpf, hphase]

theorem exec_flush_ready (hop : j.op = opFlush) (hpf : s.energy.pfSeq = false) (hphase : j.phase = .ready)
    (hwaits : waits s j = false) (hidle : s.cas.enumerating = none) : exec (.flush q c) s = .next (spanFlush s j) := by
  change execFlush q c s = _
  simp [execFlush, hj, hop, hpf, hphase, hwaits, hidle]

theorem exec_fence_running (hop : j.op = opFence) (hpf : s.energy.pfSeq = false) (hphase : j.phase = .running) :
    exec (.fence q c) s = .next (settle s) := by
  change execFence q c s = _
  simp [execFence, hj, hop, hpf, hphase]

end

end Sys2Proof.Machine
end

section
/-! SUPPORT. The commands of partitions past the gate of a ready admin entry, case by case (R174, R287, R301, R311, R315, R319, R365,
R474). -/

namespace Sys2Proof.Machine

/-! ### CREATE_PARTITION (R287, R311, R316) -/

/-- The units that CREATE_PARTITION sets aside, in steps of 1,024 (R311). -/
def newUnits (e : List Byte) : Nat := (eLba e + 1023) / 1024 * 1024

/-- With DRAM, or with few enough units, the limit of R325 refuses nothing. -/
theorem dramBound_passes {gib n : Nat} (h : gib ≠ 0 ∨ n ≤ 536870912) : (gib == 0 && decide (536870912 < n)) = false := by
  simpa [or_iff_not_imp_left] using h

section
variable {s : State} {c : Word} (b : Bus) {j : Job} (hj : adminJob s c opCreatePartition = some j) (hown : s.media.foreign = false)
include hj hown

theorem exec_createPartition_footing (hfull : s.gbl.fullService = false) :
    exec (.createPartition c b) s = .next (finishWith s j scFootingOnly) := by
  change execCreatePartition c b s = _
  simp [execCreatePartition, State.foreignPart, hj, hown, hfull]

variable (hfull : s.gbl.fullService = true) (hnew : s.partUsed (ePart j.bytes) = false) (hlba : eLba j.bytes ≠ 0)
  (hroom : newUnits j.bytes ≤ s.freeUnits) (hdram : s.gbl.dramGib.val ≠ 0 ∨ s.allocUnits + newUnits j.bytes ≤ 536870912)
include hfull hnew hlba hroom hdram

theorem exec_createPartition_plain (hxts : bitOf (eAttr j.bytes) 2 = false) : exec (.createPartition c b) s =
    .next (finishSaved { s with parts := tput s.parts (ePart j.bytes) (newPart j.bytes (newUnits j.bytes)) } j
      (newPart j.bytes (newUnits j.bytes)).result) := by
  unfold newUnits at *
  have hfits := dramBound_passes hdram
  change execCreatePartition c b s = _
  simp [execCreatePartition, State.foreignPart, hj, hown, hfull, hnew, hlba, hroom.not_gt, hfits, newPart, hxts]

theorem exec_createPartition_xts {d : List Byte} (hxts : bitOf (eAttr j.bytes) 2 = true) (hsgl : j.sglErr = false)
    (hd : gather (absorbBus s b) b j.segs = some d) :
    let s0 := absorbBus s b
    let k := drawKey s0.free
    let w := keyWrap (bytesAt d 0 32) k.1
    let made := newPart j.bytes (newUnits j.bytes)
    exec (.createPartition c b) s = .next (deliver { s0 with
      parts := tput s0.parts (ePart j.bytes) { made with keyFleet := some w, keyDev := some (s0.wrapOwn k.1) }, free := k.2 }
      j w 72 { status := 0x00, onMedia := true, result := made.result }) := by
  unfold newUnits at *
  have hfits := dramBound_passes hdram
  change execCreatePartition c b s = _
  simp [execCreatePartition, State.foreignPart, hj, hown, hfull, hnew, hlba, hroom.not_gt, hfits, newPart, hxts, hsgl, hd, scOk]

end

/-! ### DELETE_PARTITION (R174, R301, R315, R628) -/

section
variable {s : State} {c : Word} {j : Job} (hj : adminJob s c opDeletePartition = some j) (hown : s.media.foreign = false)
  (hfull : s.gbl.fullService = true)
include hj hown hfull

section
variable (hpart : tget s.parts (ePart j.bytes) = none)
include hpart

theorem exec_deletePartition_unknown (hspan : tget s.cas.spans (ePart j.bytes) = none) :
    exec (.deletePartition c) s = .next (finishWith s j scOutOfRange) := by
  change execDeletePartition c s = _
  simp [execDeletePartition, State.foreignPart, hj, hown, hfull, hpart, hspan]

variable (hspan : (tget s.cas.spans (ePart j.bytes)).isSome = true)
include hspan

theorem exec_deletePartition_span_busy (hio : ioOutstanding s (ePart j.bytes) = true) :
    exec (.deletePartition c) s = .next (finishWith s j scNotReady) := by
  change execDeletePartition c s = _
  simp [execDeletePartition, State.foreignPart, hj, hown, hfull, hpart, Option.isNone_eq_false_iff.2 hspan, hio]

theorem exec_deletePartition_span (hio : ioOutstanding s (ePart j.bytes) = false) : exec (.deletePartition c) s =
    .next (finishSaved { s with cas := { s.cas with
      spans := tdel s.cas.spans (ePart j.bytes)
      spanHandles := s.cas.spanHandles.filter (fun h => sPart h.2.1 != ePart j.bytes) } } j 0) := by
  change execDeletePartition c s = _
  simp [execDeletePartition, State.foreignPart, hj, hown, hfull, hpart, Option.isNone_eq_false_iff.2 hspan, hio]

end

variable {part : Part} (hpart : tget s.parts (ePart j.bytes) = some part)
include hpart

theorem exec_deletePartition_held (hheld : partHeld s (ePart j.bytes) = true) :
    exec (.deletePartition c) s = .next (finishWith s j scHeld) := by
  change execDeletePartition c s = _
  simp [execDeletePartition, State.foreignPart, hj, hown, hfull, hpart, hheld]

variable (hfree : partHeld s (ePart j.bytes) = false)
include hfree

theorem exec_deletePartition_busy (hio : ioOutstanding s (ePart j.bytes) = true) :
    exec (.deletePartition c) s = .next (finishWith s j scNotReady) := by
  change execDeletePartition c s = _
  simp [execDeletePartition, State.foreignPart, hj, hown, hfull, hpart, hfree, hio]

theorem exec_deletePartition (hio : ioOutstanding s (ePart j.bytes) = false) : exec (.deletePartition c) s =
    .next (finishSaved (freeEmpty { clearPart s (ePart j.bytes) with
      parts := tdel (clearPart s (ePart j.bytes)).parts (ePart j.bytes) }) j part.capUnits) := by
  change execDeletePartition c s = _
  simp [execDeletePartition, State.foreignPart, hj, hown, hfull, hpart, hfree, hio]

end

/-! ### SET_HOLD (R365) -/

/-- The references that SET_HOLD leaves in place of `l`, or the status that refuses it. -/
def newHolds (e : List Byte) (l : List DWord) : Except Nat (List DWord) :=
  holdRefs l (BitVec.ofNat 64 (eLba e)) (bitOf (eAttr e) 16)

section
variable {s : State} {c : Word} {j : Job} (hj : adminJob s c opSetHold = some j) (hown : s.media.foreign = false)
  (hfull : s.gbl.fullService = true) {part : Part} (hpart : tget s.parts (ePart j.bytes) = some part)
include hj hown hfull hpart

theorem exec_setHold_partition (hn : eStream j.bytes = 0) {l : List DWord} (hl : newHolds j.bytes part.holds = .ok l) :
    exec (.setHold c) s =
      .next (finishSaved { s with parts := tput s.parts (ePart j.bytes) { part with holds := l } } j l.length) := by
  unfold newHolds at hl
  change execSetHold c s = _
  simp [execSetHold, State.foreignPart, hj, hown, hfull, hpart, hn, hl]

theorem exec_setHold_partition_refused (hn : eStream j.bytes = 0) {e : Nat} (he : newHolds j.bytes part.holds = .error e) :
    exec (.setHold c) s = .next (finishWith s j e) := by
  unfold newHolds at he
  change execSetHold c s = _
  simp [execSetHold, State.foreignPart, hj, hown, hfull, hpart, hn, he]

variable (hn : eStream j.bytes ≠ 0)
include hn

theorem exec_setHold_noStream (ht : s.strm? (sKey (ePart j.bytes) (eStream j.bytes)) = none) :
    exec (.setHold c) s = .next (finishWith s j scOutOfRange) := by
  change execSetHold c s = _
  simp [execSetHold, State.foreignPart, hj, hown, hfull, hpart, hn, ht]

variable {t : Strm} (ht : s.strm? (sKey (ePart j.bytes) (eStream j.bytes)) = some t)
include ht

theorem exec_setHold_stream {l : List DWord} (hl : newHolds j.bytes t.holds = .ok l) : exec (.setHold c) s =
    .next (finishSaved (setStream s (sKey (ePart j.bytes) (eStream j.bytes)) { t with holds := l }) j l.length) := by
  unfold newHolds at hl
  change execSetHold c s = _
  simp [execSetHold, State.foreignPart, hj, hown, hfull, hpart, hn, ht, hl]

theorem exec_setHold_stream_refused {e : Nat} (he : newHolds j.bytes t.holds = .error e) :
    exec (.setHold c) s = .next (finishWith s j e) := by
  unfold newHolds at he
  change execSetHold c s = _
  simp [execSetHold, State.foreignPart, hj, hown, hfull, hpart, hn, ht, he]

end

section
variable {l : List DWord} {r : DWord}

theorem holdRefs_add (hr : r ∉ l) (hroom : l.length < 8) : holdRefs l r true = .ok (l ++ [r]) := by
  simp [holdRefs, hr, hroom.not_ge]

theorem holdRefs_add_full (hr : r ∉ l) (hfull : 8 ≤ l.length) : holdRefs l r true = .error scNoSpace := by
  simp [holdRefs, hr, hfull]

theorem holdRefs_add_present (hr : r ∈ l) : holdRefs l r true = .ok l := by simp [holdRefs, hr]

theorem holdRefs_remove (hr : r ∈ l) : holdRefs l r false = .ok (l.filter (· != r)) := by simp [holdRefs, hr]

theorem holdRefs_remove_absent (hr : r ∉ l) : holdRefs l r false = .error scOutOfRange := by simp [holdRefs, hr]

end

/-! ### SANITIZE (R174, R319, R471) -/

/-- The partitions that SANITIZE addresses: all, or the one it names. -/
def sanitized (s : State) (e : List Byte) : List Nat := if bitOf (eAttr e) 0 then s.parts.map (·.1) else [ePart e]

/-- The partition is enciphered. -/
def State.isXts (s : State) (p : Nat) : Bool := ((tget s.parts p).map (·.xts)).getD false

/-- The partitions that SANITIZE erases by their keys alone (R319). -/
def keyErased (s : State) (e : List Byte) : List Nat :=
  if bitOf (eAttr e) 1 then (sanitized s e).filter s.isXts else []

/-- The partitions whose blocks SANITIZE erases. -/
def blockErased (s : State) (e : List Byte) : List Nat := (sanitized s e).filter (fun p => !(keyErased s e).contains p)

/-- The Rubble blocks that SANITIZE could not clear. -/
def residueLeft (s : State) (e : List Byte) (residue : Nat) : Nat := if (blockErased s e).isEmpty then 0 else min residue s.rubble

/-- The end of a SANITIZE that leaves `s1`: the residue is logged and reported (R471). -/
def sanitizeEnd (s s1 : State) (j : Job) (residue : Nat) : State :=
  let left := residueLeft s j.bytes residue
  let s2 := if left = 0 then s1
    else logEvent s1 logSanitizeResidue [(0, 1, if bitOf (eAttr j.bytes) 0 then 0xFF else ePart j.bytes), (4, 4, left)]
  finish (freeEmpty s2) j
    { status := 0x00, onMedia := true, result := ((sanitized s j.bytes).map s.usedUnits).sum, cr0 := left, logged := 0 < left }

section
variable {s : State} {c : Word} (residue : Nat) {j : Job} (hj : adminJob s c opSanitize = some j)
include hj

theorem exec_sanitize_denied (h : s.prot.policy.getLsbD 8 = false) :
    exec (.sanitize c residue) s = .next (finishWith s j scAccessDenied) := by
  change execSanitize c residue s = _
  simp only [execSanitize, hj, h, Bool.not_false, Bool.true_or, if_true]

variable (hallowed : s.prot.policy.getLsbD 8 = true) (hown : s.media.foreign = false) (hfull : s.gbl.fullService = true)
  (htarget : bitOf (eAttr j.bytes) 0 = true ∨
    ((tget s.parts (ePart j.bytes)).isSome = true ∧ (bitOf (eAttr j.bytes) 1 = false ∨ s.isXts (ePart j.bytes) = true)))
include hallowed hown hfull htarget

/-- SANITIZE past its permission and its target: what holds it up, what is outstanding, and its erasure (R174, R301, R471). -/
theorem exec_sanitize : exec (.sanitize c residue) s =
    if (sanitized s j.bytes).any (partHeld s) then .next (finishWith s j scHeld)
    else if (sanitized s j.bytes).any (ioOutstanding s) then .next (finishWith s j scNotReady)
    else match sanitizeParts s (keyErased s j.bytes) (blockErased s j.bytes) with
      | none => .next s
      | some s1 => .next (sanitizeEnd s s1 j residue) := by
  have hgate : (!s.prot.policy.getLsbD 8 || s.foreignPart) = false := by rw [hallowed, State.foreignPart, hown]; rfl
  have hknown : (!bitOf (eAttr j.bytes) 0 && ((tget s.parts (ePart j.bytes)).isNone ||
      (bitOf (eAttr j.bytes) 1 && !s.isXts (ePart j.bytes)))) = false := by
    rcases htarget with hall | ⟨hpart, hcrypto | hxts⟩
    · simp [hall]
    · simp [Option.isNone_eq_false_iff.2 hpart, hcrypto]
    · simp [Option.isNone_eq_false_iff.2 hpart, hxts]
  unfold State.isXts at hknown
  change execSanitize c residue s = _
  simp only [execSanitize, hj, hgate, hknown, hfull, Bool.not_true, Bool.false_eq_true, if_false, beq_iff_eq]
  rfl

theorem exec_sanitize_held (hheld : (sanitized s j.bytes).any (partHeld s) = true) :
    exec (.sanitize c residue) s = .next (finishWith s j scHeld) := by
  rw [exec_sanitize residue hj hallowed hown hfull htarget, if_pos hheld]

variable (hfree : (sanitized s j.bytes).any (partHeld s) = false)
include hfree

theorem exec_sanitize_busy (hio : (sanitized s j.bytes).any (ioOutstanding s) = true) :
    exec (.sanitize c residue) s = .next (finishWith s j scNotReady) := by
  rw [exec_sanitize residue hj hallowed hown hfull htarget, hfree, if_neg Bool.false_ne_true, if_pos hio]

theorem exec_sanitize_erases {s1 : State} (hio : (sanitized s j.bytes).any (ioOutstanding s) = false)
    (hs1 : sanitizeParts s (keyErased s j.bytes) (blockErased s j.bytes) = some s1) :
    exec (.sanitize c residue) s = .next (sanitizeEnd s s1 j residue) := by
  rw [exec_sanitize residue hj hallowed hown hfull htarget, hfree, if_neg Bool.false_ne_true, hio, if_neg Bool.false_ne_true, hs1]

end

/-! ### ADOPT_MEDIA (R321, R474) -/

section
variable {s : State} {c : Word} (b : Bus) {j : Job} (hj : adminJob s c opAdoptMedia = some j)
include hj

theorem exec_adoptMedia_denied (h : s.prot.policy.getLsbD 9 = false) :
    exec (.adoptMedia c b) s = .next (finishWith s j scAccessDenied) := by
  change execAdoptMedia c b s = _
  simp only [execAdoptMedia, hj, h, Bool.not_false, if_true]

theorem exec_adoptMedia_adopts {d : List Byte} {keys : List (Nat × List Byte)} (hallowed : s.prot.policy.getLsbD 9 = true)
    (hfull : s.gbl.fullService = true) (hforeign : s.media.foreign = true) (hsgl : j.sglErr = false)
    (hd : gather (absorbBus s b) b j.segs = some d) (hkeys : unwrapKeys (bytesAt d 0 32) (absorbBus s b).parts = .ok keys) :
    let s1 := adopt (absorbBus s b) keys
    exec (.adoptMedia c b) s = .next (finishSaved (refresh { s1 with
      media := { s1.media with relocating := s1.media.relocating ++
        (missingLuns s1).filter (fun l => !s1.media.relocating.contains l) }
      gbl := { s1.gbl with roEol := s1.sys.eol } }) j (absorbBus s b).parts.length) := by
  change execAdoptMedia c b s = _
  simp only [execAdoptMedia, hj, hallowed, hfull, hforeign, hsgl, hd, hkeys, Bool.not_true, Bool.false_eq_true, if_false]

end

end Sys2Proof.Machine
end

section
/-! PROOFS. The obligations about the commands of partitions (chapter 10): block commands (R33, R245, R334, R460), and partitions, holds,
SANITIZE and ADOPT_MEDIA (R311, R315, R321, R365). -/

namespace Sys2Proof.Machine

/-- Settles O46: each command by its cases past the gate of a ready entry; a READ that reached the flash ends by the first unit lost. -/
theorem blockCommandsResult : Obligations.BlockCommandsResult := by
  intro s q c b fl j p first len s0 m
  have hm : rangeLeaves (absorbBus s b) b j.bytes = m := rangeLeaves_absorbBus s b j.bytes
  refine ⟨fun hj => ⟨exec_read_span b fl hj, exec_read_refused b fl hj, fun hspan hrange hlen =>
      ⟨exec_read_noList b fl hj hspan hrange hlen, fun hsgl => ?_⟩⟩,
    fun hj => ⟨exec_write_span b hj, exec_write_refused b hj, fun hspan hrange hlen => ?_⟩,
    fun hj => hm ▸ exec_writeZeroes b hj,
    fun hj => hm ▸ exec_trim b hj,
    fun hj hop hpf => ⟨exec_flush_running hj hop hpf, exec_flush_ready hj hop hpf⟩,
    exec_fence_running⟩
  · intro flash
    have hread := hm ▸ exec_read_blocks b fl hj hspan hrange hlen hsgl
    refine ⟨fun r h => ?_, fun r h => ?_, fun r u x k rest h => ⟨fun hk => ?_, fun hk => ?_⟩⟩
    · rw [hread, readBlocks_waits h]
    · rw [hread, readBlocks_whole h]
    · rw [hread, readBlocks_channelFault h hk]
    · rw [hread, readBlocks_uncorrectable h hk]
  · have hwrite := hm ▸ exec_write_fetches b hj hspan hrange hlen
    refine ⟨fun horigin => ?_, fun horigin hsgl hd => ?_, fun d horigin hsgl hd => ?_⟩
    · rw [hwrite, fetchData_pulled horigin]
    · rw [hwrite, fetchData_failed horigin hsgl hd]
    · rw [hwrite, fetchData_gathered horigin hsgl hd]

/-- Settles O52: each command by its cases past the gate of a ready entry, and the rule for a list of references. -/
theorem partitionCommandsResult : Obligations.PartitionCommandsResult := by
  intro s c b j
  refine ⟨fun hj hown => ⟨exec_createPartition_footing b hj hown, fun hfull hnew hlba hroom hdram =>
      ⟨exec_createPartition_plain b hj hown hfull hnew hlba hroom hdram,
        fun d => exec_createPartition_xts b hj hown hfull hnew hlba hroom hdram⟩⟩,
    fun hj hown hfull hpart => ⟨exec_deletePartition_span_busy hj hown hfull hpart, exec_deletePartition_span hj hown hfull hpart,
      exec_deletePartition_unknown hj hown hfull hpart⟩,
    fun hj hown hfull part hpart => ⟨exec_deletePartition_held hj hown hfull hpart, exec_deletePartition_busy hj hown hfull hpart,
      exec_deletePartition hj hown hfull hpart⟩,
    fun hj hown hfull part hpart => ?_,
    fun l r => ⟨holdRefs_add, holdRefs_add_full, fun hr => ⟨holdRefs_add_present hr, holdRefs_remove hr⟩, holdRefs_remove_absent⟩,
    fun residue hj => ⟨exec_sanitize_denied residue hj, fun hallowed hown hfull htarget =>
      ⟨exec_sanitize_held residue hj hallowed hown hfull htarget, exec_sanitize_busy residue hj hallowed hown hfull htarget,
        fun s1 hfree hio hs1 => exec_sanitize_erases residue hj hallowed hown hfull htarget hfree hio hs1⟩⟩,
    fun hj => ⟨exec_adoptMedia_denied b hj, fun hallowed hfull hforeign hsgl d keys =>
      exec_adoptMedia_adopts b hj hallowed hfull hforeign hsgl⟩⟩
  intro r set n
  exact ⟨fun hn => ⟨fun l => exec_setHold_partition hj hown hfull hpart hn,
      fun e => exec_setHold_partition_refused hj hown hfull hpart hn⟩,
    exec_setHold_noStream hj hown hfull hpart, fun t hn ht =>
      ⟨fun l => exec_setHold_stream hj hown hfull hpart hn ht, fun e => exec_setHold_stream_refused hj hown hfull hpart hn ht⟩⟩

end Sys2Proof.Machine
end

section
/-! SUPPORT. The timer commands of streams, case by case: the Ashlar's time limit, the signer, and the retention check (R353, R360, R364,
R365; the moment of the timer's command is log 22's choice). -/

namespace Sys2Proof.Machine

/-! ### The running Ashlar at its time limit (R353) -/

theorem exec_ashlarTimeout_closes {s : State} {p : Fin 32} {n : BitVec 16} {t : Strm} {r : Running}
    (ht : s.strm? (sKey p.val n.toNat) = some t) (hrun : t.running = some r) (hpf : s.energy.pfSeq = false) :
    exec (.ashlarTimeout p n) s = .next (settle (endRunning s (sKey p.val n.toNat) t r afTimed 0 0 0 false)) := by
  change execAshlarTimeout p n s = _
  simp only [execAshlarTimeout, ht, hrun, hpf, Bool.false_eq_true, if_false]

/-! ### The signer (R358, R360) -/

/-- An access to a domain leaves the streams as they are. -/
theorem wakeDomain_strm? (s : State) (d key : Nat) : (wakeDomain s d).strm? key = s.strm? key := by
  rw [wakeDomain_eq]
  rfl

theorem exec_capstoneSigned_takes {s : State} {key : Nat} {rest : List Nat} {t : Strm} {f n h : Nat} {ds : List DueRec}
    (hsign : s.streams.sign = key :: rest) (hpf : s.energy.pfSeq = false) (hfault : s.gbl.sealFault = false)
    (ht : s.strm? key = some t) (hdue : t.due = .capstone f n h :: ds) :
    let s1 := wakeDomain { s with streams := { s.streams with sign := rest } } 4
    let t1 := { t with
      recs := t.recs ++ [t.settle s1 key (.capstone f n h)]
      due := ds
      closeUtc := if bitOf f 0 then utcAt s1.streams.utc s1.gbl.tick.toNat else t.closeUtc }
    exec .capstoneSigned s = .next (settle (setStream s1 key (t1.flushDue s1 key ds))) := by
  intro s1 t1
  have ht1 : s1.strm? key = some t := (wakeDomain_strm? _ 4 key).trans ht
  change execCapstoneSigned s = _
  simp only [execCapstoneSigned, hsign, hpf, hfault, Bool.or_self, Bool.false_eq_true, if_false, s1, ht1, hdue, t1]

/-! ### Expiry (R364, R365) -/

theorem exec_retentionCheck_releases {s : State} (hmay : s.mayRelease = true) : exec .retentionCheck s =
    .next { releaseExpired s with streams := { (releaseExpired s).streams with lastCheck := s.gbl.tick } } := by
  change execRetentionCheck s = _
  rw [execRetentionCheck, if_pos hmay]

theorem expired_iff (s : State) (t : Strm) : expired s t = true ↔
    (t.cond = .closed ∨ t.cond = .transferred) ∧ t.retain ≠ 0 ∧ t.closeUtc ≠ 0 ∧ utcAt s.streams.utc s.gbl.tick.toNat ≠ 0 ∧
      t.closeUtc + max t.retain s.prot.retainMin.toNat * 86400000000 ≤ utcAt s.streams.utc s.gbl.tick.toNat := by
  simp [expired, and_assoc]

/-- An open stream never expires, nor one with no retention (R364). -/
theorem not_opened_of_expired {s : State} {t : Strm} (h : expired s t = true) : t.cond ≠ .opened ∧ t.retain ≠ 0 := by
  obtain ⟨hcond, hretain, -⟩ := (expired_iff s t).mp h
  refine ⟨fun hopen => ?_, hretain⟩
  rcases hcond with hclosed | htransferred
  · exact nomatch hopen.symm.trans hclosed
  · exact nomatch hopen.symm.trans htransferred

/-- A reference on the stream keeps it (R365). -/
theorem unheld_of_holds {s : State} {key : Nat} {t : Strm} (h : t.holds ≠ []) : unheld s key t = false := by
  have hfull : t.holds.isEmpty = false := List.isEmpty_eq_false_iff.mpr h
  simp only [unheld, hfull, Bool.false_and]

end Sys2Proof.Machine
end

section
/-! PROOFS. The obligation about streams and time (chapter 11): the Ashlar's time limit, the signer, and retention (R353, R364, R365). -/

namespace Sys2Proof.Machine

/-- Settles O50: each timer command where it acts, and the conditions of a stream's release. -/
theorem streamTimeResult : Obligations.StreamTimeResult := fun _ =>
  ⟨fun _ _ _ _ => exec_ashlarTimeout_closes, fun _ _ _ _ _ _ _ => exec_capstoneSigned_takes, exec_retentionCheck_releases,
    fun _ _ => not_opened_of_expired, fun _ _ => unheld_of_holds⟩

end Sys2Proof.Machine
end

section
/-! SUPPORT. The power-fail sequence: what its step 1 does, what a stop does that meets it, and its start events (R390 to R393, R396, R405,
R412). -/

namespace Sys2Proof.Machine

/-! ### What work inside the sequence leaves alone -/

/-- The energy monitor stays; of the pins only EVT_OUT may change, and of the global registers only STATE, OVERDRIVE and status bits, of
which none clears. -/
structure SequenceKeeps (s t : State) : Prop where
  energy : t.energy = s.energy
  pins : t.pins = { s.pins with evtOut := t.pins.evtOut }
  gbl : t.gbl = { s.gbl with state := t.gbl.state, irqStatus := t.gbl.irqStatus, overdrive := t.gbl.overdrive }
  irq : ∀ i, s.gbl.irqStatus.getLsbD i = true → t.gbl.irqStatus.getLsbD i = true

namespace SequenceKeeps

theorem of_eq {s t : State} (henergy : t.energy = s.energy) (hpins : t.pins = s.pins) (hgbl : t.gbl = s.gbl) : SequenceKeeps s t :=
  ⟨henergy, by rw [hpins], by rw [hgbl], fun i => by rw [hgbl]; exact id⟩

theorem refl (s : State) : SequenceKeeps s s := of_eq rfl rfl rfl

theorem trans {s t u : State} (h : SequenceKeeps s t) (k : SequenceKeeps t u) : SequenceKeeps s u :=
  ⟨k.energy.trans h.energy, k.pins.trans (by rw [h.pins]), k.gbl.trans (by rw [h.gbl]), fun i hi => k.irq i (h.irq i hi)⟩

theorem foldl {α : Type} (f : State → α → State) (hstep : ∀ t x, SequenceKeeps t (f t x)) (l : List α) (s : State) :
    SequenceKeeps s (l.foldl f s) := by
  induction l generalizing s with
  | nil => exact refl s
  | cons x l ih => exact (hstep s x).trans (ih (f s x))

end SequenceKeeps

/-- Setting status bits clears none. -/
theorem setIrq_keeps (s : State) (bits : BitVec 13) : SequenceKeeps s (setIrq s bits) where
  energy := setIrq_energy s bits
  pins := by rw [setIrq_pins]
  gbl := by rw [setIrq_gbl]
  irq i hi := by simp [hi]

theorem SequenceKeeps.andSetIrq {s t : State} (h : SequenceKeeps s t) (bits : BitVec 13) : SequenceKeeps s (setIrq t bits) :=
  h.trans (setIrq_keeps t bits)

/-- A refresh reports the state, by status bits that it sets. -/
theorem refresh_keeps (s : State) : SequenceKeeps s (refresh s) := by
  unfold refresh
  extract_lets n _ s1
  have hstate : SequenceKeeps s s1 := .andSetIrq (by exact ⟨rfl, rfl, rfl, fun _ => id⟩) irqState
  split
  · exact .refl s
  · split
    · exact hstate.trans (.andSetIrq (by exact ⟨rfl, rfl, rfl, fun _ => id⟩) irqOverdrive)
    · exact hstate

/-! ### The operations of step 1 (R391, R548, R635) -/

theorem wakeDomain_keeps (s : State) (d : Nat) : SequenceKeeps s (wakeDomain s d) := by
  rw [wakeDomain_eq]
  exact .of_eq rfl rfl rfl

/-- In the sequence a switch is withdrawn without an entry in the error log. -/
theorem withdrawSwitch_keeps (s : State) (c : Fin 16) : SequenceKeeps s (withdrawSwitch s c 2) := by
  unfold withdrawSwitch
  dsimp only
  split
  · exact .refl s
  · exact .of_eq rfl rfl rfl

/-- A channel that stops without a write-back signals its stop. -/
theorem movPowerFail_keeps (s : State) (c : Fin 32) : SequenceKeeps s (movPowerFail s c) := by
  unfold movPowerFail movStop movIrq
  split
  · exact .refl s
  · extract_lets m s1
    have hs1 : s1 = s := by
      unfold s1
      split <;> simp
    rw [hs1]
    exact .andSetIrq (by exact .of_eq rfl rfl rfl) _

theorem requestAbort_keeps (s : State) (pfail : Bool) : SequenceKeeps s (requestAbort pfail s) := by
  unfold requestAbort
  exact .foldl _ (fun _ _ => by exact .of_eq rfl rfl rfl) _ s

theorem portsDown_keeps (s : State) : SequenceKeeps s (portsDown s) := .of_eq rfl rfl rfl
theorem suspendErases_keeps (s : State) : SequenceKeeps s (suspendErases s) := .of_eq rfl rfl rfl

/-- An abandoned hold-up run takes its pin low. -/
theorem dropCal_keeps (s : State) : SequenceKeeps s (dropCal s) := by
  unfold dropCal
  dsimp only
  split
  · split
    · exact .of_eq rfl rfl rfl
    · exact ⟨rfl, rfl, rfl, fun _ => id⟩
  · exact .of_eq rfl rfl rfl

/-! ### The start (R390, R412) -/

/-- What a start leaves: the sequence has begun, PWR_SAFE is low and the PFAIL bit set; the other pins stay but for PE_WAKE_N and EVT_OUT,
the other global registers but for STATE, OVERDRIVE and status bits. -/
structure SequenceBegun (s t : State) : Prop where
  pfSeq : t.energy.pfSeq = true
  pins : t.pins = { s.pins with pwrSafe := false, wake := t.pins.wake, evtOut := t.pins.evtOut }
  gbl : t.gbl = { s.gbl with state := t.gbl.state, irqStatus := t.gbl.irqStatus, overdrive := t.gbl.overdrive }
  pfail : t.gbl.irqStatus.getLsbD 3 = true

theorem SequenceBegun.keeps {s t u : State} (h : SequenceBegun s t) (k : SequenceKeeps t u) : SequenceBegun s u :=
  ⟨by rw [k.energy]; exact h.pfSeq, by rw [k.pins, h.pins], k.gbl.trans (by rw [h.gbl]), k.irq 3 h.pfail⟩

theorem startPowerFail_begun {s : State} (hcore : s.gbl.coreOn = true) (hseq : s.energy.pfSeq = false) (start : Nat) :
    SequenceBegun s (startPowerFail s start) := by
  unfold startPowerFail
  rw [if_neg (by simp [hcore, hseq])]
  extract_lets own s1 _ _ _ s2 s3
  have hpins : s1.pins = s.pins := setIrq_pins s irqPfail
  have hs2 : SequenceBegun s s2 := ⟨rfl, by rw [← hpins], by simp [s2, s1], by simp [s2, s1, irqPfail]⟩
  have hs3 : SequenceKeeps s2 s3 := (SequenceKeeps.foldl _ withdrawSwitch_keeps _ s2).trans (.foldl _ wakeDomain_keeps _ _)
  have hmov : SequenceKeeps s3 (eachMov movPowerFail s3) := .foldl _ movPowerFail_keeps _ s3
  have hstop : SequenceKeeps s3 (portsDown (requestAbort true (eachMov movPowerFail s3))) :=
    (hmov.trans (requestAbort_keeps _ true)).trans (portsDown_keeps _)
  exact hs2.keeps ((hs3.trans hstop).trans ((suspendErases_keeps _).trans (dropCal_keeps _)))

/-- No start event starts a sequence that runs (R412). -/
theorem startPowerFail_inSequence {s : State} (hseq : s.energy.pfSeq = true) (start : Nat) : startPowerFail s start = s :=
  if_pos (by simp [hseq])

theorem assertWake_eq (s : State) : assertWake s = { s with pins := { s.pins with
    wake := if s.phb = true ∨ s.pins.resetN = false then s.pins.wake else true } } := by
  have hheld : (s.phb || !s.pins.resetN) = true ↔ s.phb = true ∨ s.pins.resetN = false := by simp
  simp only [assertWake, hheld]
  split <;> rfl

/-! ### A stop inside the sequence (R168, R412, R686) -/

/-- The error log is quiet in the sequence, so a cause reaches GBL_HALT_CAUSE alone. -/
theorem recordCause_inSequence {s : State} (hseq : s.energy.pfSeq = true) (cause : BitVec 8) (detail : Nat) :
    recordCause s cause detail = { s with gbl := { s.gbl with
      halt := if s.gbl.halt.cause = 0 then ⟨cause, BitVec.ofNat 12 detail⟩ else s.gbl.halt } } := by
  have hlog (t : State) (ht : t.energy.pfSeq = true) (type : Nat) (fs : List (Nat × Nat × Nat)) : logEvent t type fs = t :=
    if_pos (by simp [ht])
  simp only [recordCause, beq_iff_eq]
  split
  · exact hlog _ (by exact hseq) _ _
  · exact hlog _ (by exact hseq) _ _

/-- In the sequence a halt sets HALTED and its cause: no queue stops anew (R412). -/
theorem enterHalted_inSequence {s : State} (hseq : s.energy.pfSeq = true) (cause : BitVec 8) (detail : Nat) :
    enterHalted s cause detail =
      refresh { s with gbl := { s.gbl with
        halted := true, halt := if s.gbl.halt.cause = 0 then ⟨cause, BitVec.ofNat 12 detail⟩ else s.gbl.halt } } := by
  simp [enterHalted, recordCause_inSequence hseq, hseq]

/-- In the sequence a failure sets FAILED and its cause, and the ports go down; the register file answers once the core runs. -/
theorem enterFailed_inSequence {s : State} (hseq : s.energy.pfSeq = true) (cause : BitVec 8) (detail : Nat) (hash : Bool) :
    enterFailed s cause detail hash =
      portsDown (refresh { s with
        gbl := { s.gbl.fail cause detail with up := s.gbl.up || s.gbl.coreOn }
        pcie := { s.pcie with crs := s.pcie.crs && !s.gbl.coreOn } }) := by
  simp [enterFailed, recordCause_inSequence hseq, hseq, Gbl.fail]

theorem enterHalted_keeps {s : State} (hseq : s.energy.pfSeq = true) (cause : BitVec 8) (detail : Nat) :
    SequenceKeeps { s with gbl := { s.gbl with
      halted := true, halt := if s.gbl.halt.cause = 0 then ⟨cause, BitVec.ofNat 12 detail⟩ else s.gbl.halt } }
      (enterHalted s cause detail) := by
  rw [enterHalted_inSequence hseq]
  exact refresh_keeps _

theorem enterFailed_keeps {s : State} (hseq : s.energy.pfSeq = true) (cause : BitVec 8) (detail : Nat) (hash : Bool) :
    SequenceKeeps { s with gbl := { s.gbl.fail cause detail with up := s.gbl.up || s.gbl.coreOn } }
      (enterFailed s cause detail hash) := by
  rw [enterFailed_inSequence hseq]
  refine .trans ?_ ((refresh_keeps _).trans (portsDown_keeps _))
  exact .of_eq rfl rfl rfl

/-! ### The start events (R81, R99, R100, R114, R390) -/

theorem exec_pfailAssert {s : State} (hv : s.pins.vaon = true) :
    exec .pfailAssert s = .next (startPowerFail (assertWake { s with pins := { s.pins with pfailN := false } }) 1) :=
  if_neg (by simp [hv])

theorem exec_vddCoreLow_first {s : State} (hpfail : s.pins.pfailN = true) :
    exec .vddCoreLow s = .next (startPowerFail { s with pins := { s.pins with vddCore := false } } 2) := if_pos hpfail

/-- PFAIL_N low has started the sequence before (R654). -/
theorem exec_vddCoreLow_after {s : State} (hpfail : s.pins.pfailN = false) :
    exec .vddCoreLow s = .next { s with pins := { s.pins with vddCore := false } } := if_neg (by simp [hpfail])

theorem exec_sysclkLoss {s : State} (hcore : s.gbl.coreOn = true) (hclock : s.gbl.clockLost = false) :
    exec .sysclkLoss s =
      .next (enterFailed (startPowerFail { s with gbl := { s.gbl with clockLost := true } } 4) causeClockLoss 0) :=
  if_neg (by simp [hcore, hclock])

/-- The critical step as PE_WAKE_N and THERMAL report it, before the sequence and the halt. -/
def atCritical (s : State) : State := setIrq (assertWake { s with gbl := { s.gbl with thermStep := 5 } }) irqThermal

theorem exec_thermalCritical {s : State} (hcore : s.gbl.coreOn = true) (hstep : s.gbl.thermStep ≠ 5) :
    exec .thermalCritical s = .next (enterHalted (startPowerFail (atCritical s) 5) causeThermal 0) :=
  if_neg (by simp [hcore, hstep])

theorem exec_sysclkLoss_ignored {s : State} (h : ¬ (s.gbl.coreOn = true ∧ s.gbl.clockLost = false)) : exec .sysclkLoss s = .next s :=
  if_pos (by simpa [Decidable.imp_iff_not_or] using h)

theorem exec_thermalCritical_ignored {s : State} (h : ¬ (s.gbl.coreOn = true ∧ s.gbl.thermStep ≠ 5)) :
    exec .thermalCritical s = .next s := if_pos (by simpa [Decidable.imp_iff_not_or] using h)

@[simp] theorem atCritical_energy (s : State) : (atCritical s).energy = s.energy := by simp [atCritical, assertWake_eq]
@[simp] theorem atCritical_gbl (s : State) : (atCritical s).gbl =
    { s.gbl with thermStep := 5, irqStatus := s.gbl.irqStatus ||| irqThermal } := by simp [atCritical, assertWake_eq]

/-! ### A second start event (R412) -/

section
variable {s : State} (hseq : s.energy.pfSeq = true)
include hseq

theorem exec_pfailAssert_inSequence (hv : s.pins.vaon = true) : exec .pfailAssert s = .next { s with pins := { s.pins with
    pfailN := false, wake := if s.phb = true ∨ s.pins.resetN = false then s.pins.wake else true } } := by
  rw [exec_pfailAssert hv, assertWake_eq, startPowerFail_inSequence (by exact hseq)]
  rfl

theorem exec_vddCoreLow_inSequence : exec .vddCoreLow s = .next { s with pins := { s.pins with vddCore := false } } := by
  cases hpfail : s.pins.pfailN with
  | true => rw [exec_vddCoreLow_first hpfail, startPowerFail_inSequence (by exact hseq)]
  | false => exact exec_vddCoreLow_after hpfail

theorem exec_sysclkLoss_inSequence : ∃ t, exec .sysclkLoss s = .next t ∧ t.energy = s.energy := by
  by_cases hacts : s.gbl.coreOn = true ∧ s.gbl.clockLost = false
  · obtain ⟨hcore, hclock⟩ := hacts
    refine ⟨_, exec_sysclkLoss hcore hclock, ?_⟩
    rw [startPowerFail_inSequence (by exact hseq)]
    exact (enterFailed_keeps (by exact hseq) _ _ _).energy
  · exact ⟨s, exec_sysclkLoss_ignored hacts, rfl⟩

theorem exec_thermalCritical_inSequence : ∃ t, exec .thermalCritical s = .next t ∧ t.energy = s.energy := by
  by_cases hacts : s.gbl.coreOn = true ∧ s.gbl.thermStep ≠ 5
  · obtain ⟨hcore, hstep⟩ := hacts
    refine ⟨_, exec_thermalCritical hcore hstep, ?_⟩
    have hseq' : (atCritical s).energy.pfSeq = true := by rw [atCritical_energy]; exact hseq
    rw [startPowerFail_inSequence hseq']
    exact (enterHalted_keeps hseq' _ _).energy.trans (atCritical_energy s)
  · exact ⟨s, exec_thermalCritical_ignored hacts, rfl⟩

/-! ### The park (R389, R391, R396) -/

theorem exec_pfSafe_parks (hparked : s.energy.parked = false) (hquiet : s.flashQuiet = true) (hpromises : s.promisesOver = true) :
    exec .pfSafe s = .next { s with
      pins := { s.pins with pwrSafe := true, wpN := 0 }, energy := { s.energy with parked := true }, doms := parkDomains s.doms } :=
  if_neg (by simp [hseq, hparked, hquiet, hpromises])

end

/-! ### The first start event -/

section
variable {s : State} (hcore : s.gbl.coreOn = true) (hseq : s.energy.pfSeq = false)
include hcore hseq

theorem exec_pfailAssert_starts (hv : s.pins.vaon = true) : ∃ t, exec .pfailAssert s = .next t ∧ t.energy.pfSeq = true ∧
    t.pins.pfailN = false ∧ t.pins.pwrSafe = false ∧ t.gbl.irqStatus.getLsbD 3 = true := by
  refine ⟨_, exec_pfailAssert hv, ?_⟩
  rw [assertWake_eq]
  have h := startPowerFail_begun (s := { s with pins := { s.pins with
    pfailN := false, wake := if s.phb = true ∨ s.pins.resetN = false then s.pins.wake else true } }) hcore hseq 1
  exact ⟨h.pfSeq, congrArg Pins.pfailN h.pins, congrArg Pins.pwrSafe h.pins, h.pfail⟩

theorem exec_vddCoreLow_starts (hpfail : s.pins.pfailN = true) : ∃ t, exec .vddCoreLow s = .next t ∧ t.energy.pfSeq = true ∧
    t.pins.vddCore = false ∧ t.pins.pwrSafe = false ∧ t.gbl.irqStatus.getLsbD 3 = true := by
  have h := startPowerFail_begun (s := { s with pins := { s.pins with vddCore := false } }) hcore hseq 2
  exact ⟨_, exec_vddCoreLow_first hpfail, h.pfSeq, congrArg Pins.vddCore h.pins, congrArg Pins.pwrSafe h.pins, h.pfail⟩

theorem exec_sysclkLoss_starts (hclock : s.gbl.clockLost = false) : ∃ t, exec .sysclkLoss s = .next t ∧ t.energy.pfSeq = true ∧
    t.pins.pwrSafe = false ∧ t.gbl.irqStatus.getLsbD 3 = true ∧ t.gbl.failed = true ∧
    (s.gbl.halt.cause = 0 → t.gbl.halt = ⟨causeClockLoss, 0⟩) := by
  have h := startPowerFail_begun (s := { s with gbl := { s.gbl with clockLost := true } }) hcore hseq 4
  have k := enterFailed_keeps h.pfSeq causeClockLoss 0 true
  have hhalt := congrArg Gbl.halt h.gbl
  refine ⟨_, exec_sysclkLoss hcore hclock, by rw [k.energy]; exact h.pfSeq, ?_, k.irq 3 h.pfail, by rw [k.gbl]; rfl, fun hcause => ?_⟩
  · rw [k.pins]
    exact congrArg Pins.pwrSafe h.pins
  · rw [k.gbl]
    exact if_pos ((congrArg HaltCause.cause hhalt).trans hcause)

theorem exec_thermalCritical_starts (hstep : s.gbl.thermStep ≠ 5) : ∃ t, exec .thermalCritical s = .next t ∧ t.energy.pfSeq = true ∧
    t.pins.pwrSafe = false ∧ t.gbl.irqStatus.getLsbD 3 = true ∧ t.gbl.halted = true ∧ t.gbl.failed = s.gbl.failed ∧
    (s.gbl.halt.cause = 0 → t.gbl.halt = ⟨causeThermal, 0⟩) := by
  have h := startPowerFail_begun (s := atCritical s) (by simpa using hcore) (by simpa using hseq) 5
  have k := enterHalted_keeps h.pfSeq causeThermal 0
  have hfailed : (startPowerFail (atCritical s) 5).gbl.failed = s.gbl.failed := by rw [h.gbl, atCritical_gbl]
  have hhalt : (startPowerFail (atCritical s) 5).gbl.halt = s.gbl.halt := by rw [h.gbl, atCritical_gbl]
  refine ⟨_, exec_thermalCritical hcore hstep, by rw [k.energy]; exact h.pfSeq, ?_, k.irq 3 h.pfail, by rw [k.gbl], ?_,
    fun hcause => ?_⟩
  · rw [k.pins]
    exact congrArg Pins.pwrSafe h.pins
  · rw [k.gbl]
    exact hfailed
  · rw [k.gbl]
    exact if_pos ((congrArg HaltCause.cause hhalt).trans hcause)

end

end Sys2Proof.Machine
end

section
/-! SUPPORT. Samples of the energy monitor and of the thermometers (R112, R382, R385, Table 4-6). -/

namespace Sys2Proof.Machine

theorem satTo_eq_min (m n : Nat) : satTo m n = min m n := by
  unfold satTo
  split <;> omega

/-! ### VHOLD_SENSE -/

theorem exec_adcSample {s : State} (hcore : s.gbl.coreOn = true) (raw : BitVec 12) : exec (.adcSample raw) s =
    .next (settle (tripSample (holdSample (publishSample s (s.adcCode raw.toNat)) (s.adcCode raw.toNat)))) :=
  if_neg (by simp [hcore])

theorem exec_ackRelease {s : State} (hcore : s.gbl.coreOn = true) : exec .ackRelease s = .next (settle s) := if_pos hcore

/-- `s` once a corrected code is among the last four samples (R382). -/
def withSample (s : State) (code : Nat) : State :=
  { s with energy := { s.energy with samples := (code :: s.energy.samples).take 4, vsense := BitVec.ofNat 12 code } }

/-- What a sample publishes is computed from the samples it joins; catch-up may begin beside it (R388). -/
theorem publishSample_energy (s : State) (code : Nat) :
    let r := withSample s code
    let h := r.horizonOf r.vhNum
    (publishSample s code).energy = { r.energy with
      h := h, horizon := BitVec.ofNat 24 (satTo 0xFFFFFF (h / 4096)), fill := BitVec.ofNat 7 (fillOf r.uBytes h), bFill := r.bFill
      catchUp := (publishSample s code).energy.catchUp } := by
  unfold publishSample
  extract_lets s1 h s2 r h'
  split <;> rfl

theorem fillOf_eq (u h : Nat) : fillOf u h = if h = 0 then (if 0 < u then 127 else 0) else min 127 (100 * u / h) := by
  simp only [fillOf, beq_iff_eq, satTo_eq_min]

/-! ### Tj -/

theorem requestCal_gbl (s : State) (kind : Nat) (us : List Nat) : (requestCal s kind us).gbl = s.gbl := by
  unfold requestCal
  dsimp only
  repeat' split
  all_goals rfl

/-- The temperature trigger requests calibrations, no more (R559). -/
theorem tempTrigger_gbl (s : State) : (tempTrigger s).gbl = s.gbl := by
  unfold tempTrigger
  split
  · rfl
  · extract_lets u0 u1 s1 s2
    have hs1 : s1.gbl = s.gbl := by
      unfold s1
      split
      · rfl
      · exact requestCal_gbl _ _ _
    have hs2 : s2.gbl = s1.gbl := by
      unfold s2
      split
      · rfl
      · exact requestCal_gbl _ _ _
    split
    · exact (requestCal_gbl _ _ _).trans (hs2.trans hs1)
    · exact hs2.trans hs1

/-- The hottest of the four sensors after their corrections (R112). -/
def hottest (s : State) (s0 s1 s2 s3 : Int) : Int :=
  max (max (max (s0 + s.senseOff 0) (s1 + s.senseOff 1)) (s2 + s.senseOff 2)) (s3 + s.senseOff 3)

/-- A thermal sample joins the last ones, and Tj and the step follow from their mean (R112, Table 4-6, log 28). -/
theorem exec_thermalSample {s : State} (hcore : s.gbl.coreOn = true) (s0 s1 s2 s3 : Int) :
    ∃ t, exec (.thermalSample s0 s1 s2 s3) s = .next t ∧
      let l := (hottest s s0 s1 s2 s3 :: s.gbl.tjSamples).take 4
      let mean := clampInt (-2048) 2047 (l.sum / (l.length : Int))
      t.gbl.tjSamples = l ∧ t.gbl.tj = BitVec.ofInt 12 mean ∧ t.gbl.thermStep = stepAt s.gbl.thermStep mean := by
  change ∃ t, execThermalSample s0 s1 s2 s3 s = .next t ∧ _
  rw [execThermalSample, if_neg (by simp [hcore])]
  lift_lets
  extract_lets hot l tj step peak _ _ _ t1 t2 t3
  have ht2 : t2.gbl = { t1.gbl with irqStatus := t2.gbl.irqStatus } := by
    unfold t2
    split
    · rw [setIrq_gbl]
    · rfl
  have ht3 : t3.gbl = t2.gbl := by
    unfold t3
    split
    · rw [assertWake_eq]
    · rfl
  have hgbl : (tempTrigger t3).gbl = { t1.gbl with irqStatus := t2.gbl.irqStatus } := (tempTrigger_gbl t3).trans (ht3.trans ht2)
  refine ⟨_, rfl, ?_⟩
  rw [hgbl]
  exact ⟨rfl, rfl, rfl⟩

end Sys2Proof.Machine
end

section
/-! PROOFS. The obligations about energy and power loss (chapter 12) and the samples it rests on. -/

namespace Sys2Proof.Machine

/-- Settles O29: the ball's level is nothing that the park asks for. -/
theorem pfailHighSequenceGoesOn : Obligations.PfailHighSequenceGoesOn :=
  ⟨fun _ => rfl, fun s hseq hparked hquiet hpromises =>
    let t : State := { s with pins := { s.pins with pfailN := true } }
    have hpromises' : t.promisesOver = true := hpromises
    ⟨t, _, rfl, rfl, exec_pfSafe_parks (s := t) hseq hparked hquiet hpromises', rfl, hseq, rfl, rfl⟩⟩

/-- Settles O30: a start does nothing in the sequence, and the stop that two of the events add leaves the energy monitor as it is. -/
theorem secondStartEventHasNoEffect : Obligations.SecondStartEventHasNoEffect := by
  intro s hseq
  obtain ⟨t, ht, henergy⟩ := exec_sysclkLoss_inSequence hseq
  obtain ⟨u, hu, kenergy⟩ := exec_thermalCritical_inSequence hseq
  exact ⟨startPowerFail_inSequence hseq, exec_pfailAssert_inSequence hseq, exec_vddCoreLow_inSequence hseq,
    ⟨t, ht, by rw [henergy], by rw [henergy]⟩, ⟨u, hu, by rw [kenergy], by rw [kenergy]⟩⟩

/-- Settles O31: each start event starts the sequence, a stop in it keeps what the start set, and the park passes its gate
(logs 16, 27). -/
theorem powerFailStartAndParkResult : Obligations.PowerFailStartAndParkResult :=
  ⟨fun _ hcore hseq => ⟨exec_pfailAssert_starts hcore hseq, exec_vddCoreLow_starts hcore hseq, exec_vddCoreLow_after,
    exec_sysclkLoss_starts hcore hseq, exec_thermalCritical_starts hcore hseq⟩, fun _ => exec_pfSafe_parks⟩

/-- Settles O33: each sample past its gate, and what it publishes (log 28 for the mean of the readings). -/
theorem sampleResult : Obligations.SampleResult := by
  intro s hcore
  refine ⟨exec_adcSample hcore, fun code => ?_, exec_ackRelease hcore, exec_thermalSample hcore⟩
  rw [publishSample_energy]
  simp only [satTo_eq_min, fillOf_eq]
  exact ⟨rfl, rfl, rfl⟩

end Sys2Proof.Machine
end

section
/-! SUPPORT. What every step keeps, the resets and an idle microsecond among them, and the commands that store nothing. -/

namespace Sys2Proof.Machine

/-- Every command keeps what `Keeps` lists. -/
theorem exec_keeps (c : Instr) (s : State) : NextKeeps s (exec c s) := by
  cases h : Claims.isReset c with
  | false => exact (exec_stays h s).keeps
  | true =>
    cases c with
    | powerOn => exact execPowerOn_keeps s
    | vaonLoss => exact execVaonLoss_keeps s
    | resetAssert => exact execResetAssert_keeps s
    | resetRelease straps rails testEn => exact execResetRelease_keeps straps rails testEn s
    | boundaryScanInstruction code cells levels straps rails testEn =>
      exact execBoundaryScanInstruction_keeps code cells levels straps rails testEn s
    | _ => cases h

/-- A step is an idle microsecond or a command on the rest of the queue; the queue aside, it keeps what every command keeps. -/
theorem step_keeps {s t : State} (h : step s = .next t) : ∃ cs, Keeps { s with pending := cs } t := by
  cases hp : s.pending with
  | nil =>
    rw [step_idle hp] at h
    cases h
    exact ⟨s.pending, (idleTick_stays (Stays.refl s)).keeps⟩
  | cons c cs =>
    rw [step_of_pending hp] at h
    exact ⟨cs, exec_keeps c _ t h⟩

theorem AonStays.otp_getLsbD {a b : Aon} (h : AonStays a b) (i : Fin 256) (k : Nat) (hk : (a.otp[i]).getLsbD k = true) :
    (b.otp[i]).getLsbD k = true := by
  have hand : (a.otp[i] &&& b.otp[i]).getLsbD k = true := by
    rw [h i]
    exact hk
  rw [BitVec.getLsbD_and, Bool.and_eq_true] at hand
  exact hand.2

theorem Silent.memoryFrame {s t : State} (h : Silent s t) : Claims.MemoryFrame s t := by
  intro a
  rw [h.host, h.dram]
  exact ⟨rfl, rfl⟩

/-- The commands that store nothing leave both memories. -/
theorem exec_silent {c : Instr} (h : Claims.storesNothing c = true) (s : State) : NextSilent s (exec c s) := by
  cases c with
  | ack => exact execAck_silent _ _ s
  | attestReq => exact execAttestReq_silent _ _ s
  | attestRsp => exact execAttestRsp_silent _ _ s
  | attestTimeout => exact execAttestTimeout_silent s
  | autoLock => exact execAutoLock_silent s
  | blockErase => exact execBlockErase_silent s
  | blockLockAcquired => exact execBlockLockAcquired_silent _ s
  | blockLockLost => exact execBlockLockLost_silent _ s
  | burn => exact execBurn_silent _ _ _ s
  | calHoldupRun => exact execCalHoldupRun_silent s
  | calRepeat => exact execCalRepeat_silent _ s
  | calReqHoldup => exact execCalReqHoldup_silent _ s
  | calReqTrack => exact execCalReqTrack_silent _ s
  | calReqTrim => exact execCalReqTrim_silent _ s
  | configWrite => exact execConfigWrite_silent _ s
  | credit => exact execCredit_silent _ _ _ _ s
  | creditTimer => exact execCreditTimer_silent _ s
  | dieRelocate => exact execDieRelocate_silent s
  | disagreeTimeout => exact execDisagreeTimeout_silent s
  | domainGate => exact execDomainGate_silent _ _ _ s
  | domainWake => exact execDomainWake_silent _ _ s
  | doorbell => exact execDoorbell_silent _ _ s
  | entry => exact execEntry_silent _ _ s
  | enum => exact execEnum_silent _ _ s
  | enumAck => exact execEnumAck_silent _ _ s
  | evtInEdge => exact execEvtInEdge_silent _ s
  | evtOutEnd => exact execEvtOutEnd_silent _ s
  | footingCheck => exact execFootingCheck_silent _ _ s
  | footingFold => exact execFootingFold_silent s
  | footingRebuild => exact execFootingRebuild_silent s
  | fullService => exact execFullService_silent s
  | gcReclaim => exact execGcReclaim_silent s
  | healthCommit => exact execHealthCommit_silent s
  | join => exact execJoin_silent _ _ s
  | keyq => exact execKeyq_silent _ _ s
  | linkPowerState => exact execLinkPowerState_silent _ s
  | masonEvent => exact execMasonEvent_silent _ _ s
  | masonRoutinePost => exact execMasonRoutinePost_silent _ _ _ _ s
  | mcScrub => exact execMcScrub_silent _ s
  | mcSwitchTimeout => exact execMcSwitchTimeout_silent _ s
  | moverBurstStart => exact execMoverBurstStart_silent _ s
  | msixTableWrite => exact execMsixTableWrite_silent _ _ _ s
  | mspBadOp => exact execMspBadOp_silent _ _ _ s
  | mspCsRise => exact execMspCsRise_silent _ _ s
  | mspReadId => exact execMspReadId_silent _ _ s
  | mspReadStatus => exact execMspReadStatus_silent _ _ s
  | orderClear => exact execOrderClear_silent _ _ _ s
  | orderSet => exact execOrderSet_silent _ _ _ s
  | overdrivePeriod => exact execOverdrivePeriod_silent _ _ _ s
  | perstRelease => exact execPerstRelease_silent s
  | pfSafe => exact execPfSafe_silent s
  | pfailDeassert => exact execPfailDeassert_silent s
  | portTrain => exact execPortTrain_silent _ s
  | presenceChange => exact execPresenceChange_silent _ s
  | railLoss => exact execRailLoss_silent _ s
  | readOtp => exact execReadOtp_silent _ _ s
  | readSnapshot => exact execReadSnapshot_silent _ _ s
  | recoveryStart => exact execRecoveryStart_silent s
  | retentionCheck => exact execRetentionCheck_silent s
  | scanResume => exact execScanResume_silent _ s
  | switchTaken => exact execSwitchTaken_silent _ _ s
  | thermalSample => exact execThermalSample_silent _ _ _ _ s
  | thermometerBurn => exact execThermometerBurn_silent _ s
  | tickCapture => exact execTickCapture_silent s
  | train => exact execTrain_silent _ _ _ _ s
  | trainRetry => exact execTrainRetry_silent _ s
  | wearLevel => exact execWearLevel_silent s
  | _ => cases h

end Sys2Proof.Machine
end

section
/-! PROOFS. The obligations about every step and every command: the queue, the invariant, the OTP array, the error log's numbers, and the
frame of the commands that store nothing. -/

namespace Sys2Proof.Machine

/-- Settles O1: the queue's front is the command that the step matches on. -/
theorem stepTakesFront : Obligations.StepTakesFront :=
  fun _ _ _ => step_of_pending rfl

/-- Settles O6: bits of the OTP array only go from 0 to 1 in every command, and a cut burn is no exception (R672). -/
theorem otpBitsNeverClear : Obligations.OtpBitsNeverClear := by
  intro s t h i k hk
  obtain ⟨cs, keeps⟩ := step_keeps h
  exact keeps.aon.otp_getLsbD i k hk

/-- Settles O4: each store keeps the canonical form of its memory, and an entry is added to the error log within its bound (R687). -/
theorem stepKeepsInv : Obligations.StepKeepsInv := by
  rintro s t ⟨hhost, hdram, hlog⟩ h
  obtain ⟨cs, keeps⟩ := step_keeps h
  exact ⟨keeps.host hhost, keeps.dram hdram, keeps.log.1 hlog⟩

/-- Settles O9: the resets, like every command, keep the queue and the count of entries logged. -/
theorem queueKeptAndLogSequenceGrows : Obligations.QueueKeptAndLogSequenceGrows := by
  intro c s t h
  have keeps := exec_keeps c s t h
  exact ⟨keeps.pending, keeps.log.2⟩

/-- Settles O11: each command of the list is silent. -/
theorem storesNothingFrame : Obligations.StoresNothingFrame :=
  fun _ s t hc h => (exec_silent hc s t h).memoryFrame

/-- Settles O5: both memories and the error log are empty at reset, and each register has its Reset column. -/
theorem resetMeetsInv : Obligations.ResetMeetsInv :=
  ⟨⟨rfl, rfl, Nat.zero_le _⟩, rfl, rfl, rfl, rfl, rfl, rfl, rfl, rfl, rfl⟩

end Sys2Proof.Machine
end

section
/-! SUPPORT. Reports: what status bits, error-log entries and a refresh of STATE leave alone, and which media work does no more than
report beside its own change of the media. -/

namespace Sys2Proof.Machine

/-- `t` differs from `s` by reports (STATE, status bits, OVERDRIVE, messages, the logs) and in the media at most. -/
def Reports (s t : State) : Prop :=
  t = { s with gbl := { s.gbl with state := t.gbl.state, irqStatus := t.gbl.irqStatus, overdrive := t.gbl.overdrive }
               pcie := t.pcie, log := t.log, media := t.media }

namespace Reports

variable {s t u : State}

theorem refl (s : State) : Reports s s := rfl

theorem trans (h : Reports s t) (k : Reports t u) : Reports s u := by
  unfold Reports at h k ⊢
  rw [k, h]

/-- What reports leave alone of the global registers. -/
theorem gbl (h : Reports s t) :
    t.gbl = { s.gbl with state := t.gbl.state, irqStatus := t.gbl.irqStatus, overdrive := t.gbl.overdrive } := by
  rw [h]

theorem failed (h : Reports s t) : t.gbl.failed = s.gbl.failed := by rw [h.gbl]
theorem halt (h : Reports s t) : t.gbl.halt = s.gbl.halt := by rw [h.gbl]
theorem recovered (h : Reports s t) : t.gbl.recovered = s.gbl.recovered := by rw [h.gbl]
theorem coreOn (h : Reports s t) : t.gbl.coreOn = s.gbl.coreOn := by rw [h.gbl]
theorem pins (h : Reports s t) : t.pins = s.pins := by rw [h]
theorem aon (h : Reports s t) : t.aon = s.aon := by rw [h]
theorem doms (h : Reports s t) : t.doms = s.doms := by rw [h]
theorem queues (h : Reports s t) : t.queues = s.queues := by rw [h]
theorem parts (h : Reports s t) : t.parts = s.parts := by rw [h]
theorem streams (h : Reports s t) : t.streams = s.streams := by rw [h]
theorem energy (h : Reports s t) : t.energy = s.energy := by rw [h]
theorem sys (h : Reports s t) : t.sys = s.sys := by rw [h]
theorem micro (h : Reports s t) : t.micro = s.micro := by rw [h]
theorem cas (h : Reports s t) : t.cas = s.cas := by rw [h]

theorem foldl {α : Type} (f : State → α → State) (hstep : ∀ r x, Reports r (f r x)) (l : List α) (s : State) :
    Reports s (l.foldl f s) := by
  induction l generalizing s with
  | nil => exact refl s
  | cons x l ih => exact (hstep s x).trans (ih (f s x))

end Reports

theorem setIrq_reports (s : State) (bits : BitVec 13) : Reports s (setIrq s bits) := by
  unfold Reports
  rw [setIrq_eq]

theorem noteGen_reports (s : State) (page : Nat) : Reports s (noteGen s page) := rfl
theorem modMedia_reports (s : State) (f : Media → Media) : Reports s (modMedia s f) := rfl

theorem logEvent_reports (s : State) (type : Nat) (fs : List (Nat × Nat × Nat)) : Reports s (logEvent s type fs) := by
  unfold logEvent
  extract_lets e
  split
  · exact .refl s
  · split
    · rfl
    · exact Reports.trans (t := { s with log := s.log.add e }) rfl (setIrq_reports _ _)

theorem refresh_reports (s : State) : Reports s (refresh s) := by
  unfold refresh
  extract_lets n _ s1
  have hstate : Reports s s1 := Reports.trans (t := { s with gbl := { s.gbl with state := n } }) rfl (setIrq_reports _ _)
  split
  · exact .refl s
  · split
    · exact hstate.trans (Reports.trans (by rfl) (setIrq_reports _ _))
    · exact hstate

/-! ### The media under reports -/

@[simp] theorem setIrq_media (s : State) (bits : BitVec 13) : (setIrq s bits).media = s.media := by rw [setIrq_eq]
@[simp] theorem setIrq_log (s : State) (bits : BitVec 13) : (setIrq s bits).log = s.log := by rw [setIrq_eq]

@[simp] theorem logEvent_media (s : State) (type : Nat) (fs : List (Nat × Nat × Nat)) : (logEvent s type fs).media = s.media := by
  unfold logEvent
  dsimp only
  repeat' split
  all_goals simp

/-- A refresh ends the Overdrive episode at most (R19, R480). -/
theorem refresh_media (s : State) : (refresh s).media = { s.media with pace := (refresh s).media.pace } := by
  unfold refresh
  dsimp only
  repeat' split
  all_goals simp

@[simp] theorem refresh_log_held (s : State) : (refresh s).log.held = s.log.held := by
  unfold refresh
  dsimp only
  repeat' split
  all_goals simp [noteGen, bumpGen]

@[simp] theorem refresh_log_entries (s : State) : (refresh s).log.entries = s.log.entries := by
  unfold refresh
  dsimp only
  repeat' split
  all_goals simp [noteGen, bumpGen]

/-- From t6 on, outside the power-fail sequence, an event is the newest entry of the error log, under the next number (R686, R687). -/
theorem logEvent_entry {s : State} (hcore : s.gbl.coreOn = true) (hpf : s.energy.pfSeq = false) (ht6 : s.sys.t6 = true) (type : Nat)
    (fs : List (Nat × Nat × Nat)) :
    ∃ e, e ∈ (logEvent s type fs).log.entries ∧ e.type = type ∧ e.seq = s.log.nextSeq := by
  refine ⟨⟨s.log.nextSeq, s.gbl.tick, s.bootNow, type, logClass type, param fs⟩, ?_, rfl, rfl⟩
  simp only [logEvent, hcore, hpf, ht6, Bool.not_true, Bool.or_false, Bool.false_eq_true, if_false, setIrq_log, Log.add, bumpGen]
  split
  · rename_i hfull
    rw [List.drop_append_of_le_length (by simp at hfull; omega)]
    exact List.mem_append_right _ (List.mem_singleton_self _)
  · exact List.mem_append_right _ (List.mem_singleton_self _)

end Sys2Proof.Machine
end

section
/-! SUPPORT. Power-on, loss of VAON, RESET_N and start-up up to the boot window (chapters 4, 13 and 20): each command past the gate that
ignores it. -/

namespace Sys2Proof.Machine

/-! ### The always-on logic (R103, R414, R672, R673) -/

section
variable {s : State}

/-- A burn that runs at the loss of VAON is cut after its first clock (R673). -/
def cutBurn (s : State) : State :=
  match s.aon.frame with
  | some ⟨some (w, v), _, _⟩ => endBurn s w v 1 0
  | _ => s

theorem cutBurn_none (hframe : ∀ w v fs d, s.aon.frame ≠ some ⟨some (w, v), fs, d⟩) : cutBurn s = s := by
  unfold cutBurn
  split
  · exact absurd ‹_› (hframe _ _ _ _)
  · rfl

theorem cutBurn_some {w : Nat} {v : DWord} {fs : Nat} {d : List Byte} (hframe : s.aon.frame = some ⟨some (w, v), fs, d⟩) :
    cutBurn s = endBurn s w v 1 0 := by
  rw [cutBurn, hframe]

theorem exec_vaonLoss (hv : s.pins.vaon = true) :
    ∃ t, exec .vaonLoss s = .next t ∧ t.pins.vaon = false ∧ t.gbl = resetGbl ∧ t.pins.wpN = 0 ∧
      t.aon = { resetAon (cutBurn s).aon.otp with testEnSeen := (cutBurn s).aon.testEnSeen } ∧
      t.log.entries = (cutBurn s).log.entries := by
  change ∃ t, execVaonLoss s = .next t ∧ _
  rw [execVaonLoss, if_neg (by simp [hv])]
  exact ⟨_, rfl, rfl, rfl, rfl, rfl, rfl⟩

/-- A burn leaves bits of its payload in its word, beside those the word has, and the other words as they are (R672, R673). -/
theorem endBurn_otp (w : Fin 256) (v : DWord) (clocks : Nat) (failing : DWord) :
    s.aon.otp[w] &&& ~~~(endBurn s w v clocks failing).aon.otp[w] = 0 ∧
    (endBurn s w v clocks failing).aon.otp[w] &&& ~~~(s.aon.otp[w] ||| v) = 0 ∧
    ∀ i : Fin 256, i ≠ w → (endBurn s w v clocks failing).aon.otp[i] = s.aon.otp[i] := by
  have hword : ∀ x y : DWord, x &&& ~~~(x ||| v &&& y) = 0 ∧ (x ||| v &&& y) &&& ~~~(x ||| v) = 0 := by
    intro x y
    constructor <;> ext i hi <;> simp <;> grind
  have hprog : ∃ y, (endBurn s w v clocks failing).aon.otp = s.aon.otp.setIfInBounds w (s.aon.otp[w] ||| v &&& y) := by
    have hold : (s.aon.otp[w.val]?).getD 0 = s.aon.otp[w] := by simp
    unfold endBurn
    dsimp only
    rw [hold]
    split
    · exact ⟨0, by simp⟩
    · split
      · exact ⟨_, rfl⟩
      · exact ⟨_, rfl⟩
  obtain ⟨y, hy⟩ := hprog
  rw [hy]
  refine ⟨?_, ?_, fun i hi => ?_⟩
  · simpa using (hword _ y).1
  · simpa using (hword _ y).2
  · have hne : w.val ≠ i.val := fun h => hi (Fin.ext h.symm)
    simp [hne]

/-- DISAGREE and its timing are all that the comparison of the orders changes (R663). -/
theorem syncDisagree_eq (s : State) : syncDisagree s = { s with aon := { s.aon with
    disagree := (syncDisagree s).aon.disagree, disSince := (syncDisagree s).aon.disSince } } := by
  unfold syncDisagree
  split <;> rfl

end

end Sys2Proof.Machine
end

section
/-! PROOFS. The obligations about VAON and RESET_N (chapters 3, 4 and 20): POWER_ON, VAON_LOSS and RESET_ASSERT. -/

namespace Sys2Proof.Machine

/-- Settles O12: without VAON the command is the reset of everything but the OTP array, the committed log and the memories (logs 1, 19). -/
theorem powerOnResult : Obligations.PowerOnResult := by
  intro s hv
  change ∃ t, execPowerOn s = .next t ∧ _
  rw [execPowerOn, if_neg (by simp [hv])]
  exact ⟨_, rfl, rfl, rfl, rfl, rfl, rfl, rfl, rfl, rfl, rfl, rfl, rfl, rfl, rfl, rfl, rfl, rfl, rfl⟩

/-- Settles O13: the reset of the always-on logic starts from the OTP array, which a burn that is cut has left with bits of its payload. -/
theorem vaonLossResult : Obligations.VaonLossResult := by
  intro s hv
  obtain ⟨t, ht, hvaon, hgbl, hwp, haon, hlog⟩ := exec_vaonLoss hv
  refine ⟨fun f hf hno => ?_, fun w v fs d hframe => ?_⟩
  · rw [cutBurn_none (by rwa [hf])] at haon hlog
    exact ⟨t, ht, hvaon, hgbl, hwp, haon, hlog⟩
  · rw [cutBurn_some hframe] at haon
    have k := endBurn_otp (s := s) w v 1 0
    have hotp : t.aon.otp = (endBurn s w v 1 0).aon.otp := (congrArg Aon.otp haon).trans rfl
    rw [← hotp] at k
    exact ⟨t, ht, hvaon, hgbl, k⟩

/-- Settles O14: past the reset of the core the assertion changes balls and the policy, and the orders are compared anew (log 1). -/
theorem resetAssertScope : Obligations.ResetAssertScope := by
  intro s hv
  change ∃ t, execResetAssert s = .next t ∧ _
  rw [execResetAssert, if_neg (by simp [hv])]
  dsimp only
  rw [syncDisagree_eq]
  exact ⟨_, rfl, rfl, rfl, rfl, rfl, rfl, rfl, rfl, rfl, rfl, rfl, rfl, rfl, rfl, rfl, rfl, rfl, rfl, rfl, rfl, rfl, rfl⟩

end Sys2Proof.Machine
end

section
/-! SUPPORT. From t2 to t5: CORE_RELEASE, FIRMWARE_START, PROBE and BOOT_WINDOW_ENTRY past their gates (R101, R419 to R422, R670). -/

namespace Sys2Proof.Machine

/-! ### CORE_RELEASE and the PLLs (R101) -/

/-- `s` with the core out of reset: its domains in their modes of Table 4-5, and the link in training where it may train. -/
def coreReleased (s : State) (g : Fin 9) : State :=
  let n : Fin 9 := if s.aon.rails.dram2 = true ∧ s.aon.rails.dramQ = true then g else 0
  { s with
    gbl := { s.gbl with coreOn := true, dramGib := n }, doms := Vector.ofFn (fun d => idleDomain (startDomain s n.val d.val))
    pcie := if s.phb = true ∨ s.pins.perstN = false then s.pcie
      else { s.pcie with training := s.pcie.training || s.pcie.link == .down } }

section
variable {s : State} (hv : s.pins.vaon = true) (hr : s.pins.resetN = true) (hc : s.gbl.coreOn = false) (hf : s.gbl.failed = false)
include hv hr hc hf

theorem exec_coreRelease (hcore : s.pins.vddCore = true) (g : Fin 9) : exec (.coreRelease g) s =
    .next (if s.pins.pfailN then coreReleased s g else startPowerFail (coreReleased s g) 1) := by
  change execCoreRelease g s = _
  rw [execCoreRelease, if_neg (by simp [hv, hr, hc, hf, hcore])]
  extract_lets n _ s1 s2
  have hs2 : s2 = coreReleased s g := by
    have hgate : (s.phb || !s1.gbl.coreOn || !s.pins.perstN) = true ↔ s.phb = true ∨ s.pins.perstN = false := by simp [s1]
    have hn : n = if s.aon.rails.dram2 = true ∧ s.aon.rails.dramQ = true then g else 0 := by simp only [n, Bool.and_eq_true]
    change (if (s.phb || !s1.gbl.coreOn || !s.pins.perstN) = true then s1 else _) = _
    unfold coreReleased
    rw [← hn]
    by_cases h : s.phb = true ∨ s.pins.perstN = false
    · rw [if_pos (hgate.2 h), if_pos h]
    · rw [if_neg (mt hgate.1 h), if_neg h]
  rw [hs2]

/-- A PLL that has not locked fails the device with PLL_LOCK; it reports FAILED unless it is parked (R101, R396). -/
theorem exec_pllLockTimeout (hz : s.gbl.halt.cause = 0) :
    ∃ t, exec .pllLockTimeout s = .next t ∧ t.gbl.failed = true ∧ t.gbl.halt = ⟨causePllLock, 0⟩ ∧
      t.gbl.state = if s.energy.parked = true then s.gbl.state else .failed := by
  obtain ⟨hfailed, hhalt⟩ := enterFailed_first hz (cause := causePllLock) (by decide) 0 true
  exact ⟨_, if_neg (by simp [hv, hr, hc, hf]), hfailed, hhalt, enterFailed_coreOff_state hc _ _ _⟩

end

/-! ### FIRMWARE_START (R419, R669, R670) -/

theorem logSlot_reports (s : State) (f : Option FwSlot) : Reports s (logSlot s f) := by
  unfold logSlot
  split
  · split
    · exact logEvent_reports _ _ _
    · exact .refl s
  · exact .refl s

/-- A thermometer that is raised, or whose raise is due, is the always-on logic's (R669). -/
theorem thermAtStart_eq (s : State) (firmware : Bool) : thermAtStart s firmware = { s with aon := (thermAtStart s firmware).aon } := by
  unfold thermAtStart raiseTherm
  dsimp only
  repeat' split
  all_goals rfl

@[simp] theorem thermAtStart_gbl (s : State) (firmware : Bool) : (thermAtStart s firmware).gbl = s.gbl := by rw [thermAtStart_eq]
@[simp] theorem thermAtStart_sys (s : State) (firmware : Bool) : (thermAtStart s firmware).sys = s.sys := by rw [thermAtStart_eq]

/-- `s` with the slots that fail in the log, before the choice of one. -/
def slotsJudged (s : State) : State :=
  logSlot (logSlot (if s.factoryOk then s else logEvent s logFactoryCrc []) s.sys.fwA) s.sys.fwB

theorem slotsJudged_reports (s : State) : Reports s (slotsJudged s) := by
  have hfactory : Reports s (if s.factoryOk then s else logEvent s logFactoryCrc []) := by
    split
    · exact .refl s
    · exact logEvent_reports _ _ _
  exact (hfactory.trans (logSlot_reports _ _)).trans (logSlot_reports _ _)

/-- Slot B is chosen where it alone passes, and where it passes with a higher version than slot A (R670). -/
def choosesB : Option FwSlot → Option FwSlot → Bool
  | some x, some y => decide (x.version < y.version)
  | none, some _ => true
  | _, _ => false

/-- `s` once the firmware of the chosen slot runs, with what the engine tests of the hashes and of the signer found. -/
def firmwareRuns (s : State) (hashOk signOk : Bool) : State :=
  let a := slotGood s s.sys.fwA
  let b := slotGood s s.sys.fwB
  let r := slotsJudged s
  { r with sys := { r.sys with runB := choosesB a b }
           hmap := { r.hmap with key := Config.random r.free }, free := r.free + 1
           gbl := { r.gbl with fwVersion := BitVec.ofNat 16 (((if choosesB a b then b else a).map (·.version)).getD 0)
                               keyOk := signOk, sealFault := !hashOk || !signOk } }

section
variable {s : State} (hc : s.gbl.coreOn = true) (hf : s.gbl.failed = false) (hu : s.gbl.up = false) (hp : s.media.probed = false)
  (hpf : s.energy.pfSeq = false)
include hc hf hu hp hpf

theorem exec_firmwareStart_runs (h : ¬ (slotGood s s.sys.fwA = none ∧ slotGood s s.sys.fwB = none)) (hashOk signOk identityOk : Bool) :
    exec (.firmwareStart hashOk signOk identityOk) s = .next (
      if hashOk && signOk && identityOk then thermAtStart (thermAtStart (firmwareRuns s hashOk signOk) false) true
      else enterFailed (firmwareRuns s hashOk signOk) causeHwFault 0) := by
  change execFirmwareStart hashOk signOk identityOk s = _
  rw [execFirmwareStart, if_neg (by simp [hc, hf, hu, hp, hpf])]
  cases ha : slotGood s s.sys.fwA <;> cases hb : slotGood s s.sys.fwB
  · exact absurd ⟨ha, hb⟩ h
  all_goals
    simp only [firmwareRuns, ha, hb]
    split <;> rfl

theorem exec_firmwareStart_none (h : slotGood s s.sys.fwA = none ∧ slotGood s s.sys.fwB = none) (hashOk signOk identityOk : Bool) :
    exec (.firmwareStart hashOk signOk identityOk) s = .next (enterFailed (slotsJudged s) causeHwFault 0) := by
  change execFirmwareStart hashOk signOk identityOk s = _
  rw [execFirmwareStart, if_neg (by simp [hc, hf, hu, hp, hpf]), h.1, h.2]
  rfl

theorem exec_firmwareStart_good (h : ¬ (slotGood s s.sys.fwA = none ∧ slotGood s s.sys.fwB = none)) :
    ∃ t, exec (.firmwareStart true true true) s = .next t ∧ t.gbl.keyOk = true ∧ t.gbl.sealFault = false ∧ t.gbl.failed = false ∧
      t.sys.runB = choosesB (slotGood s s.sys.fwA) (slotGood s s.sys.fwB) ∧
      t.gbl.fwVersion = BitVec.ofNat 16 (((if choosesB (slotGood s s.sys.fwA) (slotGood s s.sys.fwB) then slotGood s s.sys.fwB
        else slotGood s s.sys.fwA).map (·.version)).getD 0) := by
  refine ⟨_, exec_firmwareStart_runs hc hf hu hp hpf h true true true, ?_⟩
  simp only [Bool.and_self, if_true, thermAtStart_gbl, thermAtStart_sys]
  exact ⟨rfl, rfl, (slotsJudged_reports s).failed.trans hf, rfl, rfl⟩

theorem exec_firmwareStart_fails (hz : s.gbl.halt.cause = 0) {hashOk signOk identityOk : Bool}
    (h : (slotGood s s.sys.fwA = none ∧ slotGood s s.sys.fwB = none) ∨ (hashOk && signOk && identityOk) = false) :
    ∃ t, exec (.firmwareStart hashOk signOk identityOk) s = .next t ∧ t.gbl.failed = true ∧ t.gbl.halt = ⟨causeHwFault, 0⟩ := by
  have hz1 : (slotsJudged s).gbl.halt.cause = 0 := by rw [(slotsJudged_reports s).halt, hz]
  by_cases hnone : slotGood s s.sys.fwA = none ∧ slotGood s s.sys.fwB = none
  · exact ⟨_, exec_firmwareStart_none hc hf hu hp hpf hnone _ _ _, enterFailed_first hz1 (by decide) 0 true⟩
  · have htest : (hashOk && signOk && identityOk) = false := h.resolve_left hnone
    refine ⟨_, exec_firmwareStart_runs hc hf hu hp hpf hnone hashOk signOk identityOk, ?_⟩
    rw [htest]
    exact enterFailed_first (by exact hz1) (by decide) 0 true

end

/-! ### PROBE (R420, R421) -/

theorem probeChannel_reports (s : State) (ch : Nat) (found : List (Nat × DWord)) : Reports s (probeChannel s ch found) := by
  unfold probeChannel
  split
  · exact .refl s
  · split
    · exact logEvent_reports _ _ _
    · exact Reports.foldl _ (fun r x => logEvent_reports r _ _) _ s
    · refine Reports.trans (by rfl) (Reports.foldl _ (fun r x => ?_) _ _)
      split
      · exact logEvent_reports _ _ _
      · split
        · exact .refl r
        · rfl

/-- The control stores and the Masons at the probe: the stored image in bank 0, and the candidate in bank 1 if it passes (R420, R538). -/
def storesLoaded (s : State) : Micro :=
  { s.micro with
    bank0 := s.sys.stored
    bank1 := match s.sys.candidate with
      | some u => if s.sys.stored != some u && candidateOk s u then some u else none
      | none => none
    masons := Vector.replicate 16 { resetMason with addr := BitVec.ofNat 12 (match s.sys.stored with
      | some u => (u.entry[0]?).getD 0
      | none => 0) } }

/-- `s` with its control stores loaded, once the channels of the banks that are up are probed (R421). -/
def channelsProbed (s : State) (found : List (LunId × DWord)) : State :=
  ((List.range 16).filter (fun c => s.bankUp (c / 4))).foldl (fun r c => probeChannel r c (foundOn found c))
    { s with micro := storesLoaded s }

theorem channelsProbed_reports (s : State) (found : List (LunId × DWord)) :
    Reports { s with micro := storesLoaded s } (channelsProbed s found) :=
  Reports.foldl _ (fun r c => probeChannel_reports r c _) _ _

theorem probeAll_eq (s : State) (found : List (LunId × DWord)) : probeAll s found =
    let r := channelsProbed s found
    { r with
      pins := { r.pins with wpN := r.aon.rails.bankPresent &&& ~~~r.pins.railLost }
      media := { r.media with probed := true }
      doms := Vector.ofFn (fun d => if 6 ≤ d.val && !r.media.chPresent.getLsbD (d.val - 6)
                                    then idleDomain .offUntilReset else r.doms[d])
      cal := { r.cal with req0 := r.trimUnits } } := rfl

/-- What the probe leaves: the stored image in bank 0, WP_N by the banks, channels without a LUN off until reset (R78, R97, R420). -/
theorem probeAll_result (s : State) (found : List (LunId × DWord)) :
    (probeAll s found).micro.bank0 = s.sys.stored ∧
    (probeAll s found).pins.wpN = s.aon.rails.bankPresent &&& ~~~s.pins.railLost ∧ (probeAll s found).media.probed = true ∧
    (probeAll s found).gbl.failed = s.gbl.failed ∧ (probeAll s found).gbl.halt = s.gbl.halt ∧
    ∀ d : Fin 22, 6 ≤ d.val → (probeAll s found).media.chPresent.getLsbD (d.val - 6) = false →
      (probeAll s found).doms[d].mode = .offUntilReset := by
  have k := channelsProbed_reports s found
  rw [probeAll_eq]
  dsimp only
  refine ⟨?_, ?_, rfl, k.failed, k.halt, fun d hd hch => ?_⟩
  · rw [k.micro]
    rfl
  · rw [k.aon, k.pins]
  · simp [hd, hch, idleDomain]

section
variable {s : State} (hc : s.gbl.coreOn = true) (hf : s.gbl.failed = false) (hu : s.gbl.up = false) (hp : s.media.probed = false)
  (hpf : s.energy.pfSeq = false)
include hc hf hu hp hpf

theorem exec_probe (found : List (LunId × DWord)) (mcOk : Bool) : exec (.probe found mcOk) s = .next (
    if !mcOk || s.sys.stored.isNone then enterFailed s causeHwFault 0
    else if (probeAll s found).media.luns.length < 4 then enterFailed (probeAll s found) causeTooFewLuns 0
    else probeAll s found) := by
  change execProbe found mcOk s = _
  rw [execProbe, if_neg (by simp [hc, hf, hu, hp, hpf])]
  split
  · rfl
  · split <;> rfl

end

/-! ### BOOT_WINDOW_ENTRY (R417, R422, R615, R657, R661) -/

/-- The orders of a mirror that posts none: they are acknowledged, and nothing is applied (R660, R661). -/
theorem applyOrders_none {s : State} (hch : s.aon.reqCh = 0) (hfl : s.aon.reqFlags = 0) :
    applyOrders s 0 0 = syncDisagree
      { s with aon := { s.aon with ackGen := s.aon.reqGen, effCh := 0, effFlags := 0, effGen := s.aon.reqGen } } := by
  have hfold : ∀ (l : List Nat) (r : State), l.foldl (fun r _ => r) r = r := by
    intro l r
    induction l generalizing r with
    | nil => rfl
    | cons x l ih => exact ih r
  simp [applyOrders, hch, hfl, hfold]

/-- `s` with the register file open, the policy published, and a Keystone as member 0. -/
def windowOpened (s : State) : State :=
  { s with
    gbl := { s.gbl with up := true }
    pcie := { s.pcie with crs := false }
    aon := { s.aon with policy := some s.prot.policy }
    cas := if s.keystone then { s.cas with enumerated := true, memberId := 0, depth := 0 } else s.cas }

theorem exec_bootWindowEntry {s : State} (hc : s.gbl.coreOn = true) (hf : s.gbl.failed = false) (hu : s.gbl.up = false)
    (hp : s.media.probed = true) (hpf : s.energy.pfSeq = false) :
    exec .bootWindowEntry s = .next (applyOrders (refresh (windowOpened s)) 0 0) :=
  if_neg (by simp [hc, hf, hu, hp, hpf])

/-- With no order posted the device is in its boot window, and reports so unless it is parked (R396). -/
theorem applyOrders_windowOpened {s : State} (hf : s.gbl.failed = false) (hv : s.pins.vaon = true) (hr : s.pins.resetN = true)
    (hh : s.gbl.halted = false) (hl : s.gbl.lock = false) (hch : s.aon.reqCh = 0) (hfl : s.aon.reqFlags = 0) :
    (applyOrders (refresh (windowOpened s)) 0 0).gbl.state = if s.energy.parked = true then s.gbl.state else .bootWindow := by
  have hstate : (windowOpened s).stateNow = .bootWindow := by simp [State.stateNow, windowOpened, hf, hv, hr, hh, hl]
  rw [applyOrders_none (by rw [refresh_aon]; exact hch) (by rw [refresh_aon]; exact hfl), syncDisagree_eq]
  show (refresh (windowOpened s)).gbl.state = _
  rw [refresh_state, hstate]
  rfl

end Sys2Proof.Machine
end

section
/-! PROOFS. The obligations about start-up from t2 to t5 (chapter 13). O18 and O21 fail in one clause each: a device that is parked keeps the
state it reports (R396), and the two quantify over parked states too. What holds of every state is proved beside each refutation:
`exec_coreRelease` and `exec_pllLockTimeout`, `exec_bootWindowEntry` and `applyOrders_windowOpened`. -/

namespace Sys2Proof.Machine

/-- Refutes O18: a parked device whose PLL has not locked enters FAILED and still reports the state it had. -/
theorem not_coreReleaseResult : ¬ Obligations.CoreReleaseResult := by
  intro h
  obtain ⟨t, ht, -, hstate, -⟩ := (h (parkedCoreOff true) rfl rfl rfl rfl).2 rfl
  obtain ⟨u, hu, -, -, hparked⟩ := exec_pllLockTimeout (s := parkedCoreOff true) rfl rfl rfl rfl rfl
  obtain rfl : t = u := Host.Outcome.next.inj (ht.symm.trans hu)
  exact absurd (hstate.symm.trans hparked) (by decide)

/-- Settles O19: the newer of two good slots is the one with the higher version; a failed slot or engine test only fails the device (log 19
for the order of the checks). -/
theorem firmwareStartResult : Obligations.FirmwareStartResult := by
  intro s hc hf hu hp hpf
  refine ⟨fun a b ha hb => ?_, fun a ha hb => ?_, fun b ha hb => ?_, fun h k d hz => exec_firmwareStart_fails hc hf hu hp hpf hz⟩
  · obtain ⟨t, ht, hkey, hseal, hfailed, -, hversion⟩ := exec_firmwareStart_good hc hf hu hp hpf (by simp [ha])
    refine ⟨t, ht, ?_, hkey, hseal, hfailed⟩
    rw [hversion, ha, hb]
    by_cases hlt : a.version < b.version
    · simp [choosesB, hlt, Nat.max_eq_right (Nat.le_of_lt hlt)]
    · simp [choosesB, hlt, Nat.max_eq_left (Nat.le_of_not_lt hlt)]
  · obtain ⟨t, ht, -, -, -, hrun, hversion⟩ := exec_firmwareStart_good hc hf hu hp hpf (by simp [ha])
    rw [ha, hb] at hrun hversion
    exact ⟨t, ht, hversion, hrun⟩
  · obtain ⟨t, ht, -, -, -, hrun, hversion⟩ := exec_firmwareStart_good hc hf hu hp hpf (by simp [hb])
    rw [ha, hb] at hrun hversion
    exact ⟨t, ht, hversion, hrun⟩

/-- Settles O20: PROBE by its checks; what it leaves of a good device is `probeAll` (log 19). -/
theorem probeResult : Obligations.ProbeResult := by
  intro s found mcOk hc hf hu hp hpf
  have hexec := exec_probe hc hf hu hp hpf found mcOk
  obtain ⟨hbank, hwp, hprobed, hfailed, hhalt, hdoms⟩ := probeAll_result s found
  refine ⟨fun hok hstored hluns => ?_, fun hz hbad => ?_, fun hz hok hstored hluns => ?_⟩
  · rw [if_neg (by simp [hok, hstored]), if_neg (by omega)] at hexec
    exact ⟨_, hexec, rfl, hbank, hwp, hprobed, hfailed.trans hf, hdoms⟩
  · rw [if_pos (by simpa using hbad)] at hexec
    exact ⟨_, hexec, enterFailed_first hz (by decide) 0 true⟩
  · rw [if_neg (by simp [hok, hstored]), if_pos hluns] at hexec
    exact ⟨_, hexec, enterFailed_first (by rw [hhalt, hz]) (by decide) 0 true⟩

/-- A device at t4 that is parked outside any power-fail sequence: the counterexample to O21. A park stands at the end of a sequence, so no
run from the reset state comes here; the statement does not leave it out. -/
def parkedProbed : State :=
  { State.reset with pins := { resetPins with vaon := true, resetN := true }, gbl := { resetGbl with state := .aonReady, coreOn := true }
                     media := { blankMedia with probed := true }, energy := { resetEnergy with parked := true } }

/-- Refutes O21: the boot window opens for a parked device, which still reports AON_READY (R396). -/
theorem not_bootWindowEntryResult : ¬ Obligations.BootWindowEntryResult := by
  intro h
  obtain ⟨t, ht, -, hstate, -⟩ := (h parkedProbed rfl rfl rfl rfl rfl).2 rfl rfl rfl rfl rfl rfl
  have hexec := exec_bootWindowEntry (s := parkedProbed) rfl rfl rfl rfl rfl
  obtain rfl : t = applyOrders (refresh (windowOpened parkedProbed)) 0 0 := Host.Outcome.next.inj (ht.symm.trans hexec)
  have hready : _ = DevState.aonReady := applyOrders_windowOpened (s := parkedProbed) rfl rfl rfl rfl rfl rfl rfl
  exact absurd (hstate.symm.trans hready) (by decide)

end Sys2Proof.Machine
end

section
/-! SUPPORT. From t6 to full service: RECOVERY_START, FOOTING_CHECK, RECOVERED, FULL_SERVICE, FOOTING_REBUILD and AUTO_LOCK past their
gates (R320, R418, R428 to R436, R491). -/

namespace Sys2Proof.Machine

/-! ### RECOVERY_START (R418, R431, R436, R686) -/

/-- An entry that was held joins the log with this boot's counter. -/
def addHeld (s : State) (e : LogEntry) : State := setIrq { s with log := s.log.add { e with boot := s.bootNow } } irqLog

theorem writeHeld_eq (s : State) : writeHeld s =
    (s.log.held.foldl (fun es e => insertEntry e es) []).foldl addHeld { s with log := { s.log with held := [] } } := rfl

theorem addHeld_reports (s : State) (e : LogEntry) : Reports s (addHeld s e) :=
  Reports.trans (t := { s with log := s.log.add { e with boot := s.bootNow } }) rfl (setIrq_reports _ _)

@[simp] theorem addHeld_media (s : State) (e : LogEntry) : (addHeld s e).media = s.media := setIrq_media _ _
@[simp] theorem addHeld_log_held (s : State) (e : LogEntry) : (addHeld s e).log.held = s.log.held := by
  simp [addHeld, Log.add, bumpGen]

theorem writeHeld_reports (s : State) : Reports s (writeHeld s) := by
  rw [writeHeld_eq]
  exact Reports.trans (t := { s with log := { s.log with held := [] } }) rfl (Reports.foldl addHeld addHeld_reports _ _)

/-- The entries held are written, so that none is held, and the media stay (R686). -/
theorem writeHeld_log (s : State) : (writeHeld s).log.held = [] ∧ (writeHeld s).media = s.media := by
  have hfold : ∀ (l : List LogEntry) (r : State),
      (l.foldl addHeld r).log.held = r.log.held ∧ (l.foldl addHeld r).media = r.media := by
    intro l
    induction l with
    | nil => exact fun r => ⟨rfl, rfl⟩
    | cons e l ih =>
      intro r
      obtain ⟨hheld, hmedia⟩ := ih (addHeld r e)
      exact ⟨hheld.trans (addHeld_log_held r e), hmedia.trans (addHeld_media r e)⟩
  rw [writeHeld_eq]
  exact hfold _ _

/-- A request for calibration notes its kind and the units, and no more (R192). -/
theorem requestCal_eq (s : State) (kind : Nat) (us : List Nat) :
    requestCal s kind us = { noteGen s 7 with cal := (requestCal s kind us).cal } := by
  unfold requestCal
  dsimp only
  repeat' split
  all_goals rfl

theorem requestKind_keeps (s : State) (kind : Nat) :
    (requestKind s kind).sys = s.sys ∧ (requestKind s kind).gbl = s.gbl ∧ (requestKind s kind).log.held = s.log.held := by
  unfold requestKind
  split
  · exact ⟨rfl, rfl, rfl⟩
  · rw [requestCal_eq]
    exact ⟨rfl, rfl, rfl⟩

/-- `s` on its own media at t6: the boot counter advances, lost dies are noted, and the entries held are written (R431, R458, R686). -/
def recoveryBegun (s : State) : State :=
  let r := { s with
    sys := { s.sys with t6 := true, bootStored := s.sys.bootStored + 1, boot := s.sys.bootStored + 1 }
    gbl := { s.gbl with roEol := s.sys.eol }
    energy := { s.energy with needCal := s.energy.needCal || (s.energy.pfRan && match s.energy.summary with
      | some x => decide (0 < x.short)
      | none => true) } }
  writeHeld { r with media := { r.media with relocating := missingLuns r } }

theorem recoveryBegun_result (s : State) :
    (recoveryBegun s).sys = { s.sys with t6 := true, bootStored := s.sys.bootStored + 1, boot := s.sys.bootStored + 1 } ∧
    (recoveryBegun s).gbl.recovered = s.gbl.recovered ∧ (recoveryBegun s).log.held = [] :=
  ⟨(writeHeld_reports _).sys, (writeHeld_reports _).recovered, (writeHeld_log _).1⟩

/-- What `s` has in hand once RECOVERY_START has read a system area: the entries held are written and the state is reported. -/
def recoveryReported (s : State) : State := setSafe (refresh (writeHeld s))

theorem setSafe_eq (s : State) : setSafe s = { s with pins := (setSafe s).pins } := by
  unfold setSafe
  split <;> rfl

theorem recoveryReported_result (s : State) :
    (recoveryReported s).sys = s.sys ∧ (recoveryReported s).gbl.recovered = s.gbl.recovered ∧ (recoveryReported s).parts = s.parts ∧
    (recoveryReported s).media.foreign = s.media.foreign ∧ (recoveryReported s).log.held = [] := by
  have k := (writeHeld_reports s).trans (refresh_reports _)
  obtain ⟨hheld, hmedia⟩ := writeHeld_log s
  unfold recoveryReported
  rw [setSafe_eq]
  refine ⟨k.sys, k.recovered, k.parts, ?_, (refresh_log_held _).trans hheld⟩
  show (refresh (writeHeld s)).media.foreign = _
  rw [refresh_media, hmedia]

section
variable {s : State} (hu : s.gbl.up = true) (hf : s.gbl.failed = false) (ht6 : s.sys.t6 = false) (hpf : s.energy.pfSeq = false)
include hu hf ht6 hpf

theorem exec_recoveryStart_blank (hblank : s.sys.present = false) : exec .recoveryStart s = .next (recoveryReported
    (let r := newSystemArea { s with sys := { s.sys with t6 := true } }
     { r with gbl := { r.gbl with recovered := true } })) := by
  change execRecoveryStart s = _
  rw [execRecoveryStart, if_neg (by simp [hu, hf, ht6, hpf]), if_pos (by simp [hblank])]
  rfl

theorem exec_recoveryStart_foreign (hpresent : s.sys.present = true) (howner : s.sys.owner ≠ s.serial) :
    exec .recoveryStart s = .next (recoveryReported { s with
      sys := { s.sys with t6 := true }, media := { s.media with foreign := true }, gbl := { s.gbl with recovered := true } }) := by
  change execRecoveryStart s = _
  rw [execRecoveryStart, if_neg (by simp [hu, hf, ht6, hpf]), if_neg (by simp [hpresent]), if_pos (by simpa using howner)]
  rfl

theorem exec_recoveryStart_own (hpresent : s.sys.present = true) (howner : s.sys.owner = s.serial) :
    exec .recoveryStart s = .next (setSafe (refresh
      (if (recoveryBegun s).energy.needCal then requestKind (recoveryBegun s) 2 else recoveryBegun s))) := by
  change execRecoveryStart s = _
  rw [execRecoveryStart, if_neg (by simp [hu, hf, ht6, hpf]), if_neg (by simp [hpresent]), if_neg (by simp [howner])]
  rfl

/-- The media are this device's own: the boot counter advances, the entries held are written, and recovery begins. -/
theorem exec_recoveryStart_own_result (hpresent : s.sys.present = true) (howner : s.sys.owner = s.serial) :
    ∃ t, exec .recoveryStart s = .next t ∧ t.sys.t6 = true ∧ t.sys.bootStored = s.sys.bootStored + 1 ∧
      t.sys.boot = s.sys.bootStored + 1 ∧ t.gbl.recovered = s.gbl.recovered ∧ t.log.held = [] := by
  obtain ⟨hsys, hrec, hheld⟩ := recoveryBegun_result s
  obtain ⟨r, hr, rsys, rgbl, rheld⟩ : ∃ r : State,
      (if (recoveryBegun s).energy.needCal then requestKind (recoveryBegun s) 2 else recoveryBegun s) = r ∧
      r.sys = (recoveryBegun s).sys ∧ r.gbl = (recoveryBegun s).gbl ∧ r.log.held = (recoveryBegun s).log.held := by
    refine ⟨_, rfl, ?_⟩
    split
    · exact requestKind_keeps _ 2
    · exact ⟨rfl, rfl, rfl⟩
  have k := refresh_reports r
  refine ⟨_, exec_recoveryStart_own hu hf ht6 hpf hpresent howner, ?_⟩
  rw [hr, setSafe_eq]
  dsimp only
  rw [k.sys, k.recovered, refresh_log_held, rsys, rgbl, rheld, hsys, hrec, hheld]
  exact ⟨rfl, rfl, rfl, rfl, rfl⟩

end

/-! ### FOOTING_CHECK and RECOVERED (R428, R429, R431, R450) -/

section
variable {s : State}

/-- The cases in which the device opens no Footing (R429). -/
def footingRefused (s : State) (descOk : Bool) (dropped : List Nat) : Bool :=
  s.media.foreign || s.readOnlyCond || !descOk || s.sys.fMax == 0 || s.footErased dropped == 0 ||
    !(s.parts.any (fun p => p.2.isStream))

theorem exec_footingCheck (ht6 : s.sys.t6 = true) (hd : s.media.footDecided = false) (hs : s.stopped = false)
    (hfull : s.gbl.fullService = false) (hpf : s.energy.pfSeq = false) (descOk : Bool) (written : List (LunId × Nat)) :
    let dropped := (written.map (fun b => blkKey (lunKey b.1) b.2)).filter s.footBlocks.contains
    exec (.footingCheck descOk written) s = .next (
      if footingRefused s descOk dropped then { s with media := { s.media with footDecided := true, footDropped := dropped } }
      else { s with
        gbl := { s.gbl with footingOpen := true }
        media := { s.media with footDecided := true, footDropped := dropped, footMib := min (s.footErased dropped) s.footTarget
                                footFree := min (s.footErased dropped) s.footTarget * 1048576 } }) := by
  change execFootingCheck descOk written s = _
  rw [execFootingCheck, if_neg (by simp [ht6, hd, hs, hfull, hpf])]
  extract_lets dropped
  by_cases h : footingRefused s descOk dropped = true
  · rw [if_pos h]
    exact if_pos h
  · rw [if_neg h]
    exact if_neg h

theorem exec_recovered (ht6 : s.sys.t6 = true) (hr : s.gbl.recovered = false) (hf : s.gbl.failed = false)
    (hpf : s.energy.pfSeq = false) (hforeign : s.media.foreign = false) (plinthOk : Bool) (scanned : Nat) :
    let r := writePlinth (clearLoss (reportWithdrawn (reportPowerFail (reportLostAck
      (replayAll (if plinthOk then s else logEvent s logPlinthLost [(0, 8, scanned)]) false true)))))
    let t := refresh { r with gbl := { r.gbl with recovered := true } }
    exec (.recovered plinthOk scanned) s = .next (settle (if t.gbl.halted then sealOpen t afHalt cfHalt else t)) :=
  if_neg (by simp [ht6, hr, hf, hpf, hforeign])

end

/-! ### FULL_SERVICE, FOOTING_REBUILD and AUTO_LOCK (R171, R434, R491) -/

theorem setBlk_reports (s : State) (k : Nat) (u : BlkUse) : Reports s (setBlk s k u) := rfl

theorem emptyFooting_reports (s : State) (id : Nat) : Reports s (emptyFooting s id) := by
  unfold emptyFooting
  split
  · exact .refl s
  · refine Reports.trans (Reports.foldl _ (fun r k => ?_) _ s) (modMedia_reports _ _)
    split
    · exact setBlk_reports _ _ _
    · exact .refl r

/-- The Footing absorbed: no Course of it is left, no stream is in it, and nothing else but the logs follows (R434). -/
theorem absorbFooting_result (s : State) :
    (absorbFooting s).gbl.fullService = s.gbl.fullService ∧ (absorbFooting s).gbl.footingOpen = s.gbl.footingOpen ∧
    (absorbFooting s).queues = s.queues ∧ (∀ c ∈ (absorbFooting s).media.courses, c.2.role ≠ .footing) ∧
    ∀ x ∈ (absorbFooting s).streams.tbl, x.2.inFooting = false := by
  unfold absorbFooting
  extract_lets empty s0 s1
  have k : Reports s s1 := by
    refine Reports.trans (Reports.trans (Reports.foldl _ emptyFooting_reports _ s) (Reports.foldl _ (fun r k => ?_) _ _)) (modMedia_reports _ _)
    split
    · exact setBlk_reports _ _ _
    · exact .refl r
  refine ⟨?_, ?_, k.queues, fun c hc => ?_, fun x hx => ?_⟩
  · rw [k.gbl]
  · rw [k.gbl]
  · simp only [tmap, List.mem_map] at hc
    obtain ⟨y, -, rfl⟩ := hc
    by_cases hrole : y.2.role = .footing
    · simp [hrole]
    · simp [hrole]
  · simp only [tmap, List.mem_map] at hx
    obtain ⟨y, -, rfl⟩ := hx
    rfl

theorem exec_fullService {s : State} (hl : s.gbl.lock = true) (hr : s.gbl.recovered = true) (hfull : s.gbl.fullService = false)
    (hs : s.stopped = false) (hpf : s.energy.pfSeq = false) :
    ∃ t, exec .fullService s = .next t ∧ t.gbl.fullService = true ∧ t.gbl.footingOpen = false ∧
      (∀ c ∈ t.media.courses, c.2.role ≠ .footing) ∧ (∀ x ∈ t.streams.tbl, x.2.inFooting = false) ∧ t.queues = s.queues := by
  change ∃ t, execFullService s = .next t ∧ _
  rw [execFullService, if_neg (by simp [hl, hr, hfull, hs, hpf])]
  extract_lets lvl _ _ s1 _ s2
  obtain ⟨kfull, kopen, kqueues, kcourses, kstreams⟩ := absorbFooting_result { s with
    gbl := { s.gbl with fullService := true, footingOpen := false }, sys := { s.sys with fwLevel := max s.sys.fwLevel lvl } }
  have hs2 : s2.gbl = s1.gbl ∧ s2.media = s1.media ∧ s2.streams = s1.streams ∧ s2.queues = s1.queues := by
    unfold s2
    split <;> exact ⟨rfl, rfl, rfl, rfl⟩
  obtain ⟨hgbl, hmedia, hstreams, hqueues⟩ := hs2
  have k := refresh_reports s2
  refine ⟨_, rfl, ?_, ?_, fun c hc => ?_, fun x hx => ?_, k.queues.trans (hqueues.trans kqueues)⟩
  · rw [k.gbl]
    exact (congrArg Gbl.fullService hgbl).trans kfull
  · rw [k.gbl]
    exact (congrArg Gbl.footingOpen hgbl).trans kopen
  · rw [refresh_media, hmedia] at hc
    exact kcourses c hc
  · rw [k.streams, hstreams] at hx
    exact kstreams x hx

theorem exec_footingRebuild {s : State} (hfull : s.gbl.fullService = true) (hforeign : s.media.foreign = false)
    (hstream : s.parts.any (fun p => p.2.isStream) = true) (hpf : s.energy.pfSeq = false) (hs : s.stopped = false) :
    let n := s.footBlocksFor s.footTarget
    let r := takeFooting n n s
    let mib := min r.footTarget (r.footMibOf r.footBlocks.length)
    exec .footingRebuild s = .next { r with media := { r.media with footMib := mib, footFree := mib * 1048576 } } :=
  if_neg (by simp [hfull, hforeign, hstream, hpf, hs])

/-- While host writes need blocks and the Quarry holds fewer than Q_LOW the rebuild takes none (R491). -/
theorem takeFooting_waits {s : State} (hneeds : s.hostNeeds = true) (hlow : s.quarry < s.qLow) (want n : Nat) :
    takeFooting want n s = s := by
  cases n with
  | zero => rfl
  | succ n => exact if_pos (by simp [hneeds, hlow])

theorem exec_autoLock {s : State} (hc : s.gbl.coreOn = true) (hl : s.gbl.lock = false) :
    exec .autoLock s = .next (refresh (logEvent { s with gbl := { s.gbl with lock := true, auto := true } } logAutoLock
      [(0, 4, s.windowMs)])) :=
  if_neg (by simp [hc, hl])

end Sys2Proof.Machine
end

section
/-! SUPPORT. Rails of the banks and presence of the cascade ports (R96, R115, R459, R608, R633). -/

namespace Sys2Proof.Machine

@[simp] theorem withdrawSwitch_media (s : State) (c : Fin 16) (reason : Nat) : (withdrawSwitch s c reason).media = s.media := by
  unfold withdrawSwitch
  dsimp only
  repeat' split
  all_goals simp

@[simp] theorem commitCandidate_media (s : State) : (commitCandidate s).media = s.media := by
  unfold commitCandidate
  dsimp only
  repeat' split
  all_goals rfl

theorem putBit_getLsbD_self {w : Nat} (v : BitVec w) {i : Nat} (h : i < w) : (putBit v i true).getLsbD i = true := by
  rw [putBit, if_pos rfl, BitVec.getLsbD_or, BitVec.getLsbD_ofNat, Nat.testBit_two_pow_self]
  simp [h]

/-- A channel that has a LUN is offline once it is taken offline (R459). -/
theorem takeOffline_offline {s : State} {c : Nat} (hc : c < 16) (hpresent : s.media.chPresent.getLsbD c = true) (why : Nat) :
    (takeOffline s c why).media.offline.getLsbD c = true := by
  unfold takeOffline
  by_cases h : s.media.offline.getLsbD c = true
  · rw [if_pos (by simp [h])]
    exact h
  · rw [if_neg (by simp [h, hpresent])]
    dsimp only
    rw [refresh_media]
    simp [modMedia, putBit_getLsbD_self _ hc]

theorem exec_railLoss {s : State} (hc : s.gbl.coreOn = true) {b : Fin 4} (hb : s.aon.rails.bankPresent.getLsbD b.val = true) :
    let r : State := { s with pins := { s.pins with railLost := putBit s.pins.railLost b.val true } }
    exec (.railLoss b) s = .next (if s.gbl.failed = true then r else takeOffline (takeOffline (takeOffline (takeOffline r
      (4 * b.val) 1) (4 * b.val + 1) 1) (4 * b.val + 2) 1) (4 * b.val + 3) 1) :=
  if_neg (by simp [hc, hb])

theorem exec_presenceChange_noRail {s : State} (hcas : s.aon.rails.cas = false) (p : BitVec 3) :
    exec (.presenceChange p) s = .next { s with pins := { s.pins with present := p } } :=
  if_pos (by simp [hcas])

/-- PE_WAKE_N under a condition, as an update of its ball. -/
theorem assertWake_ite_eq (c : Prop) [Decidable c] (s : State) : (if c then assertWake s else s) = { s with pins := { s.pins with
    wake := if c then (if s.phb = true ∨ s.pins.resetN = false then s.pins.wake else true) else s.pins.wake } } := by
  split
  · exact assertWake_eq s
  · rfl

theorem exec_presenceChange {s : State} (hc : s.gbl.coreOn = true) (hcas : s.aon.rails.cas = true) {p : BitVec 3}
    (hp : p ≠ s.pins.present) :
    ∃ t, exec (.presenceChange p) s = .next t ∧ t.pins.present = p ∧
      t.cas.event = s.cas.event ||| (s.pins.present ^^^ p).zeroExtend 8 ∧ t.gbl.irqStatus.getLsbD 8 = true ∧
      (s.phb = false → s.pins.resetN = true → p &&& ~~~s.pins.present ≠ 0 → t.pins.wake = true) ∧
      ∀ i : Fin 3, (s.pins.present ^^^ p).getLsbD i.val = false → t.cas.ports[i] = s.cas.ports[i] := by
  have hchg : s.pins.present ^^^ p ≠ 0 := fun h => hp (BitVec.xor_eq_zero_iff.1 h).symm
  change ∃ t, execPresenceChange p s = .next t ∧ _
  rw [execPresenceChange]
  dsimp only
  rw [if_neg (by rw [hc, hcas]; simpa using hchg), setIrq_eq, wakeDomain_eq, assertWake_ite_eq]
  refine ⟨_, rfl, rfl, rfl, by simp [irqCascade], fun hphb hr hgain => ?_, fun i hi => ?_⟩
  · show (if _ then (if s.phb = true ∨ s.pins.resetN = false then _ else true) else _) = true
    rw [if_pos hgain, if_neg (by simp [hphb, hr])]
  · show (Vector.ofFn _)[i] = _
    rw [Fin.getElem_fin, Vector.getElem_ofFn]
    exact if_pos (by rw [hi]; rfl)

end Sys2Proof.Machine
end

section
/-! PROOFS. The obligations about start-up from t6 to full service, and about rails and presence (chapters 4, 13 and 19). -/

namespace Sys2Proof.Machine

/-- Settles O22: each kind of media by its own way through RECOVERY_START. -/
theorem recoveryStartResult : Obligations.RecoveryStartResult := by
  refine fun s hu hf ht6 hpf => ⟨fun hp ho => exec_recoveryStart_own_result hu hf ht6 hpf hp ho, fun hp ho => ?_, fun hp => ?_⟩
  · refine ⟨_, exec_recoveryStart_foreign hu hf ht6 hpf hp ho, ?_⟩
    obtain ⟨hsys, hrec, -, hforeign, -⟩ := recoveryReported_result { s with
      sys := { s.sys with t6 := true }, media := { s.media with foreign := true }, gbl := { s.gbl with recovered := true } }
    rw [hsys, hrec, hforeign]
    exact ⟨rfl, rfl, rfl, rfl⟩
  · refine ⟨_, exec_recoveryStart_blank hu hf ht6 hpf hp, ?_⟩
    obtain ⟨hsys, hrec, hparts, -, -⟩ := recoveryReported_result
      (let r := newSystemArea { s with sys := { s.sys with t6 := true } }
       { r with gbl := { r.gbl with recovered := true } })
    rw [hsys, hrec, hparts]
    exact ⟨rfl, rfl, rfl, rfl, rfl, rfl⟩

/-- Settles O23: the check refuses in the cases of R429 alone, and RECOVERED takes the steps of R431 in their order (log 25). -/
theorem footingAndRecoveryResult : Obligations.FootingAndRecoveryResult := by
  refine ⟨fun s descOk written ht6 hd hs hfull hpf => ⟨fun h => ?_, fun h1 h2 h3 h4 h5 h6 => ?_⟩,
    fun s plinthOk scanned ht6 hr hf hpf hforeign => exec_recovered ht6 hr hf hpf hforeign plinthOk scanned⟩
  · rw [exec_footingCheck ht6 hd hs hfull hpf, if_pos]
    simpa [footingRefused, State.footErased, or_assoc] using h
  · rw [exec_footingCheck ht6 hd hs hfull hpf, if_neg]
    · rfl
    · simp_all [footingRefused, State.footErased]

/-- Settles O24: the Footing is absorbed, the rebuild waits for host writes before its first block, and the lock is one logged event
(log 23). -/
theorem fullServiceResult : Obligations.FullServiceResult := by
  refine fun s => ⟨exec_fullService, fun hfull hforeign hstream hpf hs =>
    ⟨exec_footingRebuild hfull hforeign hstream hpf hs, fun hneeds hlow => takeFooting_waits hneeds hlow _ _⟩, fun hc hl => ?_⟩
  have k := (logEvent_reports { s with gbl := { s.gbl with lock := true, auto := true } } logAutoLock [(0, 4, s.windowMs)]).trans
    (refresh_reports _)
  refine ⟨_, exec_autoLock hc hl, by rw [k.gbl], by rw [k.gbl], fun ht6 _ hpf => ?_⟩
  rw [refresh_log_entries]
  exact logEvent_entry (s := { s with gbl := { s.gbl with lock := true, auto := true } }) hc hpf ht6 _ _

/-- Settles O32: a lost rail takes the bank's channels offline one after another; presence sets its event and wakes the host at a gain. -/
theorem railsAndPresenceResult : Obligations.RailsAndPresenceResult :=
  ⟨fun _ _ hc hb => exec_railLoss hc hb, fun _ _ why hc hpresent => takeOffline_offline hc hpresent why,
    fun _ _ hc hcas hp => exec_presenceChange hc hcas hp, fun _ p hcas => exec_presenceChange_noRail hcas p⟩

end Sys2Proof.Machine
end

section
/-! SUPPORT. The admin commands of images, calibration, the Host Map Store, the self test and the cascade past the gate of a ready entry,
case by case (R327, R510, R535 to R537, R568, R616, R621, R670, R692). -/

namespace Sys2Proof.Machine

theorem imageBytes_gathered {s : State} {b : Bus} {j : Job} (hsgl : j.sglErr = false) {img : List Byte}
    (hd : gather s b j.segs = some img) : imageBytes s b j = some img := by
  simp [imageBytes, hsgl, hd]

/-! ### LOAD_PROFILE (R510) -/

section
variable {s : State} {c : Word} (b : Bus) {j : Job} (hj : adminJob s c opLoadProfile = some j)
include hj

theorem exec_loadProfile_length (hlen : eLen j.bytes ≠ 512) :
    exec (.loadProfile c b) s = .next (refuseImage s j 3 1 scOutOfRange) := by
  change execLoadProfile c b s = _
  simp [execLoadProfile, hj, hlen]

variable {img : List Byte} (hlen : eLen j.bytes = 512) (hsgl : j.sglErr = false) (hd : gather (absorbBus s b) b j.segs = some img)
include hlen hsgl hd

theorem exec_loadProfile_refused {row st : Nat} (h : profileCheck (absorbBus s b) (bitOf (eAttr j.bytes) 0) img = some (row, st)) :
    exec (.loadProfile c b) s = .next (refuseImage (absorbBus s b) j 3 row st) := by
  change execLoadProfile c b s = _
  simp [execLoadProfile, hj, hlen, imageBytes_gathered hsgl hd, h]

/-- A good profile is stored where PERSIST asks for it. -/
theorem exec_loadProfile_good (h : profileCheck (absorbBus s b) (bitOf (eAttr j.bytes) 0) img = none) :
    let s0 := absorbBus s b
    exec (.loadProfile c b) s = .next (
      if bitOf (eAttr j.bytes) 0 then finishSaved { s0 with sys := { s0.sys with
        profiles := s0.sys.profiles.filter (fun q => pfId q != pfId img) ++ [img] } } j (pfId img)
      else finishOk s0 j (pfId img)) := by
  change execLoadProfile c b s = _
  cases hpersist : bitOf (eAttr j.bytes) 0 <;> rw [hpersist] at h <;>
    simp [execLoadProfile, hj, hlen, imageBytes_gathered hsgl hd, hpersist, h]

end

/-! ### LOAD_MICROCODE (R173, R423, R536, R537) -/

section
variable {s : State} {c : Word} (b : Bus) {j : Job} (hj : adminJob s c opLoadMicrocode = some j)
include hj

theorem exec_loadMicrocode_denied (hwindow : j.window = false) (hpolicy : s.prot.policy.getLsbD 5 = false) :
    exec (.loadMicrocode c b) s = .next (refuseImage s j 2 1 scAccessDenied) := by
  change execLoadMicrocode c b s = _
  simp only [execLoadMicrocode, hj, hwindow, hpolicy, Bool.not_false, Bool.and_self, if_true]

theorem exec_loadMicrocode_judged {img : List Byte} (hallowed : j.window = true ∨ s.prot.policy.getLsbD 5 = true)
    (hlow : 340 ≤ eLen j.bytes) (hhigh : eLen j.bytes ≤ maxXfer) (hsgl : j.sglErr = false)
    (hd : gather (absorbBus s b) b j.segs = some img) :
    let s0 := absorbBus s b
    exec (.loadMicrocode c b) s = .next (match ucodeCheck s0 img with
      | some (row, st) => refuseImage s0 j 2 row st
      | none => finishSaved (loadStandby s0 (imgUcode img)) j (imgUcode img).version) := by
  have hgate : ¬ (!j.window && !s.prot.policy.getLsbD 5) = true := by rcases hallowed with h | h <;> simp [h]
  change execLoadMicrocode c b s = _
  simp only [execLoadMicrocode, hj, if_neg hgate, if_neg hlow.not_gt, if_neg hhigh.not_gt, imageBytes_gathered hsgl hd]
  cases ucodeCheck (absorbBus s b) img <;> rfl

end

/-! ### COMMIT_FIRMWARE (R173, R423, R670) -/

section
variable {s : State} {c : Word} (b : Bus) {j : Job} (hj : adminJob s c opCommitFirmware = some j)
include hj

theorem exec_commitFirmware_denied (hwindow : j.window = false) (hpolicy : s.prot.policy.getLsbD 6 = false) :
    exec (.commitFirmware c b) s = .next (refuseImage s j 1 1 scAccessDenied) := by
  change execCommitFirmware c b s = _
  simp only [execCommitFirmware, hj, hwindow, hpolicy, Bool.not_false, Bool.and_self, if_true]

/-- An image that passes is written over the slot not running. -/
theorem exec_commitFirmware_judged {img : List Byte} (hallowed : j.window = true ∨ s.prot.policy.getLsbD 6 = true)
    (hlen : eLen j.bytes ≤ maxXfer) (hfirst : earlierRuns s j opCommitFirmware = false) (hsgl : j.sglErr = false)
    (hd : gather (absorbBus s b) b j.segs = some img) :
    let s0 := absorbBus s b
    let slot : Option FwSlot := some ⟨fieldAt img 12 2, fieldAt img 14 1, true⟩
    exec (.commitFirmware c b) s = .next (
      if imageSigned Config.firmwareKey img = false then refuseImage s0 j 1 2 scAccessDenied
      else if fieldAt img 14 1 < s0.fwTherm then refuseImage s0 j 1 3 scAccessDenied
      else if fwHeaderOk img = false then refuseImage s0 j 1 4 scOutOfRange
      else finishSaved { s0 with
        sys := if s0.sys.runB then { s0.sys with fwA := slot } else { s0.sys with fwB := slot } } j (fieldAt img 12 2)) := by
  have hgate : ¬ (!j.window && !s.prot.policy.getLsbD 6) = true := by rcases hallowed with h | h <;> simp [h]
  change execCommitFirmware c b s = _
  simp only [execCommitFirmware, hj, if_neg hgate, if_neg hlen.not_gt, hfirst, Bool.false_eq_true, if_false,
    imageBytes_gathered hsgl hd, Bool.not_eq_true']
  split
  · rfl
  · split
    · rfl
    · split <;> rfl

end

/-! ### START_CALIBRATION (R568) -/

theorem exec_startCalibration {s : State} {c : Word} {j : Job} (hj : adminJob s c opStartCalibration = some j) :
    exec (.startCalibration c) s =
      .next (settle (setJob ((bitList 3 (eAttr j.bytes)).foldl requestKind s) { j with phase := .calibrating })) := by
  change execStartCalibration c s = _
  simp only [execStartCalibration, hj]

/-! ### The Host Map Store (R327, R330, R346) -/

section
variable {s : State} {c : Word} (b : Bus) {j : Job} (hj : adminJob s c opAttachMapStore = some j) (hfull : s.gbl.fullService = true)
include hj hfull

theorem exec_attachMapStore_phb (hphb : s.phb = true) : exec (.attachMapStore c b) s = .next (finishWith s j scOutOfRange) := by
  change execAttachMapStore c b s = _
  simp [execAttachMapStore, hj, hfull, hphb]

variable {img : List Byte} (hphb : s.phb = false) (hsome : eLen j.bytes ≠ 0) (hlen : eLen j.bytes ≤ 64) (hsgl : j.sglErr = false)
  (hd : gather (absorbBus s b) b j.segs = some img)
include hphb hsome hlen hsgl hd

theorem exec_attachMapStore_badRegions (hes : regionsOk ((List.range (eLen j.bytes)).map (regionAt img)) = false) :
    exec (.attachMapStore c b) s = .next (finishWith (absorbBus s b) j scOutOfRange) := by
  change execAttachMapStore c b s = _
  simp [execAttachMapStore, hj, hfull, hphb, hsome, hlen.not_gt, imageBytes_gathered hsgl hd, hes]

variable (hes : regionsOk ((List.range (eLen j.bytes)).map (regionAt img)) = true)
include hes

theorem exec_attachMapStore_busy (hbusy : (s.hmap.attached || earlierRuns s j opDetachMapStore) = true) :
    exec (.attachMapStore c b) s = .next (finishWith (absorbBus s b) j scNotReady) := by
  change execAttachMapStore c b s = _
  simp only [execAttachMapStore, hj, hfull, hphb, imageBytes_gathered hsgl hd, hes, hbusy, Bool.not_true, Bool.false_eq_true, if_false,
    if_true, Bool.false_or]
  rw [if_neg (by simp [hsome, hlen.not_gt])]

variable (hfree : (s.hmap.attached || earlierRuns s j opDetachMapStore) = false)
include hfree

theorem exec_attachMapStore_free :
    let s0 := absorbBus s b
    let es := (List.range (eLen j.bytes)).map (regionAt img)
    let rs := acceptRegions s0 b es
    exec (.attachMapStore c b) s = .next (if rs.isEmpty then finishBus s0 j else finishOk
      (attachMap ((List.range (es.length - rs.length)).foldl (fun s _ => countBus s) s0) rs) j rs.length) := by
  change execAttachMapStore c b s = _
  simp only [execAttachMapStore, hj, hfull, hphb, imageBytes_gathered hsgl hd, hes, hfree, Bool.not_true, Bool.false_eq_true, if_false,
    Bool.false_or]
  rw [if_neg (by simp [hsome, hlen.not_gt])]
  split <;> rfl

end

theorem exec_detachMapStore {s : State} {c : Word} {j : Job} (hj : adminJob s c opDetachMapStore = some j)
    (hfull : s.gbl.fullService = true) :
    exec (.detachMapStore c) s = .next (finishOk (if s.hmap.attached then detachMap s else s) j 0) := by
  change execDetachMapStore c s = _
  simp only [execDetachMapStore, hj, hfull, Bool.not_true, Bool.false_eq_true, if_false]

/-! ### SELF_TEST (R691, R692) -/

section
variable {s : State} {c : Word} {j : Job} (r : SelfTest) (hj : adminJob s c opSelfTest = some j) (hfull : s.gbl.fullService = true)
include hj hfull

theorem exec_selfTest_behind (hearlier : earlierRuns s j opSelfTest = true) :
    exec (.selfTest c r) s = .next (finishWith s j scNotReady) := by
  change execSelfTest c r s = _
  simp [execSelfTest, hj, hfull, hearlier]

/-- The entry, the completion, then what Table 21-5 gives for each failure; tests 0 to 5 and 9 fail the device. -/
theorem exec_selfTest_runs (hfirst : earlierRuns s j opSelfTest = false) :
    let mask := r.failed.toNat &&& s.selfTestMask (eAttr j.bytes == 1)
    let s1 := if mask = 0 then s else logEvent s logSelfTest [(0, 1, eAttr j.bytes), (4, 4, mask), (8, 8, r.detail.toNat)]
    let s2 := refresh (selfTestUnits (finish s1 j { status := 0x00, cr0 := mask, logged := mask != 0 }) mask r)
    let s3 : State := if bitOf mask 2 || bitOf mask 3 then { s2 with gbl := { s2.gbl with sealFault := true } } else s2
    exec (.selfTest c r) s = .next (settle (if mask &&& 0x23F = 0 then s3 else enterFailed s3 0x15 0 (!bitOf mask 2))) := by
  intro mask s1 s2 s3
  have hs1 : (if mask == 0 then s else logEvent s logSelfTest [(0, 1, eAttr j.bytes), (4, 4, mask), (8, 8, r.detail.toNat)]) = s1 := by
    simp only [s1, beq_iff_eq]
  have hend : (if mask &&& 0x23F != 0 then enterFailed s3 causeSelfTest 0 (!bitOf mask 2) else s3) =
      if mask &&& 0x23F = 0 then s3 else enterFailed s3 0x15 0 (!bitOf mask 2) := by
    by_cases h : mask &&& 0x23F = 0
    · rw [if_neg (by simp [h]), if_pos h]
    · rw [if_pos (by simp [h]), if_neg h]
      rfl
  rw [← hend]
  simp only [s3, s2, ← hs1]
  change execSelfTest c r s = _
  simp only [execSelfTest, hj, hfull, hfirst, Bool.not_true, Bool.false_eq_true, if_false]
  rfl

end

/-! ### CASCADE_ENUMERATE and CASCADE_ROSTER (R616, R621) -/

section
variable {s : State} {c : Word} {j : Job} (held : List MemberPart)

theorem exec_cascadeEnumerate_ends {e : Enumeration} (hj : s.job? 0 c = some j) (he : s.cas.enumerating = some e)
    (hphase : j.phase = .running) (hcount : e.count = c) (hattests : s.cas.attests = []) (hvisited : e.toVisit = [])
    (hpf : s.energy.pfSeq = false) : exec (.cascadeEnumerate c held) s = .next (enumEnd s j e held) := by
  change execCascadeEnumerate c held s = _
  simp [execCascadeEnumerate, hj, he, hphase, hcount, hattests, hvisited, hpf]

variable (hj : adminJob s c opCascadeEnumerate = some j) (hidle : s.cas.enumerating = none)
include hj hidle

theorem exec_cascadeEnumerate_member (hmember : s.keystone = false) :
    exec (.cascadeEnumerate c held) s = .next (finishWith s j scAccessDenied) := by
  change execCascadeEnumerate c held s = _
  simp [execCascadeEnumerate, hj, hidle, hmember]

/-- The enumeration that starts ends at once where no position is to be visited. -/
theorem exec_cascadeEnumerate_starts (hkeystone : s.keystone = true) (hfull : s.gbl.fullService = true) (hfwds : s.cas.fwds = [])
    (hspans : s.cas.spanOps = []) {e : Enumeration} (he : (enumStart s j).cas.enumerating = some e) :
    exec (.cascadeEnumerate c held) s =
      .next (if e.toVisit.isEmpty && (enumStart s j).cas.attests.isEmpty then enumEnd (enumStart s j) j e held else enumStart s j) := by
  change execCascadeEnumerate c held s = _
  simp [execCascadeEnumerate, hj, hidle, hkeystone, hfull, hfwds, hspans, he]

end

section
variable {s : State} {c : Word} (b : Bus) {j : Job} (hj : adminJob s c opCascadeRoster = some j) (hkeystone : s.keystone = true)
  (hfull : s.gbl.fullService = true)
include hj hkeystone hfull

theorem exec_cascadeRoster_reads (hattr : eAttr j.bytes = 0) (hsome : eLen j.bytes ≠ 0) (hlen : eLen j.bytes ≤ maxXfer)
    (hsgl : j.sglErr = false) :
    let rs := (s.cas.roster.filter (fun r => eLba j.bytes % 4096 ≤ r.1)).take (eLen j.bytes / 128)
    let d := rs.flatMap (fun r => rosterBytes r.1 r.2)
    exec (.cascadeRoster c b) s = .next (deliver (absorbBus s b) j d d.length { status := 0x00, result := rs.length }) := by
  change execCascadeRoster c b s = _
  simp only [execCascadeRoster, hj, hkeystone, hfull, hattr, hsgl, Bool.not_true, Bool.false_eq_true, if_false, beq_self_eq_true, if_true]
  rw [if_neg (by simp [hsome, hlen.not_gt])]
  rfl

theorem exec_cascadeRoster_accepts {r : RosterE} (hattr : eAttr j.bytes = 1) (hr : tget s.cas.roster (eLba j.bytes % 4096) = some r)
    (hheld : r.state = 2) :
    exec (.cascadeRoster c b) s = .next (finishSaved (acceptHeld s (eLba j.bytes % 4096) r) j 0) := by
  change execCascadeRoster c b s = _
  simp [execCascadeRoster, hj, hkeystone, hfull, hattr, hr, hheld]

theorem exec_cascadeRoster_clears {r : RosterE} (hattr : eAttr j.bytes = 2) (hr : tget s.cas.roster (eLba j.bytes % 4096) = some r)
    (hgone : ¬ (r.state = 1 ∧ r.present = true)) :
    exec (.cascadeRoster c b) s =
      .next (finishSaved { s with cas := { s.cas with roster := tdel s.cas.roster (eLba j.bytes % 4096) } } j 0) := by
  have hgate : ¬ (r.state == 1 && r.present) = true := by simpa using hgone
  change execCascadeRoster c b s = _
  simp only [execCascadeRoster, hj, hkeystone, hfull, hattr, hr, if_neg hgate, Bool.not_true, Bool.false_eq_true, if_false]
  rfl

end

end Sys2Proof.Machine
end

section
/-! PROOFS. The obligation about images and service commands (chapters 9, 10, 15, 16, 19 to 21). -/

namespace Sys2Proof.Machine

/-- Settles O53: each command by its cases past the gate of a ready entry (log 13 for the order of the checks, log 33 for the two acts of
CASCADE_ENUMERATE). -/
theorem imageAndServiceResult : Obligations.ImageAndServiceResult := by
  intro s c b j s0
  refine ⟨fun hj => ⟨exec_loadProfile_length b hj, fun img hlen hsgl hd =>
      ⟨fun row st => exec_loadProfile_refused b hj hlen hsgl hd, exec_loadProfile_good b hj hlen hsgl hd⟩⟩,
    fun hj => ⟨exec_loadMicrocode_denied b hj, fun img => exec_loadMicrocode_judged b hj⟩,
    fun hj => ⟨exec_commitFirmware_denied b hj, fun img => exec_commitFirmware_judged b hj⟩,
    exec_startCalibration,
    fun hj hfull => ⟨exec_attachMapStore_phb b hj hfull, fun img hphb hsome hlen hsgl hd =>
      ⟨exec_attachMapStore_badRegions b hj hfull hphb hsome hlen hsgl hd,
        exec_attachMapStore_busy b hj hfull hphb hsome hlen hsgl hd, fun hes hfree => ?_⟩⟩,
    exec_detachMapStore,
    fun r hj hfull => ⟨exec_selfTest_behind r hj hfull, exec_selfTest_runs r hj hfull⟩,
    fun held e => exec_cascadeEnumerate_ends held,
    fun held hj hidle => ⟨exec_cascadeEnumerate_member held hj hidle, fun hkeystone hfull hfwds hspans e =>
      exec_cascadeEnumerate_starts held hj hidle hkeystone hfull hfwds hspans⟩,
    fun hj hkeystone hfull => ⟨exec_cascadeRoster_reads b hj hkeystone hfull, fun r => exec_cascadeRoster_accepts b hj hkeystone hfull,
      fun r => exec_cascadeRoster_clears b hj hkeystone hfull⟩⟩
  have hattach := exec_attachMapStore_free b hj hfull hphb hsome hlen hsgl hd hes hfree
  exact ⟨fun hnone => by rw [hattach, if_pos (List.isEmpty_iff.2 hnone)],
    fun hsome' => by rw [hattach, if_neg (mt List.isEmpty_iff.1 hsome')]⟩

end Sys2Proof.Machine
end

section
/-! SUPPORT. MC_CTRL, the Mason's commands and the calibration commands past their gates, case by case (R180, R192, R532 to R541, R559 to
R567). -/

namespace Sys2Proof.Machine

/-! ### Writes of MC_CTRL (Table 16-7, R539, R541) -/

theorem mcFields_limited {s : State} (hl : s.limited = true) (v : Word) :
    mcFields s v = { s with micro := { s.micro with chSel := Fin.ofNat 16 (bitsOf v.toNat 7 4) } } := by
  simp only [mcFields, hl, if_true]

theorem not_mcPermitted_mcFields {s : State} (h : s.stopped = true ∨ s.energy.pfSeq = true) (v : Word) :
    mcPermitted (mcFields s v) = false := by
  have hstopped : (mcFields s v).stopped = s.stopped := rfl
  have hpf : (mcFields s v).energy.pfSeq = s.energy.pfSeq := rfl
  unfold mcPermitted
  rw [hstopped, hpf]
  rcases h with h | h <;> simp [h]

theorem exec_mcSwitch {s : State} (ha : s.hostAccess = true) (v : Word) : exec (.mcSwitch v) s = .next (mcCtrlWrite s (v ||| 1)) :=
  if_pos ha

theorem exec_mcForce {s : State} (ha : s.hostAccess = true) (v : Word) : exec (.mcForce v) s = .next (mcCtrlWrite s (v ||| 2)) :=
  if_pos ha

theorem mcCtrlWrite_refused {s : State} (v : Word) (h : mcPermitted (mcFields s v) = false) : mcCtrlWrite s v = mcFields s v := by
  simp only [mcCtrlWrite, h, Bool.not_false, if_true]

theorem mcCtrlWrite_force {s : State} (v : Word) (h : mcPermitted (mcFields s v) = true) (hf : v.getLsbD 1 = true) :
    mcCtrlWrite s v = commitCandidate ((mcConcerned (mcFields s v)).foldl forceSwitch (mcFields s v)) := by
  simp only [mcCtrlWrite, h, hf, Bool.not_true, Bool.false_eq_true, if_false, if_true]

theorem mcCtrlWrite_switch {s : State} (v : Word) (h : mcPermitted (mcFields s v) = true) (hf : v.getLsbD 1 = false)
    (hs : v.getLsbD 0 = true) : mcCtrlWrite s v = (mcConcerned (mcFields s v)).foldl requestSwitch (mcFields s v) := by
  simp only [mcCtrlWrite, h, hf, hs, Bool.not_true, Bool.false_eq_true, if_false, if_true]

theorem getLsbD_or_one_zero (v : Word) : (v ||| 1).getLsbD 0 = true := by
  rw [BitVec.getLsbD_or]
  exact Bool.or_true _

theorem getLsbD_or_one_one (v : Word) : (v ||| 1).getLsbD 1 = v.getLsbD 1 := by
  rw [BitVec.getLsbD_or]
  exact Bool.or_false _

theorem getLsbD_or_two_one (v : Word) : (v ||| 2).getLsbD 1 = true := by
  rw [BitVec.getLsbD_or]
  exact Bool.or_true _

/-! ### Posting, events and the withdrawal of a request (R531, R540) -/

theorem exec_masonRoutinePost_idle {s s' : State} {ch : Fin 16} {r : Fin 32} (o : Vector Word 8) {w : FlashWork} (hc : s.gbl.coreOn = true)
    (hidle : masonIdle s ch = true) (hr : r ≠ 0) (hlast : r.val ≤ 20) (hw : startWork s ch w = some s') :
    let t := wakeDomain s' (6 + ch.val)
    exec (.masonRoutinePost ch r o w) s = .next (setMason t ch { t.mason ch with opnd := o, posted := some r }) := by
  have hr' : ¬ r.val = 0 := fun h => hr (Fin.ext h)
  change execMasonRoutinePost ch r o w s = _
  unfold execMasonRoutinePost
  rw [if_neg (by simp [hc, hidle, hr', hlast]), hw]

theorem exec_masonEvent_inService {s : State} {ch : Fin 16} (hc : s.gbl.coreOn = true) (hch : s.inService ch.val = true) (i : List WordIn) :
    exec (.masonEvent ch i) s = .next (masonRun ch false i s) := by
  change execMasonEvent ch i s = _
  simp only [execMasonEvent, hc, hch, Bool.and_self, if_true]

theorem exec_switchTaken_pending {s : State} {ch : Fin 16} (hc : s.gbl.coreOn = true) (hch : s.inService ch.val = true) (i : List WordIn)
    (hpend : (s.mason ch).pendSince.isSome = true) (hpf : s.energy.pfSeq = false) :
    exec (.switchTaken ch i) s = .next (masonRun ch true i s) := by
  change execSwitchTaken ch i s = _
  simp only [execSwitchTaken, hc, hch, hpend, hpf, Bool.not_false, Bool.and_self, if_true]

theorem exec_mcSwitchTimeout_pending {s : State} {ch : Fin 16} (hpend : (s.mason ch).pendSince.isSome = true) :
    exec (.mcSwitchTimeout ch) s = .next (logEvent (setMason s ch { s.mason ch with pendSince := none, patchReq := false }) logMcSwitchEnd
      [(0, 1, ch.val), (1, 1, 1), (2, 2, (s.mason ch).addr.toNat)]) :=
  if_neg (by rw [Option.isNone_eq_false_iff.2 hpend]; exact Bool.false_ne_true)

/-! ### Machine checks (R532, Table 21-4) -/

theorem mcCause_badReference (s : State) (ch : Fin 16) (rb : Bool) : mcCause s ch rb false = 4 := rfl

theorem mcCause_first {s : State} {ch : Fin 16} (rb : Bool) (hfirst : (s.mason ch).lastCheck = none) :
    mcCause s ch rb true = if rb = true then 1 else 3 := by
  simp only [mcCause, hfirst, Bool.not_true, Bool.false_eq_true, if_false]

/-- `s` after the check of a word at `a` on channel `ch` is recorded in MC_CHECK, counted and logged with cause `k` (R532 steps 1 to 3). -/
def checkLogged (s : State) (ch : Fin 16) (a : BitVec 12) (k : Nat) : State :=
  let r := setMason s ch { s.mason ch with ce := none, cle := false, ale := false, lastCheck := some s.gbl.tick }
  let r1 := setIrq { r with micro := { r.micro with
    checkPending := putBit r.micro.checkPending ch.val true, checkChannel := ch, checkAddr := a } } irqMcheck
  let r2 : State := { r1 with log := { r1.log with health := { r1.log.health with
    mcParity := satTo 0xFFFFFFFFFFFFFFFF (r1.log.health.mcParity + 1) } } }
  logEvent r2 logMcParity [(0, 1, ch.val), (1, 1, k), (2, 1, b2n (s.mason ch).bank), (4, 2, a.toNat)]

theorem exec_machineCheck_inService {s : State} {ch : Fin 16} (a : BitVec 12) (rb ro : Bool) (hc : s.gbl.coreOn = true)
    (hch : s.inService ch.val = true) :
    let k := mcCause s ch rb ro
    let r3 := checkLogged s ch a k
    exec (.machineCheck ch a rb ro) s = .next (if k = 4 then enterHalted r3 0x04 ch.val
      else if k = 1 then cutChannel (restartMason r3 ch) ch.val false else takeOffline r3 ch.val 3) := by
  intro k r3
  have hexec : exec (.machineCheck ch a rb ro) s = if k == 4 then .next (enterHalted r3 causeMachineCheck ch.val)
      else if k == 1 then .next (cutChannel (restartMason r3 ch) ch.val false) else .next (takeOffline r3 ch.val 3) := by
    change execMachineCheck ch a rb ro s = _
    unfold execMachineCheck
    rw [if_neg (by simp [hc, hch])]
    rfl
  rw [hexec]
  simp only [beq_iff_eq]
  split
  · rfl
  · split <;> rfl

theorem exec_mcScrub_coreOn {s : State} (bad : List (Fin 5 × Bool × BitVec 12)) (hc : s.gbl.coreOn = true) :
    let s1 := bad.foldl scrubOne s
    exec (.mcScrub bad) s =
      .next { s1 with micro := { s1.micro with reloading := (bad.find? (fun x => x.1 == 4)).map (·.2.1) } } :=
  if_neg (by simp [hc])

/-! ### Writes of CAL_CTRL (Table 6-23, R559) -/

theorem calReq_write {s : State} (ha : s.hostAccess = true) (hl : s.limited = false) (v : Word) : calReq s v = calCtrlWrite s v := by
  simp only [calReq, ha, hl, Bool.not_true, Bool.or_self, Bool.false_eq_true, if_false]

theorem calReq_limited {s : State} (hl : s.limited = true) (v : Word) : calReq s v = s := by
  simp only [calReq, hl, Bool.or_true, if_true]

theorem calCtrlWrite_holdupAlone (s : State) : calCtrlWrite s 4 =
    requestKind (noteGen { s with sys := { s.sys with calDelta := 1 }, cal := { s.cal with autoEn := false } } 7) 2 := rfl

/-! ### Runs, their limits and repeats (R560, R561, R565) -/

theorem exec_calTrimRun_complete {s : State} (rs : List (Nat × Sweep × Sweep)) (hrun : s.calRuns = true) (hreq : s.cal.req0 ≠ [])
    (hall : ∀ u ∈ s.cal.req0, (tget rs u).isSome = true) :
    let r := trimAll rs s.cal.req0 { s with cal := { s.cal with req0 := [] } }
    exec (.calTrimRun rs) s = .next (closeRun r.1 0 r.2.1 r.2.2 (r.2.2.any (trimStopped r.1))) := by
  have hall' : s.cal.req0.all (fun u => (tget rs u).isSome) = true := List.all_eq_true.2 hall
  change execCalTrimRun rs s = _
  unfold execCalTrimRun
  rw [if_neg (by rw [hall']; simp [hrun, hreq])]

theorem exec_calTrackRun_complete {s : State} (rs : List (Nat × Search × Search)) (hrun : s.calRuns = true) (hrec : s.gbl.recovered = true)
    (hown : s.media.foreign = false) (hreq0 : s.cal.req0 = []) (hreq : s.cal.req1 ≠ [])
    (hall : ∀ u ∈ s.cal.req1, (tget rs u).isSome = true) :
    let r := trackAll rs s.cal.req1 { s with cal := { s.cal with req1 := [] } }
    exec (.calTrackRun rs) s = .next (closeRun r.1 1 r.2.1 r.2.2 (r.2.2.any (trackStopped r.1))) := by
  have hall' : s.cal.req1.all (fun u => (tget rs u).isSome) = true := List.all_eq_true.2 hall
  change execCalTrackRun rs s = _
  unfold execCalTrackRun
  rw [if_neg (by rw [hall']; simp [hrun, hrec, hown, hreq0, hreq])]

section
variable {s : State} {since : DWord} (hw : s.cal.hold = .waiting since)
include hw

theorem exec_calHoldupRun_waiting :
    exec .calHoldupRun s = if s.calRuns && s.holdCond then .next (startDischarge s false s.vhNum none) else .next s := by
  change execCalHoldupRun s = _
  simp only [execCalHoldupRun, hw]

theorem exec_holdupConditionTimeout_waiting : exec .holdupConditionTimeout s = .next (concludeHold s none none) := by
  change execHoldupConditionTimeout s = _
  simp only [execHoldupConditionTimeout, hw]

end

theorem exec_holdupDischargeTimeout_discharging {s : State} {second : Bool} {since : DWord} {k0 : Option (Nat × DWord)} {v0 : Nat}
    {first : Option Nat} (hd : s.cal.hold = .discharging second since k0 v0 first) :
    exec .holdupDischargeTimeout s = .next (endDischarge s second v0 first none) := by
  change execHoldupDischargeTimeout s = _
  simp only [execHoldupDischargeTimeout, hd]

theorem exec_holdupRechargeTimeout_recharging {s : State} {since : DWord} {v0 : Nat} {first : Option Nat}
    (hr : s.cal.hold = .recharging since v0 first) : exec .holdupRechargeTimeout s = .next (concludeHold s first none) := by
  change execHoldupRechargeTimeout s = _
  simp only [execHoldupRechargeTimeout, hr]

theorem endDischarge_first_cal (s : State) (v0 : Nat) (first c : Option Nat) :
    (endDischarge s false v0 first c).cal = { s.cal with hold := .recharging s.gbl.tick v0 c } := by
  unfold endDischarge setCalPin
  cases s.calPin <;> rfl

theorem requestCal_holdup_idle {s : State} (us : List Nat) (hidle : s.cal.hold = .idle) :
    requestCal s 2 us = noteGen { s with cal := { s.cal with hold := .waiting s.gbl.tick } } 7 :=
  if_pos (beq_iff_eq.2 hidle)

section
variable {s : State} (hrun : s.calRuns = true) (hrunning : s.stopped = false)
include hrun hrunning

theorem exec_calRepeat_running (kind : Fin 3) : exec (.calRepeat kind) s =
    if kind == 0 then .next (requestCal { s with cal := { s.cal with rep0 := [] } } 0 (s.cal.rep0.filter s.trimUnits.contains))
    else if kind == 1 then .next (requestCal { s with cal := { s.cal with rep1 := [] } } 1 (s.cal.rep1.filter s.trackUnits.contains))
    else if s.cal.holdRep && s.holdCond && s.cal.hold == .idle
      then .next (requestCal { s with cal := { s.cal with holdRep := false } } 2 [0])
    else .next s :=
  if_neg (by simp [hrun, hrunning])

theorem exec_calRepeat_holdup (hrep : s.cal.holdRep = true) (hcond : s.holdCond = true) (hidle : s.cal.hold = .idle) :
    exec (.calRepeat 2) s = .next (noteGen { s with cal := { s.cal with holdRep := false, hold := .waiting s.gbl.tick } } 7) := by
  rw [exec_calRepeat_running hrun hrunning, if_neg (by decide), if_neg (by decide), if_pos (by simp [hrep, hcond, hidle])]
  rw [requestCal_holdup_idle (s := { s with cal := { s.cal with holdRep := false } }) [0] hidle]

end

end Sys2Proof.Machine
end

section
/-! PROOFS. The obligations about the Masons and about calibration (chapters 16 and 17). -/

namespace Sys2Proof.Machine

/-- Settles O56: MC_CTRL by whether the write is permitted (the order of FORCE and SWITCH is log 24), then each command past its gate. -/
theorem masonResult : Obligations.MasonResult := by
  refine ⟨fun s v ha => ⟨fun hstop => ?_, fun hl => mcFields_limited hl v, fun hp => ?_, fun hf hp => ?_⟩,
    fun s ch r o w s' hc hidle hr hlast hw => exec_masonRoutinePost_idle o hc hidle hr hlast hw,
    fun s ch i hc hch => ⟨exec_masonEvent_inService hc hch i, exec_switchTaken_pending hc hch i⟩,
    fun s ch => exec_mcSwitchTimeout_pending,
    fun s ch a rb ro hc hch => ⟨exec_machineCheck_inService a rb ro hc hch, fun hro => ?_, fun hro hfirst => ?_⟩,
    fun s bad => exec_mcScrub_coreOn bad⟩
  · rw [exec_mcSwitch ha, exec_mcForce ha, mcCtrlWrite_refused _ (not_mcPermitted_mcFields hstop _),
      mcCtrlWrite_refused _ (not_mcPermitted_mcFields hstop _)]
    exact ⟨rfl, rfl⟩
  · rw [exec_mcForce ha, mcCtrlWrite_force _ hp (getLsbD_or_two_one v)]
  · rw [exec_mcSwitch ha, mcCtrlWrite_switch _ hp ((getLsbD_or_one_one v).trans hf) (getLsbD_or_one_zero v)]
  · subst hro
    exact mcCause_badReference s ch rb
  · subst hro
    exact mcCause_first rb hfirst

/-- Settles O55: each run by what it waits for, each limit by the stage of the hold-up run (logs 22 and 28 for the moments of the limits
and the order of kinds). -/
theorem calibrationResult : Obligations.CalibrationResult := by
  refine ⟨fun s v ha hl => ⟨?_, ?_, ?_, ?_⟩, fun s v hl => ⟨?_, ?_, ?_⟩, fun s rs => exec_calTrimRun_complete rs,
    fun s rs => exec_calTrackRun_complete rs, fun s since hw => ⟨fun hrun hcond => ?_, fun hcond => ?_,
      exec_holdupConditionTimeout_waiting hw⟩,
    fun s since k0 v0 first => ⟨fun hd => ⟨_, exec_holdupDischargeTimeout_discharging hd, endDischarge_first_cal s v0 first none⟩,
      exec_holdupDischargeTimeout_discharging, exec_holdupRechargeTimeout_recharging⟩,
    fun s hrun hrunning => ⟨exec_calRepeat_running hrun hrunning 0, exec_calRepeat_running hrun hrunning 1,
      exec_calRepeat_holdup hrun hrunning⟩⟩
  · exact congrArg Host.Outcome.next (calReq_write ha hl _)
  · exact congrArg Host.Outcome.next (calReq_write ha hl _)
  · exact congrArg Host.Outcome.next (calReq_write ha hl _)
  · exact congrArg Host.Outcome.next ((calReq_write ha hl _).trans (calCtrlWrite_holdupAlone s))
  · exact congrArg Host.Outcome.next (calReq_limited hl _)
  · exact congrArg Host.Outcome.next (calReq_limited hl _)
  · exact congrArg Host.Outcome.next (calReq_limited hl _)
  · rw [exec_calHoldupRun_waiting hw, if_pos (by rw [hrun, hcond]; rfl)]
  · rw [exec_calHoldupRun_waiting hw, if_neg (by simp [hcond])]

end Sys2Proof.Machine
end

section
/-! SUPPORT. Media management: status polls, the moves, erases, the scrub of the Host Map Store and the Overdrive period past their gates
(R329, R461 to R480, R523). -/

namespace Sys2Proof.Machine

/-! ### Status polls and resumes (R470, R477, R523) -/

theorem exec_flashStatusPoll_live {s : State} {lun : LunId} (a : PollAnswer) (hc : s.gbl.coreOn = true) (hparked : s.energy.parked = false)
    (hlive : s.liveLuns.contains (lunKey lun) = true) : exec (.flashStatusPoll lun a) s = .next (settle (pollLun s (lunKey lun) a)) :=
  if_neg (by rw [hc, hparked, hlive]; decide)

theorem pollLun_erase_done {s : State} {k : Nat} {l : Lun} {b : Nat} (hl : tget s.media.luns k = some l) (hop : l.op = .erase b) :
    pollLun s k .done = erased (endOp s k true) (opBlock s k (.erase b)) := by
  simp only [pollLun, hl, hop]

theorem tget_erased_self (s : State) (k : Nat) : tget (erased s k).media.blocks k = some ⟨.quarry, s.blkErases k + 1, 0⟩ :=
  tget_tput_self _ _ _

/-- With no power failure and no fault a suspended operation goes on; FAIL is a fault status. -/
theorem exec_flashResume_suspended {s : State} {lun : LunId} {l : Lun} (fail : Bool) (hc : s.gbl.coreOn = true)
    (hl : tget s.media.luns (lunKey lun) = some l) (hsusp : l.suspended = true) (hgood : l.failed = false) (hpf : s.energy.pfSeq = false) :
    let s1 := modLun s (lunKey lun) (fun l => { l with suspended := false, waiting := 0, since := s.gbl.tick })
    exec (.flashResume lun fail) s =
      .next (if fail then settle (faultStatus s1 (lunKey lun) (opBlock s1 (lunKey lun) l.op)) else s1) := by
  change execFlashResume lun fail s = _
  simp only [execFlashResume, hl, hc, hsusp, hgood, hpf, Bool.not_true, Bool.or_self, Bool.false_and, Bool.false_eq_true, if_false]

/-! ### Moves (R458, R461 to R466) -/

theorem exec_gcReclaim_enough {s : State} (hq : s.qLow ≤ s.quarry) : exec .gcReclaim s = .next s := if_pos (by simp [hq])

theorem exec_wearLevel_even {s : State} (heven : wearSpread s = false) : exec .wearLevel s = .next s := if_pos (by simp [heven])

section
variable {s : State} (hmay : s.mayMove = true)
include hmay

theorem exec_gcReclaim_victim {id v : Nat} {c : Course} {s1 : State} (hshare : s.gcShareOk = true) (hq : s.quarry < s.qLow)
    (hv : gcVictim s = some (id, v)) (hcourse : tget s.media.courses id = some c) (he : emptyCourse s id = some s1) :
    exec .gcReclaim s = .next (noteVictim (eraseBlocks s1 c.blocks) v) := by
  change execGcReclaim s = _
  unfold execGcReclaim
  rw [if_neg (by simp [hmay, hshare, hq]), hv]
  simp only [hcourse, he, Option.map_some, Option.getD_some]

theorem exec_wearLevel_worn {id w : Nat} {s1 : State} (hspread : wearSpread s = true) (hworn : leastWorn s = some (id, w))
    (he : emptyCourse (openWorn s id) id = some s1) : exec .wearLevel s = .next s1 := by
  change execWearLevel s = _
  simp only [execWearLevel, hmay, hspread, hworn, he, Bool.not_true, Bool.or_self, Bool.false_eq_true, if_false, Option.getD_some]

theorem exec_refresh_course {lun : LunId} {block : BitVec 20} (soft3 : Bool) {id m : Nat}
    (huse : s.blkUse (blkKey (lunKey lun) block.toNat) = .course)
    (ho : blockOwner s (blkKey (lunKey lun) block.toNat) = some (id, m)) :
    exec (.refresh lun block soft3) s = .next (settle (freeEmpty (retireBlock s id m false))) := by
  change execRefresh lun block soft3 s = _
  unfold execRefresh
  rw [if_neg (by simp [hmay, huse]), ho]

theorem exec_footingFold_slc {id : Nat} {c : Course} {s1 : State} (hfull : s.gbl.fullService = true)
    (hfind : s.media.courses.find? (fun c => c.2.role == .cold && !c.2.isOpen &&
      c.2.groups.all (· == 1) && 1 < maxOf (s.profs.map pfBits)) = some (id, c))
    (he : emptyCourse s id = some s1) : exec .footingFold s = .next s1 := by
  change execFootingFold s = _
  unfold execFootingFold
  rw [if_neg (by simp [hmay, hfull]), hfind]
  simp only [he, Option.getD_some]

theorem exec_dieRelocate_rebuilds {l : Nat} {rest : List Nat} {s1 : State} (hl : s.media.relocating = l :: rest) :
    let onDie := fun (i : Nat) (c : Course) (g : Nat × Nat × List Ref) =>
      (c.blocks[g.1]?).map blkLun == some l && rowRebuilds s i g.1 g.2.1
    let refs := (newestFirst s.media.courses).flatMap (fun c => (c.2.pages.filter (onDie c.1 c.2)).flatMap (fun g => g.2.2))
    placeMoved s (refs.filter (refValid s)) = some s1 →
    exec .dieRelocate s = .next (refresh (freeEmpty (modMedia s1 (fun m => { m with
      relocating := rest
      courses := tmap m.courses (fun i c => { c with pages := c.pages.filter (fun g => !onDie i c g) }) })))) := by
  intro onDie refs hplace
  change execDieRelocate s = _
  simp only [execDieRelocate, hl, hmay, Bool.not_true, Bool.false_eq_true, if_false]
  rw [hplace]

theorem exec_plinthWrite_mayMove : exec .plinthWrite s = .next (settle (writePlinth s)) := if_pos hmay

end

theorem exec_dieRelocate_none {s : State} (hnone : s.media.relocating = []) : exec .dieRelocate s = .next s := by
  change execDieRelocate s = _
  simp only [execDieRelocate, hnone]

/-! ### Erases, the health page and the scrub (R329, R470, R690) -/

section
variable {s : State} (hb : s.background = true)
include hb

theorem exec_blockErase_background :
    exec .blockErase s = .next (eraseBlocks (freeEmpty s) ((freedBlocks (freeEmpty s)).take 1)) :=
  if_neg (by simp [hb])

theorem exec_healthCommit_background (ht6 : s.sys.t6 = true) : exec .healthCommit s = .next (commitHealth s) := by
  simp only [State.background, Bool.and_eq_true, Bool.not_eq_true'] at hb
  obtain ⟨⟨⟨⟨⟨hcore, -⟩, hfailed⟩, -⟩, hown⟩, hpf⟩ := hb
  exact if_pos (by simp [hcore, hfailed, hown, hpf, ht6])

end

theorem exec_hmapScrub_on {s : State} (b : Bus) {r : Nat} {rest : List Nat} (hr : s.hmap.scrubbing = r :: rest) (hon : s.hmapOn = true) :
    let s0 := absorbBus s b
    let s1 := (s0.hmap.slots.filter (fun x => x.1 / 1048576 == r)).foldl (scrubSlot b) s0
    exec (.hmapScrub b) s =
      .next (refresh { s1 with hmap := { s1.hmap with scrubbing := s1.hmap.scrubbing.filter (· != r) } }) := by
  change execHmapScrub b s = _
  simp only [execHmapScrub, hr, hon, Bool.not_true, Bool.false_eq_true, if_false]

/-! ### The Overdrive period (R475 to R480) -/

theorem endEpisode_eq (o : Over) (tick : Nat) : endEpisode o tick = { o with pressed := 0, history := (endEpisode o tick).history } := by
  unfold endEpisode
  split <;> rfl

/-- The history of the episodes takes no figure of the period. -/
theorem overHistory_period (s : State) (o : Over) (was now : Bool) : (overHistory s o was now).nowAll = o.nowAll ∧
    (overHistory s o was now).nowBlock = o.nowBlock ∧ (overHistory s o was now).periods = o.periods ∧
    (overHistory s o was now).unpressed = o.unpressed := by
  unfold overHistory
  split
  · exact ⟨rfl, rfl, rfl, rfl⟩
  · split
    · exact ⟨rfl, rfl, rfl, rfl⟩
    · dsimp only
      split
      · split
        · exact ⟨rfl, rfl, rfl, rfl⟩
        · rw [endEpisode_eq]
          exact ⟨rfl, rfl, rfl, rfl⟩
      · exact ⟨rfl, rfl, rfl, rfl⟩

/-- Only the end of an episode resets the count of pressed periods. -/
theorem overHistory_pressed (s : State) (o : Over) (was now : Bool) (hgoes : was = true → now = true) :
    (overHistory s o was now).pressed = o.pressed := by
  cases was with
  | false => cases now <;> rfl
  | true =>
    rw [hgoes rfl]
    unfold overHistory
    rw [if_neg (by decide), if_neg (by decide)]
    dsimp only
    split <;> rfl

/-- What the end of a period makes of the figures: those of the period are noted, and a period for all of which a write waited is
pressed, which keeps an episode running. -/
theorem exec_overdrivePeriod_ends {s : State} (waited : Bool) (bg gc : Nat) (hc : s.gbl.coreOn = true) (hprobed : s.media.probed = true)
    (hpf : s.energy.pfSeq = false) : ∃ (o1 : Over) (now : Bool) (s1 : State),
    exec (.overdrivePeriod waited bg gc) s = .next (if now = s.gbl.overdrive then s1 else setIrq s1 irqOverdrive) ∧
    s1.media = { s.media with pace := overHistory s o1 s.gbl.overdrive now } ∧
    s1.stage = s.stage ∧ s1.parts = s.parts ∧ s1.queues = s.queues ∧
    o1.nowAll = 0 ∧ o1.nowBlock = 0 ∧
    o1.periods = ((s.media.pace.nowAll, s.media.pace.nowBlock) :: s.media.pace.periods).take 50 ∧
    (waited = true → o1.pressed = s.media.pace.pressed + 1 ∧ o1.unpressed = 0 ∧ (s.gbl.overdrive = true → now = true)) := by
  have hgate : ¬ (!s.gbl.coreOn || !s.media.probed || s.energy.pfSeq) = true := by simp [hc, hprobed, hpf]
  refine ⟨_, _, _, if_neg hgate, rfl, rfl, rfl, rfl, rfl, rfl, rfl, fun hw => ?_⟩
  subst hw
  simp only [Bool.or_true, if_true, true_and]
  intro hover
  rw [if_pos hover]
  rfl

end Sys2Proof.Machine
end

section
/-! PROOFS. The obligation about media work (chapters 9, 14, 15 and 21). -/

namespace Sys2Proof.Machine

/-- Settles O54: each kind of work past its gate; a move is whole in one step, and its order is that of log 23. -/
theorem mediaWorkResult : Obligations.MediaWorkResult := by
  refine ⟨fun s lun a => exec_flashStatusPoll_live a, fun s lun l b hl hop => ?_,
    fun s lun l hc hl hsusp hgood hpf => ⟨exec_flashResume_suspended false hc hl hsusp hgood hpf,
      exec_flashResume_suspended true hc hl hsusp hgood hpf⟩,
    fun s hmay => ⟨exec_gcReclaim_enough, fun id v c s1 => exec_gcReclaim_victim hmay, exec_wearLevel_even,
      fun id w s1 => exec_wearLevel_worn hmay, fun lun block soft3 id m => exec_refresh_course hmay soft3,
      fun id c s1 => exec_footingFold_slc hmay, exec_dieRelocate_none, fun l rest s1 => exec_dieRelocate_rebuilds hmay,
      exec_plinthWrite_mayMove hmay⟩,
    fun s hb => ⟨exec_blockErase_background hb, exec_healthCommit_background hb⟩,
    fun s b r rest => exec_hmapScrub_on b, fun s waited bg gc hc hprobed hpf => ?_⟩
  · rw [pollLun_erase_done hl hop]
    exact tget_erased_self _ _
  · obtain ⟨o1, now, s1, hexec, hmedia, hstage, hparts, hqueues, hall, hblock, hperiods, hwaited⟩ :=
      exec_overdrivePeriod_ends waited bg gc hc hprobed hpf
    have k : Reports s1 (if now = s.gbl.overdrive then s1 else setIrq s1 irqOverdrive) := by
      split
      · exact .refl _
      · exact setIrq_reports _ _
    have km : (if now = s.gbl.overdrive then s1 else setIrq s1 irqOverdrive).media = s1.media := by
      split
      · rfl
      · exact setIrq_media _ _
    obtain ⟨pall, pblock, pperiods, punpressed⟩ := overHistory_period s o1 s.gbl.overdrive now
    refine ⟨_, hexec, ?_⟩
    rw [km, hmedia, k.parts, k.queues, hparts, hqueues]
    refine ⟨pall.trans hall, pblock.trans hblock, pperiods.trans hperiods, fun hw => ?_, rfl, ?_, rfl, rfl⟩
    · obtain ⟨hpressed, hunpressed, hgoes⟩ := hwaited hw
      exact ⟨(overHistory_pressed s o1 _ now hgoes).trans hpressed, punpressed.trans hunpressed⟩
    · rw [← hstage]
      split
      · rfl
      · rw [setIrq_eq]

end Sys2Proof.Machine
end

section
/-! SUPPORT. The cascade's ports: training, block lock, acknowledgment, replay and credit past their gates (R608 to R613). -/

namespace Sys2Proof.Machine

/-! ### Training (R608, R610) -/

theorem startTraining_mayTrain {s : State} {p : Fin 3} (h : s.mayTrain p = true) :
    startTraining s p = modPort (wakeDomain s 5) p (fun t => { t with training := true, rxTrain := 0 }) := if_pos h

section
variable {s : State} {p : Fin 3} {role version : Byte} {ks : Bool} (hon : s.casOn = true) (htraining : s.cas.ports[p].training = true)
  (hlock : s.cas.ports[p].blockLock = true)
include hon htraining hlock

theorem exec_train_incompatible (h : version ≠ 1 ∨ 1 < role.toNat) :
    exec (.train p role version ks) s = .next (modPort s p (fun t => { t with rxTrain := 0 })) := by
  change execTrain p role version ks s = _
  unfold execTrain
  dsimp only
  rw [if_neg (by rw [hon, htraining, hlock]; decide), if_pos (by simpa using h)]

variable (hversion : version = 1) (hrole : role.toNat ≤ 1)
include hversion hrole

/-- The pairing that 16 TRAIN blocks bring up or that never comes up, by the roles of the two ends. -/
theorem exec_train_compatible : exec (.train p role version ks) s =
    if (role == 1) != (p == 0) || (ks && s.keystone) then .next (modPort
      (if s.cas.ports[p].roleLogged then s else logEvent s logCascade [(0, 1, 1), (1, 1, p.val)]) p
      (fun t => { t with rxTrain := 0, roleLogged := true }))
    else if s.cas.ports[p].rxTrain < 15 then .next (modPort s p (fun t => { t with rxTrain := t.rxTrain + 1 }))
    else .next (portUp s p) := by
  change execTrain p role version ks s = _
  unfold execTrain
  dsimp only
  rw [if_neg (by rw [hon, htraining, hlock]; decide), if_neg (by simp [hversion, hrole])]

theorem exec_train_wrongRole (h : ¬ (role = 1 ↔ p = 0) ∨ (ks = true ∧ s.keystone = true)) :
    exec (.train p role version ks) s = .next (modPort
      (if s.cas.ports[p].roleLogged = true then s else logEvent s logCascade [(0, 1, 1), (1, 1, p.val)]) p
      (fun t => { t with rxTrain := 0, roleLogged := true })) := by
  have hbad : ((role == 1) != (p == 0) || (ks && s.keystone)) = true := by
    rw [Bool.or_eq_true, Bool.and_eq_true, bne_iff_ne]
    exact h.imp_left (mt fun e => by rw [← beq_iff_eq, e, beq_iff_eq])
  rw [exec_train_compatible hon htraining hlock hversion hrole, if_pos hbad]

theorem exec_train_rightRole (hkeystones : ¬ (ks = true ∧ s.keystone = true)) (hroles : role = 1 ↔ p = 0) :
    exec (.train p role version ks) s =
      if s.cas.ports[p].rxTrain < 15 then .next (modPort s p (fun t => { t with rxTrain := t.rxTrain + 1 })) else .next (portUp s p) := by
  have hgood : ¬ ((role == 1) != (p == 0) || (ks && s.keystone)) = true := by
    have hbeq : (role == 1) = (p == 0) := Bool.eq_iff_iff.2 (by rw [beq_iff_eq, beq_iff_eq, hroles])
    rw [hbeq, bne_self_eq_false, Bool.false_or, Bool.and_eq_true]
    exact hkeystones
  rw [exec_train_compatible hon htraining hlock hversion hrole, if_neg hgood]

end

/-! ### Block lock (R609, R633) -/

section
variable {s : State} {p : Fin 3} (hon : s.casOn = true)
include hon

theorem exec_blockLockAcquired_on : exec (.blockLockAcquired p) s = .next (modPort s p (fun t => { t with
    blockLock := true, lostAt := if s.pins.present.getLsbD p.val then none else t.lostAt })) := if_neg (by simp [hon])

theorem exec_blockLockLost_locked (hlock : s.cas.ports[p].blockLock = true) : exec (.blockLockLost p) s = .next (modPort s p (fun t => { t with
    blockLock := false, rxTrain := 0, lostAt := some (t.lostAt.getD s.gbl.tick) })) := by
  change execBlockLockLost p s = _
  unfold execBlockLockLost
  rw [if_neg (by rw [hon, hlock]; decide)]

theorem exec_leaveDetect_lost (h : s.cas.ports[p].blockLock = false ∨ s.pins.present.getLsbD p.val = false) :
    exec (.leaveDetect p) s = .next (portLoss s p) := by
  have hgate : ¬ (!s.casOn || (s.pins.present.getLsbD p.val && s.cas.ports[p].blockLock)) = true := by
    rw [hon]
    rcases h with h | h <;> rw [h] <;> simp
  exact if_neg hgate

end

/-! ### Acknowledgment, replay and credit (R612, R613) -/

theorem exec_ack_advances {s : State} {p : Fin 3} {seq : BitVec 12} (hrx : s.rxOn p = true)
    (hlen : (s.cas.ports[p].ackTo seq).length ≠ s.cas.ports[p].replay.length) : exec (.ack p seq) s =
      .next (modPort s p (fun t => { t with replay := t.ackTo seq, replays := 0 }.drain [] [] t.waiting)) := by
  change execAck p seq s = _
  unfold execAck
  dsimp only
  rw [if_neg (by rw [hrx, beq_eq_false_iff_ne.2 hlen]; decide)]

theorem exec_nak_known {s : State} {p : Fin 3} {seq : BitVec 12} (hrx : s.rxOn p = true)
    (hknown : s.cas.ports[p].replay.any (fun x => x.1 == seq) = true) : exec (.nak p seq) s = .next (replayOnce s p) := by
  change execNak p seq s = _
  simp only [execNak, hrx, hknown, Bool.and_self, if_true]

theorem exec_replayTimeout_unacked {s : State} {p : Fin 3} (hon : s.casOn = true) (htrained : s.cas.ports[p].trained = true)
    (hreplay : s.cas.ports[p].replay ≠ []) : exec (.replayTimeout p) s = .next (replayOnce s p) := by
  change execReplayTimeout p s = _
  unfold execReplayTimeout
  rw [if_pos (by rw [hon, htrained, List.isEmpty_eq_false_iff.2 hreplay]; decide)]

theorem replayOnce_again {s : State} {p : Fin 3} (h : s.cas.ports[p].replays < 16) :
    replayOnce s p = modPort s p (fun t => { t with replays := t.replays + 1 }) := if_neg h.not_ge

theorem replayOnce_fails {s : State} {p : Fin 3} (h : 16 ≤ s.cas.ports[p].replays) : replayOnce s p = linkFail s p := if_pos h

theorem exec_creditTimer_trained {s : State} {p : Fin 3} (hon : s.casOn = true) (htrained : s.cas.ports[p].trained = true) :
    exec (.creditTimer p) s = .next (modPort s p (fun t => { t with credSent := t.rxFreed })) := by
  change execCreditTimer p s = _
  simp only [execCreditTimer, hon, htrained, Bool.and_self, if_true]

theorem exec_credit_rxOn {s : State} {p : Fin 3} (a b c : BitVec 16) (hrx : s.rxOn p = true) : exec (.credit p a b c) s =
    .next (modPort s p (fun t => { t with freed := #v[a, b, c] }.drain [] [] t.waiting)) := if_neg (by simp [hrx])

end Sys2Proof.Machine
end

section
/-! SUPPORT. The cascade's packets: what the receiver takes, and that a packet taken is relayed or acts (R611 to R614). -/

namespace Sys2Proof.Machine

/-! ### The receiver (R613) -/

section
variable {s : State} {p : Fin 3} {rx : Rx} (hrx : s.rxOn p = true) (hstomp : rx.stomp = false)
include hrx hstomp

theorem receive_next (hcrc : rx.crcOk = true) (hseq : rx.seq = s.cas.ports[p].rxSeq) :
    receive s p rx = (modPort s p (fun t => { t with rxSeq := t.rxSeq + 1, linkSent := some (true, rx.seq) }), true) := by
  unfold receive
  dsimp only
  rw [if_neg (by simp [hrx, hstomp]), if_pos (by simp [hcrc, hseq])]

theorem receive_refused (h : rx.crcOk = false ∨
    (1 ≤ (rx.seq - s.cas.ports[p].rxSeq).toNat ∧ (rx.seq - s.cas.ports[p].rxSeq).toNat < 2048)) :
    receive s p rx = (modPort s p (fun t => { t with linkSent := some (false, t.rxSeq) }), false) := by
  have hnext : ¬ (rx.crcOk && rx.seq == s.cas.ports[p].rxSeq) = true := by
    rcases h with h | ⟨h, -⟩
    · simp [h]
    · intro hsame
      rw [Bool.and_eq_true, beq_iff_eq] at hsame
      rw [hsame.2, BitVec.sub_self] at h
      exact absurd h (by decide)
  have hold : ¬ (rx.crcOk && decide (2048 ≤ (rx.seq - s.cas.ports[p].rxSeq).toNat)) = true := by
    rcases h with h | ⟨-, h⟩
    · simp [h]
    · rw [decide_eq_false h.not_ge, Bool.and_false]
      exact Bool.false_ne_true
  unfold receive
  dsimp only
  rw [if_neg (by simp [hrx, hstomp]), if_neg hnext, if_neg hold]

end

/-! ### Packets taken in (R611, R612) -/

/-- `s` after the receiver of a port has looked at a packet and the packet's space is freed. -/
def tookIn (s : State) (p : Fin 3) (rx : Rx) : State := freeRx (receive s p rx).1 p rx.pkt

section
variable {s : State} {p : Fin 3} {rx : Rx} (htaken : (receive s p rx).2 = true)
include htaken

theorem onPacket_valid {type : Nat} (act : State → State) (hok : pktOk type rx.pkt = true) : onPacket s p rx type act =
    if (tookIn s p rx).forMe p rx.pkt then act (tookIn s p rx) else relay (tookIn s p rx) p rx.pkt := by
  unfold onPacket
  dsimp only
  rw [if_neg (by simp [htaken]), if_neg (by simp [hok])]
  rfl

theorem onPacket_malformed {type : Nat} (act : State → State) (hbad : pktOk type rx.pkt = false) :
    onPacket s p rx type act = tookIn s p rx := by
  unfold onPacket
  dsimp only
  rw [if_neg (by simp [htaken]), if_pos (by simp [hbad])]
  rfl

theorem onPacket_mine {type : Nat} (act : State → State) (hok : pktOk type rx.pkt = true)
    (hmine : (tookIn s p rx).forMe p rx.pkt = true) : onPacket s p rx type act = act (tookIn s p rx) := by
  rw [onPacket_valid htaken act hok, if_pos hmine]

theorem onPacket_relayed {type : Nat} (act : State → State) (hok : pktOk type rx.pkt = true)
    (hother : (tookIn s p rx).forMe p rx.pkt = false) : onPacket s p rx type act = relay (tookIn s p rx) p rx.pkt := by
  rw [onPacket_valid htaken act hok, if_neg (by rw [hother]; exact Bool.false_ne_true)]

end

/-- A packet malformed for its own type is so for every type. -/
theorem not_pktOk_of_malformed {pkt : Packet} (h : pktOk pkt.type pkt = false) (type : Nat) : pktOk type pkt = false := by
  unfold pktOk at h ⊢
  rw [beq_self_eq_true, Bool.true_and] at h
  rw [h, Bool.and_false]

/-! ### Entries (R617, R622, R623) -/

section
variable {s : State} {p : Fin 3} {rx : Rx} (htaken : (receive s p rx).2 = true)
include htaken

theorem exec_entry_malformed (hbad : pktOk 0x01 rx.pkt = false) : exec (.entry p rx) s = .next (tookIn s p rx) := by
  change execEntry p rx s = _
  simp only [execEntry, htaken, hbad, Bool.not_true, Bool.not_false, Bool.false_and, Bool.false_eq_true, if_false, if_true]
  rfl

variable (hok : pktOk 0x01 rx.pkt = true)
include hok

theorem exec_entry_held (hmine : (receive s p rx).1.forMe p rx.pkt = true) (henum : (receive s p rx).1.cas.enumerated = true)
    (hrunning : (receive s p rx).1.stopped = false) : exec (.entry p rx) s = .next { (receive s p rx).1 with
      cas := { (receive s p rx).1.cas with entries := (receive s p rx).1.cas.entries ++ [(p, rx.pkt)] } } := by
  change execEntry p rx s = _
  simp only [execEntry, htaken, hok, hmine, henum, hrunning, Bool.not_true, Bool.not_false, Bool.and_self, Bool.false_eq_true, if_false,
    if_true]

theorem exec_entry_stopped (hmine : (receive s p rx).1.forMe p rx.pkt = true) (henum : (receive s p rx).1.cas.enumerated = true)
    (hstopped : (receive s p rx).1.stopped = true) :
    exec (.entry p rx) s = .next (answerEntry (tookIn s p rx) rx.pkt scAborted) := by
  have hmine' : (freeRx (receive s p rx).1 p rx.pkt).forMe p rx.pkt = true := hmine
  have henum' : (freeRx (receive s p rx).1 p rx.pkt).cas.enumerated = true := henum
  change execEntry p rx s = _
  simp only [execEntry, htaken, hok, hmine, hmine', henum, henum', hstopped, Bool.not_true, Bool.and_false, Bool.false_eq_true, if_false,
    if_true]
  rfl

theorem exec_entry_relayed (hother : (receive s p rx).1.forMe p rx.pkt = false) :
    exec (.entry p rx) s = .next (relay (tookIn s p rx) p rx.pkt) := by
  have hother' : (freeRx (receive s p rx).1 p rx.pkt).forMe p rx.pkt = false := hother
  change execEntry p rx s = _
  simp only [execEntry, htaken, hok, hother, hother', Bool.not_true, Bool.and_false, Bool.false_and, Bool.false_eq_true, if_false]
  rfl

end

/-! ### The acts of a JOIN and of a LEAVE (R618, R633) -/

section
variable {s : State} {p : Fin 3} {rx : Rx} (htaken : (receive s p rx).2 = true)
include htaken

theorem exec_join_member (hok : pktOk 0x14 rx.pkt = true) (hmine : (tookIn s p rx).forMe p rx.pkt = true)
    (hmember : (tookIn s p rx).keystone = false) : exec (.join p rx) s = .next (tookIn s p rx) := by
  refine congrArg Host.Outcome.next ((onPacket_mine htaken _ hok hmine).trans ?_)
  simp only [hmember, Bool.false_and, Bool.false_eq_true, if_false]

theorem exec_join_keystone {d pos : Nat} (hok : pktOk 0x14 rx.pkt = true) (hmine : (tookIn s p rx).forMe p rx.pkt = true)
    (hkeystone : (tookIn s p rx).keystone = true) (hport : fieldAt rx.pkt.payload 0 4 = 1 ∨ fieldAt rx.pkt.payload 0 4 = 2)
    (hstands : tget (tookIn s p rx).standing rx.pkt.src = some (d, pos)) :
    exec (.join p rx) s = .next (joinAt (tookIn s p rx) (d + 1) (pos + fieldAt rx.pkt.payload 0 4 * 4 ^ d)) := by
  refine congrArg Host.Outcome.next ((onPacket_mine htaken _ hok hmine).trans ?_)
  dsimp only
  rw [if_pos (by simpa [hkeystone] using hport), hstands]

theorem exec_leave_valid (hok : pktOk 0x15 rx.pkt = true) : exec (.leave p rx) s = .next (
    if (tookIn s p rx).forMe p rx.pkt = false then relay (tookIn s p rx) p rx.pkt
    else if (tookIn s p rx).keystone = true then keystoneLeave (tookIn s p rx) (leaveIds rx.pkt)
    else if p = 0 ∧ (leaveIds rx.pkt).contains (tookIn s p rx).cas.memberId = true then loseUp (tookIn s p rx)
    else membersLeft (tookIn s p rx) (fun i => (leaveIds rx.pkt).contains i)) := by
  refine congrArg Host.Outcome.next ?_
  cases hmine : (tookIn s p rx).forMe p rx.pkt with
  | false => exact (onPacket_relayed htaken _ hok hmine).trans (if_pos rfl).symm
  | true =>
    refine (onPacket_mine htaken _ hok hmine).trans ?_
    rw [if_neg (by decide : ¬ true = false)]
    simp only [Bool.and_eq_true, beq_iff_eq]

theorem exec_keyq_valid (hok : pktOk 0x16 rx.pkt = true) : exec (.keyq p rx) s = .next (
    if (tookIn s p rx).forMe p rx.pkt = false then relay (tookIn s p rx) p rx.pkt
    else if (tookIn s p rx).keystone = true then sendPkt (tookIn s p rx) ⟨0x17, 2, true, rx.pkt.src, (tookIn s p rx).srcId, rx.pkt.txn, 0,
      (tookIn s p rx).rosterCert (fieldAt rx.pkt.payload 0 2 % 4096)⟩
    else tookIn s p rx) := by
  refine congrArg Host.Outcome.next ?_
  cases hmine : (tookIn s p rx).forMe p rx.pkt with
  | false => exact (onPacket_relayed htaken _ hok hmine).trans (if_pos rfl).symm
  | true =>
    refine (onPacket_mine htaken _ hok hmine).trans ?_
    rw [if_neg (by decide : ¬ true = false)]
    cases (tookIn s p rx).keystone <;> rfl

end

theorem exec_pull_valid {s : State} {p : Fin 3} {rx : Rx} (b : Bus) (htaken : (receive (absorbBus s b) p rx).2 = true)
    (hok : pktOk 0x02 rx.pkt = true) :
    let s1 := tookIn (absorbBus s b) p rx
    exec (.pull p rx b) s = .next (if s1.forMe p rx.pkt = false then relay s1 p rx.pkt
      else if 0x80000000 ≤ rx.pkt.txn then transferPull s1 rx.pkt else answerPull s1 b rx.pkt) := by
  intro s1
  refine congrArg Host.Outcome.next ?_
  cases hmine : s1.forMe p rx.pkt with
  | false => exact (onPacket_relayed htaken _ hok hmine).trans (if_pos rfl).symm
  | true => exact (onPacket_mine htaken _ hok hmine).trans (if_neg (by decide)).symm

theorem exec_attestTimeout_first {s : State} {a : Attest} {rest : List Attest} (ha : s.cas.attests = a :: rest) (hon : s.casOn = true)
    (hkeystone : s.keystone = true) : exec .attestTimeout s = .next (settleAttest s a none) := by
  change execAttestTimeout s = _
  simp only [execAttestTimeout, ha, hon, hkeystone, Bool.and_self, if_true]

end Sys2Proof.Machine
end

section
/-! PROOFS. The obligations about the cascade's ports and packets (chapter 19). -/

namespace Sys2Proof.Machine

/-- Settles O58: each command past its gate; the sixteenth TRAIN block and the seventeenth replay decide (log 33). -/
theorem portResult : Obligations.PortResult := by
  refine ⟨fun s p hmay => ?_, fun s p role version ks hon htraining hlock =>
      ⟨exec_train_incompatible hon htraining hlock, exec_train_wrongRole hon htraining hlock, fun hversion hkeystones hroles hrole => ?_⟩,
    fun s p hon => ⟨⟨_, exec_blockLockAcquired_on hon, ?_⟩, fun hlock => ⟨_, exec_blockLockLost_locked hon hlock, ?_⟩,
      exec_leaveDetect_lost hon⟩,
    fun s p seq hrx => ⟨exec_ack_advances hrx, fun hknown => ⟨fun h => ?_, fun h => ?_⟩⟩,
    fun s p hon htrained => ⟨fun hreplay h => ?_, exec_creditTimer_trained hon htrained⟩,
    fun s p a b c => exec_credit_rxOn a b c⟩
  · have h := startTraining_mayTrain hmay
    refine ⟨_, congrArg Host.Outcome.next h, congrArg Host.Outcome.next h, ?_⟩
    rw [modPort_port_self]
    exact ⟨rfl, rfl⟩
  · rw [exec_train_rightRole hon htraining hlock hversion hrole hkeystones hroles]
    exact ⟨fun h => if_pos h, fun h => if_neg h.not_gt⟩
  · rw [modPort_port_self]
    exact ⟨rfl, rfl, fun q hq => modPort_port_ne s p q _ hq.symm⟩
  · rw [modPort_port_self]
    exact ⟨rfl, rfl, rfl, rfl⟩
  · rw [exec_nak_known hrx hknown, replayOnce_again h]
  · rw [exec_nak_known hrx hknown, replayOnce_fails h]
  · rw [exec_replayTimeout_unacked hon htrained hreplay, replayOnce_again h]

/-- Settles O59: the receiver by what it makes of the packet; then each type is relayed or acts (the payload layouts are log 20's, the
packets dropped log 33's). -/
theorem packetResult : Obligations.PacketResult := by
  refine ⟨fun s p rx hrx hstomp => ⟨fun hcrc hseq => ?_, fun h => ?_⟩, fun s p rx htaken => ⟨?_, ?_, ?_, ?_,
      fun hok => ⟨fun hother => ?_, exec_join_member htaken hok, fun d pos => exec_join_keystone htaken hok⟩, exec_leave_valid htaken,
      exec_keyq_valid htaken, ?_, ?_, ?_,
      fun hok => ⟨fun hmine henum => ⟨exec_entry_held htaken hok hmine henum, exec_entry_stopped htaken hok hmine henum⟩,
        exec_entry_relayed htaken hok⟩,
      fun hbad => ⟨?_, exec_entry_malformed htaken (not_pktOk_of_malformed hbad _)⟩⟩,
    fun s p rx b htaken => ⟨exec_pull_valid b htaken, ?_⟩, fun s a rest => exec_attestTimeout_first⟩
  · rw [receive_next hrx hstomp hcrc hseq]
    dsimp only
    rw [modPort_port_self]
    exact ⟨rfl, rfl, rfl⟩
  · rw [receive_refused hrx hstomp h]
    dsimp only
    rw [modPort_port_self]
    exact ⟨rfl, rfl, rfl⟩
  · exact fun hok => congrArg Host.Outcome.next (onPacket_valid htaken _ hok)
  · exact fun hok => congrArg Host.Outcome.next (onPacket_valid htaken _ hok)
  · exact fun hok => congrArg Host.Outcome.next (onPacket_valid htaken _ hok)
  · exact fun hok => congrArg Host.Outcome.next (onPacket_valid htaken _ hok)
  · exact congrArg Host.Outcome.next (onPacket_relayed htaken _ hok hother)
  · exact fun hok => congrArg Host.Outcome.next (onPacket_valid htaken _ hok)
  · exact fun hok => congrArg Host.Outcome.next (onPacket_valid htaken _ hok)
  · exact fun hok => congrArg Host.Outcome.next (onPacket_valid htaken _ hok)
  · exact congrArg Host.Outcome.next (onPacket_malformed htaken _ (not_pktOk_of_malformed hbad _))
  · exact fun hok => congrArg Host.Outcome.next (onPacket_valid htaken _ hok)

end Sys2Proof.Machine
end

section
/-! SUPPORT. The Management Serial Port: its frames by CRC, argument and permission, its orders, and what a burn leaves in the OTP array
(R650 to R673). -/

namespace Sys2Proof.Machine

/-! ### Reads (R651, R655, R656, R664) -/

theorem answer_eq_refusal {s : State} {fstat : Nat} (h : fstat ≠ fstatOk) (d : Nat) (data : List Byte) :
    answer s fstat d data = { s with aon := { s.aon with frame := some ⟨none, fstat, List.replicate d 0⟩ } } := by
  unfold answer
  rw [if_neg (by simpa using h)]

theorem answer_ok (s : State) (d : Nat) (data : List Byte) :
    answer s fstatOk d data = { s with aon := { s.aon with frame := some ⟨none, fstatOk, data⟩ } } := rfl

section
variable {s : State} {arg hcrc : BitVec 16} (hv : s.pins.vaon = true)
include hv

theorem exec_mspReadStatus_vaon : exec (.mspReadStatus arg hcrc) s = .next (
    if hcrcOk 0x01 arg [] hcrc = false then answer (endFrame s) fstatBadCrc 8 []
    else if arg ≠ 0 then answer (endFrame s) fstatBadArg 8 []
    else answer (endFrame s) fstatOk 8 (endFrame s).mspStatus) := by
  change execMspReadStatus arg hcrc s = _
  unfold execMspReadStatus
  rw [if_neg (by simp [hv])]
  dsimp only
  cases hcrcOk 0x01 arg [] hcrc with
  | false => rfl
  | true => exact (apply_ite Host.Outcome.next _ _ _).symm

theorem exec_mspReadId_good (hcrc' : hcrcOk 0x02 arg [] hcrc = true) : exec (.mspReadId arg hcrc) s = .next (
    if arg ≠ 0 then answer (endFrame s) fstatBadArg 24 [] else answer (endFrame s) fstatOk 24 (endFrame s).mspId) := by
  change execMspReadId arg hcrc s = _
  unfold execMspReadId
  rw [if_neg (by simp [hv])]
  dsimp only
  rw [if_neg (by simp [hcrc'])]
  exact (apply_ite Host.Outcome.next _ _ _).symm

theorem exec_readOtp_good (hcrc' : hcrcOk 0x03 arg [] hcrc = true) : exec (.readOtp arg hcrc) s = .next (
    if arg.toNat % 8 != 0 || 0xF8 < arg.toNat then answer (endFrame s) fstatBadArg 64 []
    else answer (endFrame s) fstatOk 64 ((List.range 8).flatMap (fun i => leBytes 8 ((endFrame s).otpShown (arg.toNat + i)).toNat))) := by
  change execReadOtp arg hcrc s = _
  unfold execReadOtp
  rw [if_neg (by simp [hv])]
  dsimp only
  rw [if_neg (by simp [hcrc'])]
  exact (apply_ite Host.Outcome.next _ _ _).symm

/-- A snapshot frame with a good CRC: the page, the permission and the core, in this order. -/
theorem exec_readSnapshot_good (hcrc' : hcrcOk 0x10 arg [] hcrc = true) : exec (.readSnapshot arg hcrc) s =
    if 3 < arg.toNat then .next (answer (endFrame s) fstatBadArg 32 [])
    else if arg ≠ 2 && !(endFrame s).mspPolicy.getLsbD 0 then .next (deny (endFrame s) 32)
    else if arg ≠ 2 && (endFrame s).coreOff then .next (answer (endFrame s) fstatCoreOff 32 [])
    else .next (answer (endFrame s) fstatOk 32 ((endFrame s).snapshot arg.toNat)) := by
  change execReadSnapshot arg hcrc s = _
  unfold execReadSnapshot
  rw [if_neg (by simp [hv])]
  dsimp only
  rw [if_neg (by simp [hcrc'])]

theorem exec_readSnapshot_page (hcrc' : hcrcOk 0x10 arg [] hcrc = true) (harg : arg.toNat ≤ 3) : exec (.readSnapshot arg hcrc) s =
    if arg ≠ 2 && !(endFrame s).mspPolicy.getLsbD 0 then .next (deny (endFrame s) 32)
    else if arg ≠ 2 && (endFrame s).coreOff then .next (answer (endFrame s) fstatCoreOff 32 [])
    else .next (answer (endFrame s) fstatOk 32 ((endFrame s).snapshot arg.toNat)) := by
  rw [exec_readSnapshot_good hv hcrc', if_neg harg.not_gt]

theorem exec_mspBadOp_unassigned {op : Byte} (hop : op.toNat ∉ mspOps) (hcrc' : hcrcOk op.toNat arg [] hcrc = true) :
    exec (.mspBadOp op arg hcrc) s = .next (answer (endFrame s) fstatBadOp 0 []) := by
  have hop' : mspOps.contains op.toNat = false := by simpa using hop
  change execMspBadOp op arg hcrc s = _
  unfold execMspBadOp
  rw [if_neg (by rw [hv, hop']; decide)]
  dsimp only
  rw [if_neg (by simp [hcrc'])]

end

theorem otpShown_keyArea (s : State) {w : Nat} (hlow : 0x20 ≤ w) (hhigh : w < 0x28) : s.otpShown w = 0 :=
  if_pos (by simp [hlow, hhigh])

/-! ### Orders (R650, R659) -/

theorem endFrame_requested (s : State) : (endFrame s).aon.reqCh = s.aon.reqCh ∧ (endFrame s).aon.reqFlags = s.aon.reqFlags := by
  unfold endFrame
  split <;> exact ⟨rfl, rfl⟩

theorem orderFrame_badCrc {op : Nat} (setting : Bool) {arg : BitVec 16} {payload : Word} {hcrc : BitVec 16} (s : State)
    (h : hcrcOk op arg (leBytes 4 payload.toNat) hcrc = false) :
    orderFrame op setting arg payload hcrc s = answer (endFrame s) fstatBadCrc 0 [] :=
  if_pos (by rw [h]; rfl)

/-! ### Burns (R669, R671 to R673) -/

section
variable {s : State} {arg : BitVec 16} {v : DWord} {hcrc : BitVec 16} (hv : s.pins.vaon = true)
  (hcrc' : hcrcOk 0x60 arg (leBytes 8 v.toNat) hcrc = true)
include hv hcrc'

/-- A BURN with a good CRC: the permission, the word and the bits it would clear, in this order. -/
theorem exec_burn_good : exec (.burn arg v hcrc) s =
    if !(endFrame s).mspPolicy.getLsbD 4 then .next (deny (endFrame s) 0)
    else if arg.toNat < 0x48 || 0x5F < arg.toNat then .next (answer (endFrame s) fstatBadArg 0 [])
    else if ((endFrame s).aon.shadow[arg.toNat]?).getD 0 &&& ~~~v ≠ 0 then .next (answer (endFrame s) fstatNotBlank 0 [])
    else .next { endFrame s with aon := { (endFrame s).aon with frame := some ⟨some (arg.toNat, v), fstatOk, []⟩ } } := by
  change execBurn arg v hcrc s = _
  unfold execBurn
  rw [if_neg (by simp [hv])]
  dsimp only
  rw [if_neg (by simp [hcrc'])]

theorem exec_burn_denied (hpolicy : (endFrame s).mspPolicy.getLsbD 4 = false) : exec (.burn arg v hcrc) s = .next (deny (endFrame s) 0) := by
  rw [exec_burn_good hv hcrc', if_pos (by rw [hpolicy]; rfl)]

variable (hpolicy : (endFrame s).mspPolicy.getLsbD 4 = true)
include hpolicy

theorem exec_burn_badWord (hw : arg.toNat < 0x48 ∨ 0x5F < arg.toNat) :
    exec (.burn arg v hcrc) s = .next (answer (endFrame s) fstatBadArg 0 []) := by
  rw [exec_burn_good hv hcrc', if_neg (by rw [hpolicy]; decide), if_pos (by simpa using hw)]

/-- A word of Table 20-8 that BURN may name: it is taken where no bit would have to clear. -/
theorem exec_burn_word (hlow : 0x48 ≤ arg.toNat) (hhigh : arg.toNat ≤ 0x5F) : exec (.burn arg v hcrc) s =
    if ((endFrame s).aon.shadow[arg.toNat]?).getD 0 &&& ~~~v ≠ 0 then .next (answer (endFrame s) fstatNotBlank 0 [])
    else .next { endFrame s with aon := { (endFrame s).aon with frame := some ⟨some (arg.toNat, v), fstatOk, []⟩ } } := by
  rw [exec_burn_good hv hcrc', if_neg (by rw [hpolicy]; decide), if_neg (by simp [hlow.not_gt, hhigh.not_gt])]

end

theorem exec_mspCsRise_burning {s : State} {w : Nat} {v : DWord} {st : Nat} {d : List Byte} (clocks : Nat) (failing : DWord)
    (hv : s.pins.vaon = true) (hframe : s.aon.frame = some ⟨some (w, v), st, d⟩) :
    exec (.mspCsRise clocks failing) s = .next (endBurn s w v clocks failing) := by
  change execMspCsRise clocks failing s = _
  unfold execMspCsRise
  rw [if_neg (by simp [hv]), hframe]

theorem endBurn_otp_ne (s : State) {w k : Nat} (v : DWord) (clocks : Nat) (failing : DWord) (h : k ≠ w) :
    (endBurn s w v clocks failing).aon.otp[k]? = s.aon.otp[k]? :=
  Vector.getElem?_setIfInBounds_ne h.symm

theorem endBurn_noClock (s : State) {w : Nat} (hw : w < 256) (v failing : DWord) : (endBurn s w v 0 failing).aon.otp = s.aon.otp := by
  refine Vector.ext fun k hk => ?_
  change (s.aon.otp.setIfInBounds w ((s.aon.otp[w]?).getD 0 ||| 0))[k] = s.aon.otp[k]
  rw [Vector.getElem_setIfInBounds]
  split
  · next h => subst h; simp [hw]
  · rfl

theorem endBurn_allClocks (s : State) {w : Nat} (hw : w < 256) (v : DWord) {clocks : Nat} (hclocks : 2048 ≤ clocks) :
    (endBurn s w v clocks 0).aon.otp[w]? = some ((s.aon.otp[w]?).getD 0 ||| v) ∧
    (endBurn s w v clocks 0).aon.shadow[w]? = (endBurn s w v clocks 0).aon.otp[w]? := by
  have hsome : ¬ (clocks == 0) = true := by simp; omega
  have hmany : ¬ clocks < 1792 := by omega
  have hall : v &&& ~~~(0 : DWord) = v := BitVec.and_allOnes
  unfold endBurn
  simp only [if_neg hsome, if_neg hmany, hall, Vector.getElem?_setIfInBounds_self_of_lt hw, and_self]

theorem exec_thermometerBurn_due {s : State} {fw : Bool} (hc : s.gbl.coreOn = true)
    (hdue : s.aon.thermDue.getLsbD (if fw = true then 1 else 0) = true) (hpfail : s.pins.pfailN = true) (hpf : s.energy.pfSeq = false)
    (hframe : s.aon.frame = none) : exec (.thermometerBurn fw) s = .next (raiseTherm s fw) := by
  have hdue' : s.aon.thermDue.getLsbD (b2n fw) = true := hdue
  change execThermometerBurn fw s = _
  simp only [execThermometerBurn, hc, hdue', hpfail, hpf, hframe, Bool.not_false, Bool.and_self, if_true]

theorem raiseTherm_word (s : State) (fw : Bool) : (raiseTherm s fw).aon.otp[if fw = true then 0x61 else 0x60]? =
    some ((s.aon.otp[if fw = true then 0x61 else 0x60]?).getD 0 ||| thermWord (s.thermTarget fw)) :=
  Vector.getElem?_setIfInBounds_self_of_lt (by split <;> decide)

theorem raiseTherm_otp_ne (s : State) (fw : Bool) {k : Nat} (h : k ≠ if fw = true then 0x61 else 0x60) :
    (raiseTherm s fw).aon.otp[k]? = s.aon.otp[k]? :=
  Vector.getElem?_setIfInBounds_ne h.symm

end Sys2Proof.Machine
end

section
/-! PROOFS. The obligation about the Management Serial Port (chapter 20). -/

namespace Sys2Proof.Machine

/-- Settles O60: each frame by its CRC, its argument and its permission; a burn in its two commands (log 18), the thermometer's whole in
one (log 8). -/
theorem mspResult : Obligations.MspResult := by
  refine ⟨fun s arg hcrc hv => ⟨fun hc => ?_, fun hc => ?_, fun hc harg => ?_, fun hc harg => ?_, fun hc harg => ?_, fun hc harg => ?_,
      fun hc => ?_, fun hc hmod harg => ?_, fun hc harg => ⟨fun hpage hpolicy => ?_, fun hpage hpolicy hoff => ?_, fun h => ?_⟩,
      fun op hop hc => exec_mspBadOp_unassigned hv hop hc⟩,
    fun s w => otpShown_keyArea s,
    fun s arg payload hcrc hv => ⟨if_pos hv, if_pos hv, fun hc => ?_⟩,
    fun s arg v hcrc hv hc => ⟨exec_burn_denied hv hc, exec_burn_badWord hv hc, fun hpolicy hlow hhigh => ⟨fun h => ?_, fun h => ?_⟩⟩,
    fun s w v st d clocks hv hframe hw => ⟨_, exec_mspCsRise_burning clocks 0 hv hframe, fun hnone => ?_,
      endBurn_allClocks s hw v, fun k => endBurn_otp_ne s v clocks 0⟩,
    fun s hoff hpf hack => if_neg (by simp [hoff, hpf, hack]), fun s hdis => if_pos hdis,
    fun s fw hc hdue hpfail hpf hframe => ⟨_, exec_thermometerBurn_due hc hdue hpfail hpf hframe, raiseTherm_word s fw,
      fun k => raiseTherm_otp_ne s fw, rfl, rfl⟩⟩
  · rw [exec_mspReadStatus_vaon hv, if_neg (by rw [hc]; decide), if_neg (not_not_intro rfl)]
    rfl
  · rw [exec_mspReadStatus_vaon hv, if_pos hc]
    rfl
  · rw [exec_mspReadStatus_vaon hv, if_neg (by rw [hc]; decide), if_pos harg]
    rfl
  · rw [exec_mspReadId_good hv hc, if_pos harg]
    rfl
  · rw [exec_readOtp_good hv hc, if_pos (by simpa using harg)]
    rfl
  · rw [exec_readSnapshot_good hv hc, if_pos harg]
    rfl
  · rw [exec_mspReadId_good hv hc, if_neg (not_not_intro rfl)]
    rfl
  · rw [exec_readOtp_good hv hc, if_neg (by simp [hmod, harg])]
    rfl
  · rw [exec_readSnapshot_page hv hc harg, if_pos (by rw [hpolicy]; simpa using hpage)]
  · rw [exec_readSnapshot_page hv hc harg, if_neg (by rw [hpolicy]; simp), if_pos (by rw [hoff]; simpa using hpage)]
    rfl
  · have hgates : ¬ (arg ≠ 2 && !(endFrame s).mspPolicy.getLsbD 0) = true ∧ ¬ (arg ≠ 2 && (endFrame s).coreOff) = true := by
      rcases h with h | ⟨hpolicy, hoff⟩
      · simp [h]
      · rw [hpolicy, hoff]
        simp
    rw [exec_readSnapshot_page hv hc harg, if_neg hgates.1, if_neg hgates.2]
    rfl
  · rw [orderFrame_badCrc true s hc]
    exact endFrame_requested s
  · rw [exec_burn_word hv hc hpolicy hlow hhigh, if_pos h]
    rfl
  · rw [exec_burn_word hv hc hpolicy hlow hhigh, if_neg (not_not_intro h)]
    rfl
  · subst hnone
    exact endBurn_noClock s hw v 0

end Sys2Proof.Machine
end
